-- ==== Sys2Proof/Word.lean ====
section
/-! DEFINITION. The words the DX-4096 manual computes with (R4, R6): bytes, 16-, 32- and 64-bit words,
and the identifiers of R14 that are bit fields of its records. -/
namespace Sys2Proof

/-- A byte. -/
abbrev Byte := BitVec 8
/-- A 16-bit word: status and event codes, command ids, weight set numbers. -/
abbrev W16 := BitVec 16
/-- A 32-bit word: sync counts, FP32 bit patterns, launch offsets. -/
abbrev W32 := BitVec 32
/-- A 64-bit word: registers, command words, marks. -/
abbrev W64 := BitVec 64
/-- A 48-bit local address (R337). -/
abbrev Addr := BitVec 48
/-- A tile index: die × 2048 + row × 64 + col (R14). -/
abbrev TileId := BitVec 12
/-- A channel number (R14). -/
abbrev ChanId := BitVec 6
/-- One of a tile's four arrays. -/
abbrev ArrayId := BitVec 2
/-- One of a tile's eight streams (R238). -/
abbrev StreamId := BitVec 3
/-- A tray slot (R14). -/
abbrev SlotId := BitVec 4
/-- A host context (R14). -/
abbrev CtxId := BitVec 4

end Sys2Proof
end

