-- ==== Sys2Proof/Syntax.lean ====
section
/-! DEFINITION. The steps of the part: one constructor of `Instr` per row of spec/opcode_table.json, with the
operands that come from outside the module's own state. A step that acts on something the module already holds
(the head of a tile's queue, the oldest transaction in a receive buffer, the request a context has had read)
names only the unit; what it acts on stands in `State`. -/
namespace Sys2Proof

/-- The four straits, by logical name (R14, R414). -/
inductive Strait where
  | e | w | x0 | x1
deriving DecidableEq, Repr

/-- Who sends a mailbox request (R440): one of the 16 contexts, or the management mailbox. -/
inductive Issuer where
  | ctx (n : CtxId)
  | mgmt
deriving DecidableEq, Repr

/-- What an array's hardware did to one output vector (R144, R147, R175): nothing wrong, a column sum that
came out as other bits, or a scaling multiplier whose duplicate disagreed. -/
inductive ArrayFault where
  | clean
  | column (col : BitVec 4) (bits : W32)
  | duplicate
deriving DecidableEq, Repr

/-- What a package's refresh-rate register asks for (R278). -/
inductive RefreshDemand where
  | normal
  | twice
  | above
  /-- Refresh management, which the package can wait for until the next window, or needs sooner (R265, R277; log 101). -/
  | rfm (soon : Bool)
deriving DecidableEq, Repr

/-- Which host BAR a request reaches (R339). -/
inductive Bar where
  | bar0 | bar2 | bar4
deriving DecidableEq, Repr

/-- Who writes a sync port from outside the module (R341, R352). -/
inductive PortSource where
  | host (c : CtxId)
  | tray (slot : SlotId)
deriving DecidableEq, Repr

/-- The three TAPs in series (R564). -/
inductive Tap where
  | hub | c0 | c1
deriving DecidableEq, Repr

/-- The training that failed (R576, MEM_TRAIN_FAIL). -/
inductive TrainKind where
  | ca | wck2ck | readDq | writeDq
deriving DecidableEq, Repr

/-- The sensors of R555. -/
inductive Sensor where
  | die | regulator | package (p : BitVec 4) | inlet
deriving DecidableEq, Repr

/-- What the boot meets outside the module's registers (R531, R534, R546, R268): whether the PUF seed could be
reconstructed, the bits it gave, the slot strap, the cause the front end kept, and a channel that failed training. -/
structure BootInputs where
  seedOk    : Bool
  ga        : BitVec 4
  trainFail : Option (ChanId × TrainKind)
deriving DecidableEq, Repr

/-- A member's report at the end of the drain (R473), as the tide master holds it. -/
structure MemberReport where
  pos      : BitVec 6
  downE    : Bool
  downW    : Bool
  cls      : Byte
  excluded : Bool
  frozen   : Bool
  suspect  : Bool
  ledger   : Bool
  cancelled : Bool
  /-- The member's time base is aligned (R104). -/
  aligned  : Bool
deriving DecidableEq, Repr

/-- A member's report to the tide master in AGREE (R412, R418): its position, version range and stagger (R67), and its four
discovered-map entries of 32 B (R419), which hold its strait results. -/
structure AgreeReport where
  pos     : BitVec 6
  pmin    : Byte
  pmax    : Byte
  stagger : Byte
  entries : List Byte
deriving DecidableEq, Repr

/-- The tide master's decision on a formation (R412, R415, R417): whether it passed, the status if not, V_R, and the break of the
line it forms, if it forms one. -/
structure FormVerdict where
  pass   : Bool
  status : W16
  vr     : Byte
  line   : Option (BitVec 6)
deriving DecidableEq, Repr

/-- The tide master's decision on a recovery (R474): RESULT and CLASS, the break of the line it forms, if it forms one, and t_dec. -/
structure Decision where
  result : Byte
  cls    : Byte
  brk    : BitVec 6
  tDec   : W64
deriving DecidableEq, Repr

/-- The steps of the module, in the order of spec/opcode_table.json. -/
inductive Instr where
  -- Tide Time and Launch by Mark
  | pllLock
  | refSourceInvalid (src : BitVec 3)
  | refSourceValid (src : BitVec 3)
  | holdoverTimeout
  | timeExchangeTimer (st : Strait)
  | timeRequest (st : Strait) (frac : BitVec 9)
  | timeReply (st : Strait) (frac : BitVec 9)
  -- Tile commands and arrays
  | queueFetch (t : TileId)
  | wait (t : TileId)
  | signal (t : TileId)
  | fence (t : TileId)
  | matmul (t : TileId)
  | loadw (t : TileId)
  | swapw (t : TileId)
  | gang (t : TileId)
  | arrayQueueHead (t : TileId) (a : ArrayId)
  | swapwEffect (t : TileId) (a : ArrayId)
  | gangEffect (t : TileId)
  | loadwPlaneValid (t : TileId) (a : ArrayId)
  | accumRowWrite (t : TileId) (a : ArrayId) (flt : ArrayFault)
  | rampUpDone (t : TileId)
  | warmIdleTimeout (t : TileId)
  | rampDownDone (t : TileId)
  -- Vector unit
  | vecAdd (t : TileId)
  | vecSub (t : TileId)
  | vecMul (t : TileId)
  | vecFma (t : TileId)
  | vecMax (t : TileId)
  | vecMin (t : TileId)
  | vecCvt (t : TileId)
  | vecExp2 (t : TileId)
  | vecLog2 (t : TileId)
  | vecRcp (t : TileId)
  | vecRsqrt (t : TileId)
  | vecRsum (t : TileId)
  | vecRmax (t : TileId)
  | vecSmstep (t : TileId)
  | vecNormstat (t : TileId)
  | vecQuant (t : TileId)
  | vecDequant (t : TileId)
  | vecTopk (t : TileId)
  | vectorComplete (t : TileId)
  -- Streams and transfers
  | dma (t : TileId)
  | dma2d (t : TileId)
  | ferryPull (t : TileId)
  | ferryPush (t : TileId)
  | reservationCheckDone (t : TileId) (k : StreamId)
  | channelServiceSlot (ch : ChanId)
  | egressServiceSlot (st : Strait) (frac : BitVec 9)
  | ferryInject (st : Strait)
  | ferrySourceReadDone (st : Strait)
  | transferComplete (t : TileId) (k : StreamId)
  | stallLimit (t : TileId)
  | harvestStored
  -- Attention beside memory
  | attnQ (t : TileId)
  | attnAdmit
  | engineBlock (ch : ChanId)
  | engineRecord (ch : ChanId)
  | attnQComplete (t : TileId)
  -- Observation commands
  | mark (t : TileId)
  | dumpInput (t : TileId)
  | dumpSeal (t : TileId)
  | sealRecordDone (t : TileId)
  -- Refresh and maintenance
  | refreshWindow
  | maintenancePart (ch : ChanId)
  | maintPeriod (ch : ChanId)
  | perBankRefresh (ch : ChanId)
  | addedRefresh (ch : ChanId)
  | refreshRatePoll (ch : ChanId) (code : BitVec 5) (d : RefreshDemand)
  | recheckChunkDone
  -- Host and tray accesses
  | barWrite (fn : CtxId) (rid : W16) (bar : Bar) (off : W64) (data : List Byte) (ep : Bool)
  | barRead (fn : CtxId) (rid : W16) (bar : Bar) (off : W64) (len : Nat)
  | syncPortAdd (src : PortSource) (t : TileId) (o : BitVec 6) (w : W64)
  | syncPortSet (src : PortSource) (t : TileId) (o : BitVec 6) (w : W64)
  | syncPortCount (src : PortSource) (t : TileId) (o : BitVec 6) (w : W64)
  | trayWriteArrival (slot : SlotId) (a : Addr) (data : List Byte) (ep : Bool)
  | trayReadArrival (slot : SlotId) (a : Addr) (len : Nat)
  | trayReadCompletion (t : TileId) (k : StreamId) (data : List Byte) (ep : Bool)
  | mbxReqTailWrite (who : Issuer) (v : W32)
  | mbxRspHeadWrite (who : Issuer) (v : W32)
  | mbxEvtHeadWrite (who : Issuer) (v : W32)
  -- Mailbox commands
  | mailboxRequestRead (who : Issuer)
  | devQuery (who : Issuer)
  | devIdentity (who : Issuer)
  | ctxOpen (who : Issuer)
  | ctxClose (who : Issuer)
  | ctxUnfreeze (who : Issuer)
  | memAlloc (who : Issuer)
  | memFree (who : Issuer)
  | memMap (who : Issuer)
  | memUnmap (who : Issuer)
  | memTable (who : Issuer)
  | tableRefsDrained (slot : BitVec 7)
  | tableLoadTimeout (slot : BitVec 7)
  | ringPlan (who : Issuer) (busErr : Bool)
  | ringForm (who : Issuer) (busErr : Bool)
  | discoverTimeout
  | formationDecision (d : FormVerdict)
  | measureDone (beyond : W64) (count : W64) (passed : Bool) (east : List W32) (west : List W32)
  | formationTimeout
  | ringJoin (who : Issuer) (busErr : Bool)
  | ringLeave (who : Issuer)
  | ringSlack (who : Issuer)
  | ringResume (who : Issuer)
  | ringOrient (who : Issuer) (busErr : Bool)
  | wgtStage (who : Issuer) (busErr : Bool)
  | wgtStageDone (set : W16) (busErr ep : Bool)
  | wgtVerify (who : Issuer) (busErr : Bool)
  | wgtVerifyDone (set : W16)
  | wgtSwitch (who : Issuer)
  | wgtDrop (who : Issuer)
  | wsetEffect (who : Issuer)
  | runLaunch (who : Issuer)
  | runStatus (who : Issuer)
  | runCancel (who : Issuer)
  | obsCounters (who : Issuer) (busErr : Bool)
  | obsTraceConfigure (who : Issuer)
  | obsTraceArm (who : Issuer)
  | obsTraceStop (who : Issuer)
  | obsTraceRead (who : Issuer) (busErr : Bool)
  | obsWatch (who : Issuer)
  | watchFire (t : TileId)
  | watchCopyDone (t : TileId) (busErr : Bool)
  | obsHarvest (who : Issuer) (busErr : Bool)
  | secAttest (who : Issuer) (busErr : Bool)
  | secUpdate (who : Issuer) (busErr : Bool)
  | cfgRead (who : Issuer)
  | cfgWrite (who : Issuer)
  -- Register writes
  | registerWrite (who : Issuer) (a : Addr) (v : W64)
  | tideCtrlWrite (who : Issuer) (v : W64)
  | kprTrayWrite (who : Issuer) (off : BitVec 12) (v : W64)
  | pwrCtrlWrite (who : Issuer) (v : W64)
  -- The Keeper's watchdog
  | watchdogExpiry
  | keeperRestart
  -- Strait training
  | cablePresent (st : Strait)
  | cableRemoved (st : Strait)
  | detectTimeout (st : Strait)
  | detectRetry (st : Strait)
  | detectDone (st : Strait) (lanes : BitVec 16)
  | equaliseDone (st : Strait) (laneOk : BitVec 16)
  | equaliseTimeout (st : Strait)
  | alignDone (st : Strait) (reversed : Bool)
  | alignTimeout (st : Strait)
  | identifyTimeout (st : Strait)
  | fecLockLoss (st : Strait)
  | crcSilenceTimeout (st : Strait)
  | retrainDone (st : Strait) (laneOk : BitVec 16)
  | retrainTimeout (st : Strait)
  -- Flits and transactions
  | flitReceive (st : Strait) (bytes : List Byte) (corrected : Nat) (uncorrectable : Bool)
  | creditStallTimeout (st : Strait)
  | ferry (st : Strait)
  | ferryWritten (st : Strait)
  | ferryHoldStall (st : Strait)
  | rwrite (st : Strait)
  | rread (st : Strait)
  | rreadQueueServe (st : Strait)
  | rreadResponse (st : Strait)
  | straitSignalAdd (st : Strait)
  | straitSignalSet (st : Strait)
  | straitSignalAck (st : Strait)
  | credit (st : Strait)
  | probe (st : Strait)
  | slackRequest (st : Strait)
  | slackCut (st : Strait)
  -- Slack, commits and recovery
  | slackReqPin
  | slackCutMark
  | slackReached
  | stepBoundary
  | berthRelease (r : BitVec 9)
  | commitShadow (t : TileId)
  | commitReport
  | commitDeclare (c : W32)
  | quiesceTimeout
  | drainDone
  | drainTimeout (st : Strait)
  | recoveryDecide (rs : List MemberReport)
  | decisionDeadline (rs : List MemberReport)
  | recoveryDecision (d : Decision)
  | replayMark
  -- Trace
  | panRecord
  | stampWrap
  -- Boot and power
  | powerOnBoot (b : BootInputs)
  | pwrEnRise
  | pwrEnFall
  | inputUndervoltage
  | inputOvervoltage
  | inputRestored
  | inputOvercurrent
  | coreOvercurrent
  | powerSample (mv ma dw : W16)
  | thermalWarning (x : Sensor) (temp : Byte)
  | thermalShutdown (x : Sensor)
  -- PCIe and SMBus
  | perst
  | vfFlr (n : CtxId)
  | pfFlr
  | vfEnableClear
  | d3hot (fn : CtxId)
  | smbusSetWindow (off : W32) (pecOk : Bool)
  | smbusDataWrite (data : List Byte) (pecOk : Bool)
  | smbusDataRead (len : Nat)
  | smbusStatusRead
  | alertResponse
  -- Boundary scan
  | tapReset
  | bypass (tap : Tap)
  | idcode (tap : Tap)
  | samplePreload (tap : Tap) (bits : List Bool)
  | extest (tap : Tap)
  | extestPulse (tap : Tap)
  | extestTrain (tap : Tap)
  | clamp (tap : Tap)
  | highz (tap : Tap)
  | memtestDq (ch : ChanId)
  | memtestCa (ch : ChanId)
  | memtestDone (fail : BitVec 31)
  | ctrlAccess (a : Addr)
  | ctrlAccessDone
  | norAccessRead (a : W32)
  | norAccessWrite (a : W32) (data : W64)
  | norAccessErase (a : W32)
  | norAccessDone
  -- Rows added at the table's end
  | slackReqRelease
  | restoreDone
  | commitReportArrival (pos : BitVec 6) (c : W32)
  | formationAgree (r : AgreeReport)
  | secUpdateDone
  | runLaunchLoaded
  | launchLoadDeadline
  | runCancelDone
  | perstRelease
  | d3hotExit (fn : CtxId)
  | runBaseMark
deriving DecidableEq, Repr

end Sys2Proof
end

