-- ==== Sys2Proof/Config.lean ====
section
/-! DEFINITION. What an implementation or the world beside the module fixes and the manual does not: constants with no
body, so that nothing can be proved of their values. -/
namespace Sys2Proof.Config

/-- Manufacturer code of the IDCODEs, which the BSDL file gives (R564). UNVERIFIED: log 10. -/
opaque manufacturer : BitVec 11
/-- SHA-512 of the Jabiven root public key, in the boot ROM (R526). Log 10. -/
opaque rootKeyHash : List Byte
/-- SHA-512 of the boot ROM's contents (R531). Log 10. -/
opaque romMeasurement : List Byte
/-- The 512-bit seed that the PUF and its helper data give (R531). Log 10. -/
opaque pufSeed : List Byte
/-- A signature's 132 bytes for a private key, a digest and a nonce the manual does not fix (R509, R533, R538). Log 10. -/
opaque signature : Nat → List Byte → Nat → List Byte
/-- The core rail's setpoint in mV, which the on-die monitors choose (R552), by sample. Log 10. -/
opaque coreMillivolts : Nat → W16
/-- The core current in 0.1 A, by sample (R571). Log 10. -/
opaque coreCurrent : Nat → W16
/-- The levels the boundary register captures (R567), by capture. Log 10. -/
opaque pinSample : Nat → List Bool

/-- A 32-bit value that the manual does not state, fresh for each n: the outputs of a MATMUL whose weight format is not the one
its plane was loaded with. Log 13. -/
opaque freeWord : Nat → W32

/-- A byte that the manual does not state, fresh for each n: what a poisoned decoded block holds. Log 13. -/
opaque freeByte : Nat → Byte

/-- A byte of LPDDR5X that lies in no region after a mem.free: undefined, for each free and address (R443). Log 102. -/
opaque undefByte : Nat → Nat → Byte

/-- The 32-byte keys that the security engine generates for a sealed region (R285), by the region's salt: the two of the XTS key pair, then the
MAC key. Log 102. -/
opaque sealKey : Nat → Nat → List Byte

/-- Which window of every 32 retrains the channels instead of scrubbing (R279), as a remainder modulo 32. Log 10. -/
opaque retrainWindow : Nat

/-- Whether the package that holds an address has repair resources left for its row (R273). Log 10. -/
opaque repairLeft : Nat → Bool

/-- The ac from a fill's grant until its data is in its line (R275): the manual gives no number. Log 80. -/
opaque fillTime : Nat
/-- The fabric cycles of encoding that a strait codec unit's input holds before it is full (R330): the manual gives no number.
Log 80. -/
opaque codecInput : Nat

end Sys2Proof.Config
end

