-- ==== Sys2Proof/Machine/State.lean ====
section
/-! DEFINITION. The state of the module as plain data: everything the manual gives it, chapter by chapter, the queue of
the commands that wait, and the values after reset (R10). Fields that a comment calls the model's own are its bookkeeping. -/
namespace Sys2Proof.Machine

/-- A sparse table: keys strictly rising, no entry equal to the table's default. -/
abbrev Tbl (α : Type) := List (Nat × α)

/-- Bytes by address (Host.Cell): addresses strictly rising, no entry equal to what an unlisted address reads as. -/
abbrev Memory := List Host.Cell

/-- A set of addresses or indices: strictly rising. -/
abbrev NatSet := List Nat

/-- One value per strait, by logical name (R14, R414). -/
structure S4 (α : Type) where
  e  : α
  w  : α
  x0 : α
  x1 : α
deriving DecidableEq, Repr

/-- One value per virtual channel (R395). -/
structure V4 (α : Type) where
  f : α
  w : α
  c : α
  m : α
deriving DecidableEq, Repr

/-! ### Chapter 02: the time base -/

/-- The states of the time base (R56). -/
inductive TState where
  | locking | free | measuring | aligned | holdover | lost
deriving DecidableEq, Repr

/-- TIDE_HOP_E, _W, _X0, _X1 (R85). -/
structure HopReg where
  valid : Bool
  delay : W32
deriving DecidableEq, Repr

/-- The TIME exchange of one strait (R48, R53, R408): the number of the next exchange, whether a request is out,
when the next one is due, the sums of the exchanges made since measurement began, and for R42 the first exchange's offset (times 2)
and departure, and whether the offset moved by more than 0.1 ppm of the time from it to the 64th. -/
structure HopX where
  seq     : W16
  waiting : Bool
  due     : Nat
  n       : Nat
  sumOff  : Int
  sumDel  : Int
  lastOff : Int
  off0    : Int
  t10     : W64
  freqBad : Bool
deriving DecidableEq, Repr

/-- The time base and its registers (R85, R117), the validity of the reference sources (R34 to R37). -/
structure Tide where
  refOutEn  : Bool
  refSec    : BitVec 3
  refPri    : BitVec 3
  master    : Bool
  refUnaligned : Bool
  launchLate   : Bool
  alignLost    : Bool
  alignDrift   : Bool
  refLoss      : Bool
  refActive : BitVec 3
  pllLock   : Bool
  st        : TState
  /-- The tide count (R44). -/
  count     : W64
  /-- Arithmetic cycles since module reset; the model's own, from which TILE_IDLE_CNT is read. -/
  acs       : W64
  /-- The arithmetic cycle within the tick (R8: one tk is 8 ac); the model's own clock phase. -/
  phase     : BitVec 3
  hops      : BitVec 6
  path      : Bool
  residual  : W32
  hop       : S4 HopReg
  xch       : S4 HopX
  position  : BitVec 6
  stagger   : Byte
  shift     : W64
  refLen    : W16
  refPeriod : W16
  grid      : Bool
  align     : Bool
  lead      : W32
  lateCnt   : W64
  urefCnt   : W64
  /-- Bit k: the source coded k in R34 is valid. -/
  srcOk     : BitVec 6
  /-- The tick at which holdover began (R55). -/
  holdSince : Nat
  /-- Whether the member entered MEASURING from ALIGNED or HOLDOVER and so keeps its count (R57). -/
  keepCount : Bool
deriving DecidableEq, Repr

/-! ### Chapters 03 and 12: runs, berths and weight sets -/

/-- A berth reservation's life (R101, R102). -/
inductive ResvState where
  | pending | live | released
deriving DecidableEq, Repr

/-- One berth region of the run's schedule (R448), and its reservation that is live or next to live: its number,
its state, the ferry indices received, whether its step has ended, and the reads still registered against it
(R102): tile reads by (tile, stream) and egress reads by push number. -/
structure Berth where
  west   : Bool
  own    : Bool
  base   : Nat
  size   : Nat
  stride : Nat
  first  : Nat
  flen   : Nat
  count  : Nat
  cur    : Nat
  st     : ResvState
  got    : NatSet
  /-- The reads registered against `cur` (R102): a tile's transfer as tile × 2³² + its command's stream index, a push as
  2⁴⁴ + its number. -/
  reads  : NatSet
deriving DecidableEq, Repr

/-- An export of the running image (R350). -/
structure Export where
  tray : Bool
  x1   : Bool
  x0   : Bool
  w    : Bool
  e    : Bool
  write : Bool
  read  : Bool
  accum : Bool
  attn  : Bool
  base  : Nat
  size  : Nat
deriving DecidableEq, Repr

/-- A codec window of the running image (R323), with the table version bound at launch (R331). -/
structure CodecWin where
  /-- F8: FP8 raw format E5M2. -/
  f8     : Bool
  base   : Nat
  size   : Nat
  strait : Option Strait
  cslot  : BitVec 7
  cmode  : BitVec 2
  version : W32
deriving DecidableEq, Repr

/-- run.status STATE (R441). -/
inductive RunState where
  | waiting | running | atSlack | recovering | ended | cancelled
deriving DecidableEq, Repr

/-- A run (R449): what run.launch carried and bound, and how far it has come. -/
structure Run where
  num     : W16
  ctx     : Nat
  image   : Nat
  size    : Nat
  base    : W64
  first   : W64
  seed    : W64
  det     : Bool
  compat  : BitVec 2
  grid    : Bool
  role    : BitVec 2
  line    : Bool
  brk     : BitVec 6
  tilesOff : Nat
  /-- Schedule offsets of the step boundaries, and the commit list (R448, R463). -/
  steps   : List Nat
  commits : List Nat
  /-- Schedule offset just past the last launch or injection offset of any command: the run's end under R79. -/
  endOff  : Nat
  berths  : List Berth
  exports : List Export
  wins    : List CodecWin
  /-- Service budgets by strait E, W, X0, X1 (R111) and whether an attention service is planned (R303). -/
  budget  : List (Bool × Nat)
  tiles   : List Nat
  set     : Option W16
  digest  : List Byte
  state   : RunState
  /-- Number of step boundaries reached, the end of the drain step being one more. -/
  reached : Nat
  /-- Index into the commit boundaries (0, the commit list, the end) of the last declared one, as a step index. -/
  committed : Nat
  /-- The last commit boundary this member has reported to the tide master (R467). -/
  reported : Nat
  baseSeen : Bool
  /-- Tiles still to stop before a cancel completes (R450): whether a cancel is in progress. -/
  cancelling : Bool
deriving DecidableEq, Repr

/-- A resident weight set (R451 to R453): its owner, its place, its chunk digests and whether it is verified. -/
structure WSet where
  num     : W16
  ctx     : Nat
  region  : Nat
  base    : Nat
  len     : Nat
  /-- wgt.stage has completed (R452); false while the copy runs. -/
  resident : Bool
  verified : Bool
  damaged  : Bool
  chunks   : List (List Byte)
  digest   : List Byte
  weights  : List Byte
  /-- For each chunk the tide count of its last clean check (R576). -/
  clean    : List Nat
deriving DecidableEq, Repr

/-- A region (R283): number, owner, place, whether it is sealed and the salt of its key pair (R285). -/
structure Region where
  num    : Nat
  ctx    : Nat
  base   : Nat
  size   : Nat
  sealedR : Bool
  key    : Nat
  /-- Where the Keeper placed the tag area of a sealed region (R286). -/
  tags   : Nat
deriving DecidableEq, Repr

/-! ### Chapter 11: straits -/

/-- The training states (R382). -/
inductive Train where
  | down | detect | equalise | align | identify | up | retrain
deriving DecidableEq, Repr

/-- A transaction (R399): its header and data bytes, and the data pieces that are poisoned. -/
structure Txn where
  bytes  : List Byte
  poison : NatSet
deriving DecidableEq, Repr

/-- What a transaction at an egress belongs to, so that its acknowledgement or its last flit is acted on
(R369 to R371, R469): nothing; a tile's SIGNAL; the LAST RWRITE of a tile's DMA; a ferry push; an RREAD response. -/
inductive TxTag where
  | plain
  | signal (tile : Nat) (idx : Nat)
  | dmaLast (tile : Nat) (idx : Nat)
  | dmaData (tile : Nat)
  | push (id : Nat)
  | rreadResp
deriving DecidableEq, Repr

/-- A transaction waiting at an egress: its bytes, its deadline if it has one (R255), and what it belongs to. -/
structure TxTxn where
  txn      : Txn
  deadline : Option Nat
  tag      : TxTag
  /-- Bytes of it already sent. -/
  sent     : Nat
  /-- The arithmetic cycle it joined the egress, which orders unscheduled traffic (R256). -/
  born     : Nat
deriving DecidableEq, Repr

/-- A data flit kept for replay (R390). -/
structure TxFlit where
  seq    : BitVec 12
  vc     : BitVec 2
  start  : Bool
  fin    : Bool
  fill   : Byte
  poison : Byte
  data   : List Byte
  tag    : TxTag
deriving DecidableEq, Repr

/-- A transaction in a receive buffer: what arrived, how many flits it holds, and whether its START, END and
flit count agree with its LENGTH (R400). -/
structure RxTxn where
  txn   : Txn
  flits : Nat
  good  : Bool
  /-- The tick at which its last flit arrived. -/
  atTk  : Nat
  /-- Held by R103 or R111. -/
  held  : Bool
  /-- A FERRY judged by R99 that is to be written, and one whose stall R103 has raised. -/
  ready : Bool
  stalled : Bool
deriving DecidableEq, Repr

/-- An RREAD request in the read queue (R405). -/
structure RRead where
  tag  : W16
  addr : Nat
  size : Nat
deriving DecidableEq, Repr

/-- The identity a PROBE carries (R410). -/
structure Ident where
  serial  : W64
  fw      : W32
  pmax    : Byte
  pmin    : Byte
  phys    : BitVec 2
  logical : BitVec 2
  ring    : BitVec 4
  pos     : BitVec 6
  planned : Bool
  planId  : W32
  slot    : BitVec 4
deriving DecidableEq, Repr

/-- One strait: its training, its STR_ registers (R425), its link layer (R386 to R391), its buffers and credits
(R395 to R398) and its read queue (R405). -/
structure Str where
  present   : Bool
  train     : Train
  since     : Nat
  retryAt   : Option Nat
  /-- No retry until the next ring.form or ring.join (R382). -/
  noRetry   : Bool
  width     : BitVec 2
  laneOk    : BitVec 16
  reversed  : Bool
  pver      : Byte
  frozen    : Bool
  isolated  : Bool
  degraded  : Bool
  retrained : Bool
  linkDown  : Bool
  far       : Ident
  probeSeen : Bool
  versionFail : Bool
  /-- The identity that formation admitted (R420). -/
  admitted  : Option Ident
  extraRaised : Bool
  farBuf    : V4 Nat
  credit    : V4 Nat
  credSeen  : V4 (BitVec 9)
  freed     : V4 Nat
  cvcNext   : BitVec 2
  fecCorr   : W64
  fecUncorr : W64
  crcCnt    : W64
  retryCnt  : W64
  retrainCnt : W64
  ferryStale : W64
  discardCnt : W64
  faultType : Byte
  faultCause : Byte
  /-- The header of the transaction that froze it (R515). -/
  offend    : List Byte
  txFlits   : W64
  rxFlits   : W64
  nextSeq   : BitVec 12
  expSeq    : BitVec 12
  nakOut    : Bool
  nakRuns   : Nat
  replay    : List TxFlit
  /-- Flits still to be sent again after a NAK or a RETRAIN (R390). -/
  resend    : List TxFlit
  egrF      : List TxTxn
  egrW      : List TxTxn
  egrC      : List TxTxn
  egrM      : List TxTxn
  rxF       : List RxTxn
  rxW       : List RxTxn
  rxC       : List RxTxn
  rxM       : List RxTxn
  part      : V4 (Option RxTxn)
  /-- Slots until VC-M may be granted again, slots since the last null flit, and scheduled slots since the last
  unscheduled one (R256, R257, R389). -/
  slotNo    : Nat
  nullNo    : Nat
  schedRun  : Nat
  lastGood  : Nat
  noCreditC : Option Nat
  noCreditM : Option Nat
  readQ     : List RRead
  /-- RREADs of this module's Keeper that are out: tag and host of the answer (R405). -/
  outReads  : List RRead
deriving DecidableEq, Repr

/-- A position record of the ring plan (R446). -/
structure PlanPos where
  serial : W64
  slot   : BitVec 4
  farSerial : S4 W64
  far    : S4 W16
deriving DecidableEq, Repr

/-- The ring plan (R446). -/
structure Plan where
  planId  : W32
  ring    : BitVec 4
  n       : Nat
  master  : BitVec 6
  refTray : Bool
  role    : BitVec 2
  hopBudget : W32
  poss    : List PlanPos
deriving DecidableEq, Repr

/-- The formation states (R418). -/
inductive Form where
  | none | discover | check | agree | measure | formed | failed
deriving DecidableEq, Repr

/-- Which command formation serves (R418, R57), the re-formation as a line (R483), or the measurement alone, made again by a
member in LOST (R475). -/
inductive FormKind where
  | form | join | orient | line | again
deriving DecidableEq, Repr

/-- Formation and membership (R411 to R419, R105). -/
structure RingSt where
  /-- The plan that ring.plan stored last (R445, R523). -/
  plan     : Option Plan
  /-- The plan of the formation in progress, or of the ring that is formed. -/
  inForce  : Option Plan
  /-- This module's position in the plan in force. -/
  pos      : BitVec 6
  form     : Form
  kind     : FormKind
  startTk  : Nat
  result   : S4 (BitVec 4)
  /-- The members' reports that the tide master holds. -/
  agrees   : List AgreeReport
  vr       : Byte
  line     : Bool
  brk      : BitVec 6
  flipped  : Bool
  /-- Member of a formed ring (R441 dev.query FORMED). -/
  member   : Bool
  /-- ring.form or ring.join has reached FORMED since module reset (R489). -/
  formedOnce : Bool
deriving DecidableEq, Repr

/-! ### Chapter 12: the Keeper and its mailboxes -/

/-- A mailbox request as the Keeper reads it (R435). -/
structure Req where
  opcode  : W16
  gen     : BitVec 4
  seq     : BitVec 12
  len     : Nat
  ref     : W64
  refLen  : W32
  payload : List Byte
deriving DecidableEq, Repr

/-- A response waiting for room in the response ring (R437). -/
structure Rsp where
  opcode  : W16
  tag     : W16
  status  : W16
  done    : W64
  errOff  : W16
  refWritten : W32
  payload : List Byte
deriving DecidableEq, Repr

/-- One mailbox page (R432): its rings' bytes, its registers, and what the Keeper keeps for its context. Issuer
16 is the management mailbox. -/
structure Ctx where
  page    : Memory
  reqTail : W32
  rspHead : W32
  evtHead : W32
  reqHead : W32
  rspTail : W32
  evtTail : W32
  evtLost : W32
  gen     : BitVec 4
  badDoorbell : Bool
  frozen  : Bool
  /-- The cause that froze it (R576). -/
  fcause  : Byte
  opened  : Bool
  rspIrq  : Bool
  evtIrq  : Bool
  /-- The COMPAT profile in force (R230, R442). -/
  compat  : BitVec 2
  /-- Ranges mem.map has given (R443). -/
  maps    : List (Nat × Nat)
  /-- The request read and accepted, not yet executed (R437). -/
  cur     : Option Req
  /-- Responses waiting for room (R437). -/
  rsps    : List Rsp
  /-- Events lost since the last record, to be announced by EVENT_LOSS (R456). -/
  gap     : Nat
  curSet  : Option W16
  pendSet : Option (W16 × W64)
  /-- Effect mark of the pending switch, or of the last (R117 TIDE_WMARK). -/
  wmark   : W64
deriving DecidableEq, Repr

/-- What a background request is doing, and the objects it holds (R437, R438). -/
inductive BgKind where
  | form (busErr : Bool) | slack (tReq : W64)
  | stage (set : W16) (list : List (Nat × Nat)) | verify (set : W16) (n pos : Nat) (digs : List Byte)
  | launch (run : W16)
  | cancel (run : W16) | ctxClose (target : Nat)
  | table (slot : Nat) (tbl : List Byte) (deadline : Nat)
  | update (target : BitVec 2) (img : List Byte)
deriving DecidableEq, Repr

/-- A background request in flight. -/
structure Bg where
  who  : Nat
  req  : Req
  kind : BgKind
  since : Nat
deriving DecidableEq, Repr

/-- KPR_STATUS.STATE (R460). -/
inductive KState where
  | booting | running | restarting | halted
deriving DecidableEq, Repr

/-- An event record (R455). -/
structure Ev where
  code  : W16
  kind  : BitVec 4
  id    : BitVec 12
  stamp : W64
  d0    : W64
  d1    : W64
deriving DecidableEq, Repr

/-- The Keeper (R426 to R428, R460). -/
structure Keeper where
  state   : KState
  fwVersion : W32
  wdtExpired : Bool
  restartCnt : W64
  evtRaised  : W64
  /-- Events the Keeper has written (R457). -/
  evtWritten : W64
  /-- Ticks since module reset at the last watchdog expiry, if any (R427), and the tide count then, which KEEPER_RESTART carries. -/
  lastExpiry : Option Nat
  expiryCount : W64
  bgs     : List Bg
  /-- The issuer served last (R437: in turn). -/
  turn    : Nat
  /-- Requests that were in flight at a watchdog expiry, answered ST_TIMEOUT after the restart (R428). -/
  lostReqs : List (Nat × Req)
  /-- Contexts that a reset of their function closes, once no run of theirs is active (R561). -/
  closing  : NatSet
  nextRun  : W16
  /-- Context whose weight sets TIDE_WSET shows (R451). -/
  wsetCtx  : Nat
deriving DecidableEq, Repr

/-- The KPR_TRAY block (R377) and the frozen tray ingresses (R352). -/
structure TrayRegs where
  valid  : BitVec 16
  enable : Bool
  self   : BitVec 4
  frozen : BitVec 16
  rid    : Tbl W16
  bar2   : Tbl W32
  bar4   : Tbl (BitVec 24)
  /-- The local address of the request that froze each ingress (R515). -/
  offend : Tbl Nat
deriving DecidableEq, Repr

/-! ### Chapter 13: slack, commits and recovery -/

/-- KPR_REC_STATUS.PHASE (R486). -/
inductive Phase where
  | none | cut | quiesce | drain | decide | restore | held
deriving DecidableEq, Repr

/-- What caused a slack (R409 CAUSE). -/
inductive SlackCause where
  | cmd | pin | forced
deriving DecidableEq, Repr

/-- The slack in hand at this module (R78 to R84, R479 to R482). -/
structure Slack where
  /-- A request registered here: when, where it came from and why. -/
  req     : Option (W64 × SlackCause)
  /-- At the tide master: the requests that have reached it in this tick (R82), by t_req, origin and cause, in order. -/
  reqs    : List (W64 × BitVec 6 × SlackCause)
  origin  : BitVec 6
  /-- The cut mark S known here, and whether the slack is forced. -/
  cut     : Option W64
  forced  : Bool
  /-- A scheduled slack was asked for (ring.slack or SLACK_REQ#) and not yet reached (R478). -/
  sched   : Bool
  inEffect : Bool
  /-- The ring is held at slack (R479) . -/
  atSlack : Bool
  heldS   : W64
  /-- Cut marks already seen (R409). -/
  seen    : List W64
  /-- SLACK_REQ# (R481): whether it is low (118 consecutive samples), and whether a further request is armed. -/
  pinLow  : Bool
  armed   : Bool
deriving DecidableEq, Repr

/-- Recovery (R472 to R478) and its registers (R486). -/
structure Recovery where
  result   : Byte
  cls      : Byte
  replays  : Byte
  ledgerFull : Bool
  phase    : Phase
  rollback : W32
  cnt      : W64
  worst    : W32
  last     : W32
  commit   : W64
  ledger   : List (Nat × Nat)
  ringSlots : W16
  /-- Tick of the first detection, and t_req. -/
  detect   : Nat
  tReq     : Nat
  /-- A fault place that a replay would read again (R474 item 5), a suspect tile. -/
  excluded : Bool
  suspect  : Bool
  downE    : Bool
  downW    : Bool
  inFlightLost : Bool
  cancelled : Bool
  /-- Tick at which the cut took effect, or the drain began. -/
  phaseAt  : Nat
  /-- M_c of a recovery that ends HELD_SLACK, and the replay mark Rp once it is known (R476, R482). -/
  mc       : W64
  rp       : Option W64
  /-- Stop stamps that the units beside the tiles latched (R473, R480, R517), by section kind of R515 × 4,096 + index. -/
  stops    : List (Nat × Nat)
  /-- The stop stamp that every unit latched at the last forced cut, while the units are stopped (R480, R517). -/
  cutStop  : Option Nat
  /-- Reports of commit boundaries held by the tide master (R467): position and step index. -/
  commitReps : List (Nat × Nat)
  /-- The seals refused since the last declared commit, by tile and stream index (R461 class 0x09). -/
  refused  : List (Nat × Nat)
  /-- Between RECOVERY_START and RECOVERY_DONE at this module (R489). -/
  open_ : Bool
  /-- The first class that this member has detected for the recovery in hand, 0 for none, and the report it sent last (R473, R478). -/
  mine : Byte
  sent : Option MemberReport
deriving DecidableEq, Repr

/-! ### Chapters 04 to 07: tiles -/

/-- A number as the arithmetic sees it (R160): NaN, an infinity, or (−1)^neg × m × 2^e with a signed zero. -/
inductive Fv where
  | nan
  | inf (neg : Bool)
  | fin (neg : Bool) (m : Nat) (e : Int)
deriving DecidableEq, Repr

/-- A command in a tile's queue: its eight words as fetched, its stream index (R180), and whether a granule it was
fetched from was poisoned (R118). -/
structure QCmd where
  words    : List W64
  idx      : Nat
  poisoned : Bool
  /-- GEN was not 0 in the image (R123); the words carry the generation that the fetcher filled in. -/
  genBad   : Bool
deriving DecidableEq, Repr

/-- One weight plane of one array (R133, R144): the weights' codes by K row and column, the column scale bytes,
VALID and POISON, the format and the scale mode it was loaded with. -/
structure Plane where
  wts    : List (List Nat)
  scales : List Byte
  fmt    : BitVec 4
  wsmode : BitVec 2
  valid  : Bool
  poison : Bool
deriving DecidableEq, Repr

/-- One vector or weight row read for a matrix command (R129, R134): the arithmetic cycle at which it enters the array, its
bytes, its scale byte, and whether any granule it came from is poisoned. -/
structure Feed where
  at_    : Nat
  bytes  : List Byte
  scale  : Byte
  poison : Bool
deriving DecidableEq, Repr

/-- A matrix command in an array queue (R137): the command, the arrays it names, the gang mode it runs in, whether it has
reached the head (R138), the plane it uses, and how far it has come: the cycle its next read is due, the words of that
read not yet served and whether they have been tried (R202), reads made, vectors read and not yet written, vectors written, and
the cycle in which the last vector read enters or, for a LOADW, of the last read. -/
structure MCmd where
  cmd     : QCmd
  mask    : BitVec 4
  mode    : BitVec 3
  issueAc : Nat
  begun   : Bool
  plane   : Bool
  dueAc   : Nat
  need    : List Nat
  tried   : Bool
  fed     : Nat
  feeds   : List Feed
  done    : Nat
  lastAc  : Nat
deriving DecidableEq, Repr

/-- One array: its two planes, the active one, its queue, and its accumulator buffer (R131): rows of 16 words by
row index, and the rows that are poisoned or hold a latent uncorrectable error. -/
structure Arr where
  p0     : Plane
  p1     : Plane
  active : Bool
  queue  : List MCmd
  acc    : Tbl (List W32)
  accPoison : NatSet
  accErr : NatSet
deriving DecidableEq, Repr

/-- The current-control states (R143). -/
inductive Warm where
  | idle | rampUp | warm | rampDown
deriving DecidableEq, Repr

/-- One result of a vector command, still exact (R177): where it goes, in which format, its values and, for each,
whether it depends on a poisoned source (R196). -/
structure VOut where
  acc    : Option (BitVec 2)
  handle : Nat
  off    : Nat
  fmt    : Nat
  vals   : List Fv
  poison : List Bool
  /-- Whether saturation is forced whatever SAT says (R193). -/
  satAll : Bool
deriving DecidableEq, Repr

/-- The vector command in progress (R184, R187). -/
structure VecOp where
  cmd    : QCmd
  dueAc  : Nat
  outs   : List VOut
  /-- Its uses of compute slots not yet taken (R203): the cycle from which each may be taken, the cycle it is due, the word. -/
  slots  : List (Nat × Nat × Nat)
deriving DecidableEq, Repr

/-- A live scoreboard entry (R217): the granule range of physical offsets it covers, and the command it belongs to. -/
structure SbEnt where
  grans : NatSet
  owner : Nat
deriving DecidableEq, Repr

/-- One command merged into a transfer (R245): its stream index and id, its length in bytes. -/
structure XCmd where
  idx   : Nat
  id    : W16
  bytes : Nat
deriving DecidableEq, Repr

/-- A transfer held by a stream (R243): the command whose words it carries (its LENGTH grown by merging), the commands
merged, its length in bytes, its launch mark and absolute deadline, the arithmetic cycle before which it requests nothing (R239), the units
requested and the granules of the next one already requested, the units moved, the bursts of the next one that a channel has granted,
and a unit read and not yet put. -/
structure Xfer where
  cmd      : QCmd
  parts    : List XCmd
  length   : Nat
  launch   : Nat
  deadline : Option Nat
  readyAc  : Nat
  asked    : Nat
  askG     : Nat
  moved    : Nat
  got      : Nat
  buf      : Option (List (List Byte × Bool))
  /-- The offsets of the units whose port accesses are under way (R204). -/
  out      : List Nat
  /-- The destination granule last counted as marked, plus one (R259). -/
  pzAt     : Nat
  /-- The far acknowledgement (R370), or the completion of the read of R371, has arrived. -/
  acked    : Bool
  /-- Everything has been sent; what is waited for is the acknowledgement. -/
  sentAll  : Bool
  activeAc : Nat
  /-- A command merged into it carries CLOSE. -/
  close    : Bool
deriving DecidableEq, Repr

/-- What a port access does once its words are served (R204, R205): nothing more, where its data moved in the step that made it; it reads
a unit of the transfer that a tile's stream holds for a command; or it lands pieces of one, by address with their poison, or adds them, in a
read of the target and a write-back. -/
inductive PortAct where
  | slots
  | read (tile k idx ix : Nat)
  | write (tile k idx o : Nat) (ps : List (Nat × List Byte × Bool))
  | accum (tile k : Nat) (cmd : QCmd) (o wholeAt wholeLen at_ : Nat) (bs : List Byte) (bad : List Nat) (back : Bool)
deriving DecidableEq, Repr

/-- An access through a tile's router port (R204): whether it is of the tile's own DMA engine (0), of accumulate-on-write (1) or another
(2), the ac from which it may take slots, its words still to be served and whether each has lost a slot, and the ac of its last slot. -/
structure PortJob where
  cls    : Nat
  from_  : Nat
  words  : List (Nat × Bool)
  served : Nat
  act    : PortAct
deriving DecidableEq, Repr

/-- One stream (R238). -/
structure Stream where
  opened  : Bool
  dst     : BitVec 6
  accum   : Bool
  /-- The receive space registered with the directory (R239). -/
  space   : Option (Nat × Nat)
  checking : Bool
  active  : Option Xfer
  waiting : Option Xfer
  missAt  : Nat
  /-- A CLOSE transfer has completed with one pending behind it (R238). -/
  closing : Bool
deriving DecidableEq, Repr

/-- What is still owed when a held contribution that came over a strait is drained: its count and acknowledgement (R223, R403). -/
structure AowDebt where
  strait  : Strait
  tile    : Nat
  sync    : Nat
  bytes   : Nat
  pkts    : Nat
  ack     : Bool
  srcTile : Nat
  cmdId   : W16
deriving DecidableEq, Repr

/-- A hold slot that is full or filling: its contributor, the transfer that fills it, the bytes it still lacks, and what is owed when it
is drained. -/
structure AowSlot where
  c    : Nat
  who  : Nat
  left : Nat
  debt : Option AowDebt
deriving DecidableEq, Repr

/-- An accumulate-on-write handle's round (R223, R235), one for each AOW handle of the table in ascending order: its handle, NEXT, the hold slots full or filling, and the bytes of the
contribution being accumulated that have landed. -/
structure Aow where
  handle : Nat
  next   : Nat
  held   : List AowSlot
  landed : Nat
deriving DecidableEq, Repr

/-- An update to a sync object (R355): a completion count, or a SIGNAL with ADD or SET. -/
inductive SyncUpd where
  | count (bytes pkts : Nat)
  | add (v : W32)
  | set (v : W32)
deriving DecidableEq, Repr

/-- An update that reached an object, with the place of its source in the order of R359, its scope and its path's smallest scope. -/
structure SyncArr where
  rank  : Nat
  upd   : SyncUpd
  scope : BitVec 3
  path  : BitVec 3
deriving DecidableEq, Repr

/-- A sync object (R354): its mode, its count, and the scope and path of its last update (R375); the ac of its last updates, those of that
ac in the order of R359, and the count, scope and path before them. -/
structure Sync where
  mode  : BitVec 2
  count : W32
  scope : BitVec 3
  path  : BitVec 3
  at_   : Nat
  was   : W32
  wasScope : BitVec 3
  wasPath  : BitVec 3
  ups   : List SyncArr
deriving DecidableEq, Repr

/-- An ATTN_Q in flight (R296): its command, the number of its request at the dispatcher, its launch mark and deadline, the
records that will land, once known, and those that have. -/
structure AttnCmd where
  cmd      : QCmd
  num      : Nat
  launch   : Nat
  deadline : Option Nat
  want     : Option Nat
  recs     : Nat
deriving DecidableEq, Repr

/-- A SEAL in flight (R507, R508): its command, the step its launch offset lies in, the context's input stream and its own
range as the security engine reads them, and whether any granule of either was poisoned. -/
structure DumpCmd where
  cmd    : QCmd
  step   : Nat
  input  : List Byte
  result : List Byte
  poison : Bool
deriving DecidableEq, Repr

/-- A seal context (R508): its input stream's ranges in issue order as (local address, bytes), and whether a poisoned
granule was in it. -/
structure SealCtx where
  bytes  : List Byte
  poison : Bool
deriving DecidableEq, Repr

/-- A shadow taken at a commit boundary (R466). -/
structure Shadow where
  step  : Nat
  syncs : List W32
  idx   : Nat
  nextSeq : BitVec 12
deriving DecidableEq, Repr

/-- TILE_STATUS.STATE (R158). -/
inductive TileState where
  | idle | running | frozen | excluded
deriving DecidableEq, Repr

/-- The 64-bit counters of the TILE_ block (R158, R198, R264, R376, R493). -/
structure TileCnt where
  check : W64
  checkSkip : W64
  stale : W64
  late : W64
  sat : W64
  nanp : W64
  dlmiss : W64
  merge : W64
  poison : W64
  scope : W64
  wait : W64
  vecBusy : W64
  arrBusy : W64
  bubble : W64
  warm : W64
  dmaBusy : W64
  /-- The ac in which the head issued or was held: TILE_IDLE_CNT counts every other ac (R578). -/
  notIdle : W64
  stallClass : W64
  stallRes : W64
deriving DecidableEq, Repr

/-- The SPD_ block's counters and status bits (R235). -/
structure SpdRegs where
  retained : BitVec 8
  powered  : BitVec 8
  uncorrectable : Bool
  conflict : Bool
  conflictCnt : W64
  portWait : W64
  ce  : W64
  ue  : W64
  aowHold : W64
  sbWait : W64
deriving DecidableEq, Repr

/-- What holds a command at issue (R578). -/
inductive Hold where
  | none | idle | wait | scoreboard | cls | res
deriving DecidableEq, Repr

/-- One tile. -/
structure Tile where
  st       : TileState
  suspect  : Bool
  descErr  : Bool
  arrayCheck : Bool
  lateBit  : Bool
  gen      : BitVec 4
  nextSeq  : BitVec 12
  faultId  : W16
  faultOp  : Byte
  faultCause : Byte
  /-- Local address of the tile's command stream, its length in commands, commands fetched, the fetched commands not
  yet issued, and the stream index of the next command to issue (R118, R180). -/
  streamAt : Nat
  streamLen : Nat
  fetched  : Nat
  /-- Its channel has granted the read of the next command (R118). -/
  fetchGot : Bool
  queue    : List QCmd
  idx      : Nat
  gang     : BitVec 3
  warm     : Warm
  level    : BitVec 4
  warmAc   : Nat
  lastUse  : Nat
  a0 : Arr
  a1 : Arr
  a2 : Arr
  a3 : Arr
  vec      : Option VecOp
  handles  : Tbl (W64 × W64)
  sb       : List SbEnt
  /-- Accesses at its router port, in the order in which they reached it (R204). -/
  port     : List PortJob
  aows     : List Aow
  syncs    : Tbl Sync
  streams  : Tbl Stream
  attns    : List AttnCmd
  dumps    : List DumpCmd
  seals    : Tbl SealCtx
  pendShadow : Option Shadow
  commShadow : Option Shadow
  cnt      : TileCnt
  spd      : SpdRegs
  cohort   : Bool
  dlmiss   : Bool
  stall    : Bool
  /-- Per run: LAUNCH_LATE raised, SPD_CONFLICT raised, the objects whose SCOPE_MISMATCH was raised, and per step the
  misses of pushes and ATTN_Qs already raised (R61, R216, R375, R258). -/
  lateRaised : Bool
  conflictRaised : Bool
  scopeRaised : NatSet
  pushMissAt : Nat
  attnMissAt : Nat
  /-- KEEP and RETAIN masks of its last run, and the context of that run (R231, R232). -/
  keep     : BitVec 8
  retain   : BitVec 8
  lastCtx  : Nat
  /-- Issue held by a watch copy (R512), or until a commit is declared (R467). -/
  watchHold : Bool
  /-- The stop stamp latched at a freeze or a forced cut (R517). -/
  stop     : Option Nat
  /-- An ARRAY_CHECK of the batch that a replay repeats (R154). -/
  checkInBatch : Bool
  /-- A check failed since the last declared commit (R154). -/
  checkSeen : Bool
  /-- Length of the runs of ac in which nothing launched: the arithmetic cycle of the last issue (R59). -/
  lastIssueAc : Nat
deriving DecidableEq, Repr

/-! ### Chapters 07 to 09: the hub die's memory side -/

/-- A FERRY_PUSH in a strait's egress queue (R251): its number in order of arrival, its tile and command, whether its source
bytes are in hand and whether they have been read to the end (R253), whether it has started (R62) and its last flit has left, and
the bytes with their poisoned 32 B pieces. -/
structure Push where
  num     : Nat
  tile    : Nat
  cmd     : QCmd
  /-- Bursts of its source that channels have granted (R255). -/
  got     : Nat
  have_   : Bool
  read    : Bool
  started : Bool
  sent    : Bool
  data    : List Byte
  poison  : NatSet
deriving DecidableEq, Repr

/-- One LPDDR5X channel: its LPC_ registers (R306), its write-back queue (R271), its check-line store (R270), its
read-merge buffer (R274), its refresh state (R277) and what its arbiter keeps (R256). -/
structure Chan where
  refRate  : BitVec 5
  macFail  : Bool
  uncorr   : Bool
  derate   : Bool
  st       : BitVec 3
  ce : W64
  ue : W64
  mac : W64
  rmbHit : W64
  rmbMerge : W64
  scrubPos : Nat
  lastUe   : Nat
  wb       : NatSet
  wbOrder  : List Nat
  /-- The check-line store's sets for scheduled and unscheduled requests, most recently used first: the 2 KiB group whose check
  burst a line holds, and whether writes have changed it (R270). -/
  checkS   : List (Nat × Bool)
  checkU   : List (Nat × Bool)
  /-- Extra bursts that check bursts have cost, still to be served: reads of check bursts not held, and write-backs of changed ones that were
  evicted (R270). -/
  owed     : Nat
  /-- Bursts of unscheduled accesses whose own step has moved their data, still to take their slots (R256; log 106). -/
  due      : Nat
  /-- Read-merge lines: line number to granule number + 1 (0: empty). -/
  rmb      : Tbl Nat
  /-- Fills in flight: granule number to 1 + the arithmetic cycle of the grant, since module reset (R275). -/
  fills    : Tbl Nat
  postponed : Nat
  slots    : BitVec 4
  /-- The arithmetic cycle, since module reset, from which the channel serves its next burst (R305). -/
  slotAc   : Nat
  /-- Whether an all-bank refresh window is open, and when it began (R69). -/
  inWindow : Bool
  windowAt : Nat
  maintDone : Bool
  /-- One more than the number of the period whose maintenance has been done without aligned refresh (R279). -/
  maintAt  : Nat
  /-- Granules of the chunk in progress that the shard re-check has read (R281). -/
  reOff    : Nat
  /-- Since when the package has asked for more than twice the refresh rate (R278, R555). -/
  hotAt    : Option Nat
  /-- When its refresh-rate register was last polled (R265). -/
  polledAt : Option Nat
  /-- Refresh management that the package asks for, and whether it needs it before the next window (R277). -/
  rfm      : Option Bool
deriving DecidableEq, Repr

/-- The running state of one query head (R299). -/
structure Head where
  m : W32
  l : W32
  o : List W32
deriving DecidableEq, Repr

/-- A token block that a channel engine has read and not yet computed (R297, R299): K and V, whether a granule read was poisoned, its tokens,
and whether it is the last of its entry. -/
structure KvBlock where
  k      : List Byte
  v      : List Byte
  bad    : Bool
  tokens : Nat
  fin    : Bool
deriving DecidableEq, Repr

/-- An attention sub-request at a channel engine (R297, R299): the request it belongs to and its deadline; the list entries still to be
read, the next block of the first of them, and the bursts of that block that the channel has granted; the blocks read ahead; the tokens
covered, the running state of each head, whether a K or V granule read was poisoned, and whether it has started. -/
structure SubReq where
  req     : Nat
  ddl     : Option Nat
  entries : List W64
  block   : Nat
  got     : Nat
  blocks  : List KvBlock
  tokens  : Nat
  heads   : List Head
  poison  : Bool
  started : Bool
deriving DecidableEq, Repr

/-- One channel engine and its CHN_ registers (R306): the sub-requests it holds, at most 8, and those that wait for it, each in the order of
their work (R297). -/
structure Engine where
  subs   : List SubReq
  wait   : List SubReq
  subCnt : W64
  blockCnt : W64
  busyCnt : W64
  poisonCnt : W64
  /-- The arithmetic cycle, since module reset, from which the lanes compute the next block or form the records (R305). -/
  since : Nat
deriving DecidableEq, Repr

/-- A record a channel engine returned (R300). -/
structure Rec where
  chan  : Nat
  head  : Nat
  st    : Head
  tokens : Nat
  poison : Bool
deriving DecidableEq, Repr

/-- An attention request at the dispatcher (R297, R303): its number; its ATTN_Q if a tile of this module issued it, or else the
strait it came by; the window slot it uses; its parameters (word 0x20) and where its records go; its deadline and order of
arrival; and, once admitted, its query, its channels in ascending order, the records returned and those landed. -/
structure AttnReq where
  num     : Nat
  tile    : Nat
  cmdId   : W16
  cmd     : Option QCmd
  from_   : Option Strait
  slot    : Nat
  params  : W64
  dstSync : Nat
  dst     : Nat
  deadline : Option Nat
  /-- The arithmetic cycle in which it was made (R256). -/
  born     : Nat
  admitted : Bool
  query   : List Byte
  /-- Granules of the query that are poisoned, counted from its start (R302). -/
  qPoison : NatSet
  chans   : List Nat
  recs    : List Rec
  landed  : Nat
deriving DecidableEq, Repr

/-- The attention dispatcher (R297): its requests in order of arrival, the next request number, and the far window slots
in use on X0 and X1 (R303, R431). -/
structure Disp where
  reqs  : List AttnReq
  nextNum : Nat
  useX0 : NatSet
  useX1 : NatSet
deriving DecidableEq, Repr

/-- A remote transfer whose last RWRITE has been handed to its strait and is still to be acknowledged (R125, R253): the strait's number, the
tile, the command's index and its id. -/
structure AckDue where
  strait : Nat
  tile   : Nat
  idx    : Nat
  id     : W16
deriving DecidableEq, Repr

/-- One codec unit (R336). -/
structure Cdc where
  fmtBit : Bool
  chkBit : Bool
  throttle : Bool
  enc : W64
  dec : W64
  check : W64
  format : W64
  poisonIn : W64
  throttleCnt : W64
  lastFail : Nat
  /-- The fabric cycle by which it has encoded all it was given (R329, R330). -/
  encFree : Nat
  raisedCheck : Bool
  raisedFormat : Bool
deriving DecidableEq, Repr

/-- One codec slot (R313, R331 to R334). -/
structure CSlot where
  owner   : Option Nat
  held    : Bool
  curValid : Bool
  cur     : Bool
  tab0    : List Byte
  tab1    : List Byte
  refs0   : W16
  refs1   : W16
deriving DecidableEq, Repr

/-! ### Chapter 14: the pan, watches and harvests -/

/-- A trace record (R495), as its four words. -/
structure TRec where
  w0 : W64
  w1 : W64
  a0 : W64
  a1 : W64
deriving DecidableEq, Repr

/-- One engine's buffer before the pan (R500). -/
structure PanBuf where
  key  : Nat
  recs : List TRec
  lost : Nat
  firstLost : W64
deriving DecidableEq, Repr

/-- PAN_STATUS.STATE (R519). -/
inductive PanState where
  | idle | armed | triggered | stopped
deriving DecidableEq, Repr

/-- The pan (R498 to R502, R519). -/
structure Pan where
  owner  : Option Nat
  trig   : Bool
  loss   : Bool
  mode   : BitVec 2
  st     : PanState
  /-- The test condition of R489 holds: a TAP has loaded an instruction other than BYPASS or IDCODE. -/
  test   : Bool
  writeCnt : W64
  lostCnt  : W64
  sealCnt  : W64
  sealRefused : W64
  trigIdx : W64
  xoff0  : W64
  xoff1  : W64
  spill  : W64
  spillSize : Nat
  post   : Nat
  pre    : Nat
  sel    : List W64
  recs   : List TRec
  /-- Records accepted since arming, and records lost in this capture (R502). -/
  total  : Nat
  lostCap : Nat
  postLeft : Nat
  bufs   : List PanBuf
  harvLost : W32
  stampHigh : W16
deriving DecidableEq, Repr

/-- A watch (R511). -/
structure Watch where
  tile   : Nat
  ctx    : Nat
  handle : Nat
  oper   : W16
  layer  : W16
  step   : Nat
  off    : Nat
  len    : Nat
  ref    : W64
  target : Nat
  fires  : Nat
  ready  : Bool
  copying : Bool
deriving DecidableEq, Repr

/-- A stored harvest (R515, R516): which master, when, why, its bytes and whether it has been read. -/
structure Harvest where
  kind  : BitVec 3
  id    : BitVec 12
  at_   : W64
  bytes : List Byte
  readB : Bool
deriving DecidableEq, Repr

/-- A harvest still to be taken after a freeze (R514). -/
structure HarvReq where
  kind  : BitVec 3
  id    : BitVec 12
  cause : Byte
deriving DecidableEq, Repr

/-! ### Chapter 15: boot, settings and identity -/

/-- The settings in force (R528, R530). -/
structure Settings where
  version : W16
  minFw   : W32
  operatorId : W32
  stagger : Byte
  compat  : BitVec 2
  refreshAlign : Bool
  visOpen : Bool
  lineMode : Bool
  autoOrient : Bool
  exclude : NatSet
  opKey   : List Byte
deriving DecidableEq, Repr

/-- KPR_BOOT and KPR_BOOT_NUM (R542), the settings and measurements in force, the identity (R531 to R533). -/
structure Boot where
  stage   : BitVec 3
  lastFail : Byte
  identityOk : Bool
  fwTrial : Bool
  fwSlot  : Bool
  setSlot : Bool
  fallback : Bool
  bootNum : W32
  set     : Settings
  setValid : Bool
  serial  : W64
  rev     : W16
  fwMeas  : List Byte
  setMeas : List Byte
  seedOk  : Bool
  ikLocked : Bool
  akCert  : List Byte
  /-- The place of the next fault-log record (R524), in records from the log's start. -/
  logPos  : Nat
  /-- The channels have trained, so that the Keeper admits mem.* requests (R268). -/
  memOk   : Bool
deriving DecidableEq, Repr

/-! ### Chapter 16: power, PCIe, SMBus and JTAG -/

/-- The PWR_ block inside the module (R571). -/
structure PwrRegs where
  ga     : BitVec 4
  memHot : Bool
  hot    : Bool
  inletHot : Bool
  overIn : Bool
  margin : Bool
  led    : BitVec 2
  volt   : W16
  curr   : W16
  power  : W16
  coreVolt : W16
  coreCurr : W16
  tDie   : Byte
  tReg   : Byte
  tMem   : Byte
  tInlet : Byte
  lastOff : Byte
  /-- Ticks of the last POWER_ALERT by cause and of the last THERMAL by sensor (R551, R555). -/
  overAt : Option Nat
  marginAt : Option Nat
  thermAt : Tbl Nat
deriving DecidableEq, Repr

/-- The hot-swap front end (R550, R553), which its own controller keeps while the blade is powered: whether it is closed, PWR_EN, a
latched shutdown, and the cause of the last opening. -/
structure FrontEnd where
  powered : Bool
  pwrEn   : Bool
  latched : Bool
  /-- The input has left 38.0 V to 63.0 V and not yet returned to 39.5 V to 61.0 V for 100 ms (R550). -/
  waiting : Bool
  cause   : Byte
deriving DecidableEq, Repr

/-- The PCIe controller (R558, R561): whether PERST# is asserted, the functions in D3hot, VF Enable, and the BARs'
assignment. -/
structure Pcie where
  perst    : Bool
  barsSet  : Bool
  vfEnable : Bool
  d3       : BitVec 16
deriving DecidableEq, Repr

/-- The SMBus target (R563). -/
structure Smb where
  window : Nat
  pecErr : Bool
deriving DecidableEq, Repr

/-- The TAPs (R564 to R572). -/
structure Jtag where
  irHub  : Byte
  irC0   : Byte
  irC1   : Byte
  pinsTaken : Bool
  /-- What SAMPLE/PRELOAD last shifted into a TAP's boundary register, by TAP: 0 hub, 1 and 2 the compute dies (R565). -/
  preload : Tbl (List Bool)
  ctrlAddr : Nat
  ctrlData : W64
  ctrlValid : Bool
  ctrlBusy : Bool
  norAddr : Nat
  norData : W64
  norBusy : Bool
  norOp   : BitVec 2
  mtChan  : BitVec 6
  mtOp    : BitVec 2
  mtDone  : Bool
  mtFail  : BitVec 31
deriving DecidableEq, Repr

/-- What the module sends to the world outside it (R343 to R348, R371, R434, R563), newest first. -/
inductive Out where
  | completion (fn : CtxId) (data : List Byte) (ep : Bool)
  | unsupported (fn : CtxId)
  /-- Posted writes and reads of a tray peer, by PCIe address (R347). -/
  | trayWrite (slot : SlotId) (addr : W64) (data : List Byte) (ep : Bool)
  | trayRead (slot : SlotId) (addr : W64) (len : Nat) (tile : TileId) (stream : StreamId)
  | trayCompletion (slot : SlotId) (data : List Byte) (ep : Bool)
  | msix (vec : Nat)
  | flit (st : Strait) (bytes : List Byte)
  | commitReport (pos : BitVec 6) (c : W32)
  | commitDeclare (c : W32)
  | agree (r : AgreeReport)
  | formDecision (d : FormVerdict)
  | report (r : MemberReport)
  | decision (d : Decision)
  | smbData (data : List Byte)
  | smbNack
  | smbAddr (a : Byte)
  | tdo (tap : Tap) (bits : List Bool)
deriving DecidableEq, Repr

/-- The world beside the module: the host memory its bus master reaches, and everything it has sent, newest first. -/
structure Ext where
  host : Memory
  sent : List Out
  /-- The part number: the 1T part, or else the 512G part (R1). -/
  part1T : Bool
deriving DecidableEq, Repr

/-- A free value's place: a counter the free values of Config are applied to. It is the model's own, not the
manual's. -/
structure Fresh where
  n : Nat
deriving DecidableEq, Repr

/-- Everything behind the front end. -/
structure Chip where
  tide     : Tide
  /-- The runs launched since module reset, newest first. -/
  runs     : List Run
  /-- The run under load: its launch has passed the checks of R449 and its tiles are being loaded. -/
  launching : Option Run
  wsets    : List WSet
  regions  : List Region
  tiles    : Tbl Tile
  spdMem   : Memory
  spdPoison : NatSet
  spdErr   : Tbl Nat
  lpMem    : Memory
  lpPoison : NatSet
  lpErr    : Tbl Nat
  macBad   : NatSet
  /-- Freed ranges whose contents are undefined: base, bytes and the free value's salt; and their granules written since (R288, R443). -/
  undef    : List (Nat × Nat × Nat)
  defined  : NatSet
  chans    : Tbl Chan
  engines  : Tbl Engine
  disp     : Disp
  attWin   : Memory
  attPoison : NatSet
  cdcs     : Tbl Cdc
  cslots   : Tbl CSlot
  pushes   : S4 (List Push)
  /-- Acknowledgements of remote transfers that are still to come (R125). -/
  acks     : List AckDue
  nextPush : Nat
  recheckSet : W16
  recheckChunk : W32
  /-- A granule of the chunk in progress has read as poisoned (R282). -/
  recheckPoison : Bool
  damagedCnt : W64
  strs     : S4 Str
  ring     : RingSt
  ctxs     : Tbl Ctx
  keeper   : Keeper
  tray     : TrayRegs
  slack    : Slack
  recov    : Recovery
  pan      : Pan
  watches  : List Watch
  harvests : Tbl Harvest
  harvQ    : List HarvReq
  boot     : Boot
  pwr      : PwrRegs
  nor      : Memory
  fresh    : Fresh
  ext      : Ext
deriving DecidableEq, Repr

/-- Why the machine stops with a fault. -/
inductive Fault where
  /-- The tide count would pass 2⁶⁴ − 1, which R44 says never happens (4,970 years). Raised by `step` on an empty
  queue; safe: nothing is proved past it. -/
  | tideWouldWrap
deriving DecidableEq, Repr

/-- Why the machine refuses. -/
inductive Refusal where
  /-- A command whose meaning is not written yet, by its mnemonic. Raised by `exec` for such an arm; safe. -/
  | notModelled (mnemonic : String)
deriving DecidableEq, Repr

/-- The module, its front end, its test port and the host link, and the commands that wait, first in first out. -/
structure State where
  pending : List Instr
  chip    : Chip
  front   : FrontEnd
  pcie    : Pcie
  smb     : Smb
  jtag    : Jtag
deriving DecidableEq, Repr

/-! ### Reset values -/

/-- The same value for each strait. -/
def S4.all {α : Type} (x : α) : S4 α := ⟨x, x, x, x⟩

/-- The same value for each virtual channel. -/
def V4.all {α : Type} (x : α) : V4 α := ⟨x, x, x, x⟩

/-- R85, R117: the TIDE_ reset values; the LOCAL oscillator is valid (DESIGN CHOICE, log 3). -/
def Tide.init : Tide :=
  { refOutEn := false, refSec := 7, refPri := 0, master := false, refUnaligned := false, launchLate := false,
    alignLost := false, alignDrift := false, refLoss := false, refActive := 0, pllLock := false, st := .locking,
    count := 0, acs := 0, phase := 0, hops := 0, path := false, residual := 0, hop := S4.all ⟨false, 0⟩,
    xch := S4.all ⟨0, false, 0, 0, 0, 0, 0, 0, 0, false⟩, position := 0, stagger := 0, shift := 0, refLen := 0x01C0,
    refPeriod := 0x0E50, grid := false, align := false, lead := 0, lateCnt := 0, urefCnt := 0, srcOk := 1,
    holdSince := 0, keepCount := false }

/-- R425: the STR_ reset values. -/
def Str.init : Str :=
  { present := false, train := .down, since := 0, retryAt := none, noRetry := false, width := 3, laneOk := 0,
    reversed := false, pver := 0, frozen := false, isolated := false, degraded := false, retrained := false,
    linkDown := false, far := ⟨0, 0, 0, 0, 0, 0, 0, 0, false, 0, 0⟩, probeSeen := false, versionFail := false,
    admitted := none, extraRaised := false, farBuf := V4.all 0, credit := V4.all 0, credSeen := V4.all 0,
    freed := V4.all 0, cvcNext := 0, fecCorr := 0, fecUncorr := 0, crcCnt := 0, retryCnt := 0, retrainCnt := 0,
    ferryStale := 0, discardCnt := 0, faultType := 0, faultCause := 0, offend := [], txFlits := 0, rxFlits := 0, nextSeq := 0,
    expSeq := 0, nakOut := false, nakRuns := 0, replay := [], resend := [], egrF := [], egrW := [], egrC := [],
    egrM := [], rxF := [], rxW := [], rxC := [], rxM := [], part := V4.all none, slotNo := 0, nullNo := 0, schedRun := 0,
    lastGood := 0,
    noCreditC := none, noCreditM := none, readQ := [], outReads := [] }

/-- No ring is formed. -/
def RingSt.init : RingSt :=
  { plan := none, inForce := none, pos := 0, form := .none, kind := .form, startTk := 0, result := S4.all 1, agrees := [], vr := 0,
    line := false, brk := 0, flipped := false, member := false, formedOnce := false }

/-- R432: a mailbox page at reset. -/
def Ctx.init : Ctx :=
  { page := [], reqTail := 0, rspHead := 0, evtHead := 0, reqHead := 0, rspTail := 0, evtTail := 0, evtLost := 0,
    gen := 0, badDoorbell := false, frozen := false, fcause := 0, opened := false, rspIrq := false, evtIrq := false,
    compat := 0, maps := [], cur := none, rsps := [], gap := 0, curSet := none, pendSet := none, wmark := 0 }

/-- R460: the Keeper at reset. -/
def Keeper.init : Keeper :=
  { state := .booting, fwVersion := 0, wdtExpired := false, restartCnt := 0, evtRaised := 0, evtWritten := 0,
    lastExpiry := none, expiryCount := 0, bgs := [], turn := 16, lostReqs := [], closing := [], nextRun := 1, wsetCtx := 0 }

/-- R377. -/
def TrayRegs.init : TrayRegs :=
  { valid := 0, enable := false, self := 0, frozen := 0, rid := [], bar2 := [], bar4 := [], offend := [] }

/-- No slack. The pin counts as having been high long enough to arm the first request (R481; DESIGN CHOICE, log 3). -/
def Slack.init : Slack :=
  { req := none, reqs := [], origin := 0, cut := none, forced := false, sched := false, inEffect := false, atSlack := false,
    heldS := 0, seen := [], pinLow := false, armed := true }

/-- R486. -/
def Recovery.init : Recovery :=
  { result := 0, cls := 0, replays := 0, ledgerFull := false, phase := .none, rollback := 0, cnt := 0, worst := 0,
    last := 0, commit := 0, ledger := [], ringSlots := 0, detect := 0, tReq := 0, excluded := false,
    suspect := false, downE := false, downW := false, inFlightLost := false,
    cancelled := false, phaseAt := 0, mc := 0, rp := none, stops := [], cutStop := none, commitReps := [],
    refused := [], open_ := false, mine := 0, sent := none }

/-- R133: a plane, invalid and unpoisoned. -/
def Plane.init : Plane := ⟨[], [], 0, 0, false, false⟩

/-- An array at reset; accumulator rows hold zero (DESIGN CHOICE, log 2). -/
def Arr.init : Arr := ⟨Plane.init, Plane.init, false, [], [], [], []⟩

/-- A stream at reset: closed. -/
def Stream.init : Stream := ⟨false, 0, false, none, false, none, none, 0, false⟩

/-- A sync object at reset: VALUE mode, zero (DESIGN CHOICE, log 2). -/
def Sync.init : Sync := ⟨0, 0, 0, 0, 0, 0, 0, 0, []⟩

/-- A seal context, empty. -/
def SealCtx.init : SealCtx := ⟨[], false⟩

/-- A tile at reset (R158, R235, R264). -/
def Tile.init : Tile :=
  { st := .idle, suspect := false, descErr := false, arrayCheck := false, lateBit := false, gen := 0, nextSeq := 0,
    faultId := 0, faultOp := 0, faultCause := 0, streamAt := 0, streamLen := 0, fetched := 0, fetchGot := false, queue := [], idx := 0,
    gang := 0, warm := .idle, level := 0, warmAc := 0, lastUse := 0, a0 := Arr.init, a1 := Arr.init,
    a2 := Arr.init, a3 := Arr.init, vec := none, handles := [], sb := [], port := [], aows := [], syncs := [], streams := [],
    attns := [], dumps := [], seals := [], pendShadow := none, commShadow := none,
    cnt := ⟨0, 0, 0, 0, 0, 0, 0, 0, 0, 0, 0, 0, 0, 0, 0, 0, 0, 0, 0⟩,
    spd := ⟨0, 0, false, false, 0, 0, 0, 0, 0, 0⟩, cohort := false, dlmiss := false, stall := false,
    lateRaised := false, conflictRaised := false, scopeRaised := [], pushMissAt := 0, attnMissAt := 0, keep := 0,
    retain := 0, lastCtx := 0, watchHold := false, stop := none, checkInBatch := false,
    checkSeen := false, lastIssueAc := 0 }

/-- A channel at reset (R306): untrained. -/
def Chan.init : Chan :=
  { refRate := 0, macFail := false, uncorr := false, derate := false, st := 0, ce := 0, ue := 0, mac := 0,
    rmbHit := 0, rmbMerge := 0, scrubPos := 0, lastUe := 0, wb := [], wbOrder := [], checkS := [], checkU := [],
    owed := 0, due := 0, rmb := [], fills := [], postponed := 0, slots := 0, slotAc := 0, inWindow := false, windowAt := 0, maintDone := false,
    maintAt := 0, reOff := 0, hotAt := none, polledAt := none, rfm := none }

/-- A channel engine at reset. -/
def Engine.init : Engine := ⟨[], [], 0, 0, 0, 0, 0⟩

/-- A codec unit at reset. -/
def Cdc.init : Cdc := ⟨false, false, false, 0, 0, 0, 0, 0, 0, 0, 0, false, false⟩

/-- A codec slot at reset: unowned, both versions empty. -/
def CSlot.init : CSlot := ⟨none, false, false, false, [], [], 0, 0⟩

/-- R519. -/
def Pan.init : Pan :=
  { owner := none, trig := false, loss := false, mode := 0, st := .idle, test := false, writeCnt := 0, lostCnt := 0,
    sealCnt := 0, sealRefused := 0, trigIdx := BitVec.allOnes 64, xoff0 := 0, xoff1 := 0, spill := 0,
    spillSize := 0, post := 0, pre := 0, sel := [], recs := [], total := 0, lostCap := 0, postLeft := 0, bufs := [],
    harvLost := 0, stampHigh := 0 }

/-- No settings in force yet: all fields zero (DESIGN CHOICE, log 2). -/
def Settings.init : Settings :=
  { version := 0, minFw := 0, operatorId := 0, stagger := 0, compat := 0, refreshAlign := false, visOpen := false,
    lineMode := false, autoOrient := false, exclude := [], opKey := [] }

/-- R542. -/
def Boot.init : Boot :=
  { stage := 0, lastFail := 0, identityOk := false, fwTrial := false, fwSlot := false, setSlot := false,
    fallback := false, bootNum := 0, set := Settings.init, setValid := false, serial := 0, rev := 0,
    fwMeas := [], setMeas := [], seedOk := false, ikLocked := false, akCert := [], logPos := 0, memOk := false }

/-- R571. -/
def PwrRegs.init : PwrRegs :=
  { ga := 0, memHot := false, hot := false, inletHot := false, overIn := false, margin := false, led := 0, volt := 0,
    curr := 0, power := 0, coreVolt := 0, coreCurr := 0, tDie := 0, tReg := 0, tMem := 0, tInlet := 0,
    lastOff := 0xFF, overAt := none, marginAt := none, thermAt := [] }

/-- The die set and its memories right after a module reset, the serial NOR and the world beside it as given. -/
def Chip.init (nor : Memory) (ext : Ext) (n : Nat) : Chip :=
  { tide := Tide.init, runs := [], launching := none, wsets := [], regions := [], tiles := [], spdMem := [], spdPoison := [],
    spdErr := [], lpMem := [], lpPoison := [], lpErr := [], macBad := [], undef := [], defined := [], chans := [], engines := [],
    disp := ⟨[], 0, [], []⟩, attWin := [], attPoison := [], cdcs := [], cslots := [], pushes := S4.all [], acks := [], nextPush := 0,
    recheckSet := 0, recheckChunk := 0, recheckPoison := false, damagedCnt := 0, strs := S4.all Str.init,
    ring := RingSt.init, ctxs := [], keeper := Keeper.init,
    tray := TrayRegs.init, slack := Slack.init, recov := Recovery.init, pan := Pan.init, watches := [],
    harvests := [], harvQ := [], boot := Boot.init, pwr := PwrRegs.init, nor := nor, fresh := ⟨n⟩, ext := ext }

/-- R564, R572: each TAP holds IDCODE. -/
def Jtag.init : Jtag :=
  { irHub := 1, irC0 := 1, irC1 := 1, pinsTaken := false, preload := [], ctrlAddr := 0, ctrlData := 0,
    ctrlValid := false, ctrlBusy := false, norAddr := 0, norData := 0, norBusy := false, norOp := 0, mtChan := 0,
    mtOp := 0, mtDone := false, mtFail := 0 }

/-- The module right after reset: the front end closed by PWR_EN, every register at its reset value, the boot not yet
run, nothing in any memory, and PERST# asserted (R558). -/
def State.reset : State :=
  { pending := [], chip := Chip.init [] ⟨[], [], true⟩ 0,
    front := { powered := true, pwrEn := true, latched := false, waiting := false, cause := 0xFF },
    pcie := { perst := true, barsSet := false, vfEnable := false, d3 := 0 },
    smb := { window := 0, pecErr := false }, jtag := Jtag.init }

end Sys2Proof.Machine
end

