-- ==== Sys2Proof/Machine/Bits.lean ====
section
/-! DEFINITION. Bit fields, little-endian words and byte lists (R4 to R6, R9). -/
namespace Sys2Proof.Machine

/-- Bits [hi:lo] of a number (R4: both ends included). -/
def bitsOf (x hi lo : Nat) : Nat := x / 2 ^ lo % 2 ^ (hi + 1 - lo)

/-- Bits [hi:lo] of a 64-bit word (R9). -/
def fld (w : W64) (hi lo : Nat) : Nat := bitsOf w.toNat hi lo

/-- One bit of a 64-bit word. -/
def bit (w : W64) (i : Nat) : Bool := w.getLsbD i

/-- A 64-bit word made of fields, each a low bit number, a width and a value. -/
def mkWord (fs : List (Nat × Nat × Nat)) : W64 :=
  BitVec.ofNat 64 (fs.foldl (fun acc f => acc + f.2.2 % 2 ^ f.2.1 * 2 ^ f.1) 0)

/-- 1 for true. -/
def b2n (b : Bool) : Nat := if b then 1 else 0

/-- The number a little-endian byte list spells (R5). -/
def leNat : List Byte → Nat
  | [] => 0
  | b :: bs => b.toNat + 256 * leNat bs

/-- The n bytes of a number, least significant first (R5). -/
def leBytes : Nat → Nat → List Byte
  | 0, _ => []
  | n + 1, x => BitVec.ofNat 8 x :: leBytes n (x / 256)

/-- The number a big-endian byte list spells (the security engine's digest and signature fields, R5). -/
def beNat (bs : List Byte) : Nat := bs.foldl (fun a b => a * 256 + b.toNat) 0

/-- The n bytes of a number, most significant first. -/
def beBytes (n x : Nat) : List Byte := (leBytes n x).reverse

/-- n zero bytes. -/
def zeros (n : Nat) : List Byte := List.replicate n 0

/-- Bytes off to off + n − 1 of a list, zero beyond its end. -/
def slice (bs : List Byte) (off n : Nat) : List Byte :=
  let r := (bs.drop off).take n
  r ++ zeros (n - r.length)

/-- The little-endian 64-bit word at byte offset off. -/
def wordAt (bs : List Byte) (off : Nat) : W64 := BitVec.ofNat 64 (leNat (slice bs off 8))

/-- The bytes of 64-bit words in order. -/
def wordsBytes : List W64 → List Byte
  | [] => []
  | w :: ws => leBytes 8 w.toNat ++ wordsBytes ws

/-- A byte list cut into 64-bit words. -/
def bytesWords (n : Nat) (bs : List Byte) : List W64 := (List.range n).map (fun i => wordAt bs (8 * i))

/-- Word n of a command. -/
def cmdWord (ws : List W64) (n : Nat) : W64 := ws.getD n 0

/-- A 64-bit sum with a natural number. -/
def addN (w : W64) (n : Nat) : W64 := w + BitVec.ofNat 64 n

/-- Ceiling division. -/
def cdiv (a b : Nat) : Nat := (a + b - 1) / b

/-- A two's-complement integer in n bits. -/
def intBits (n : Nat) (i : Int) : Nat := (i % (2 ^ n : Int)).toNat

/-- The integer that n low bits spell in two's complement. -/
def signed (n x : Nat) : Int := if x % 2 ^ n < 2 ^ (n - 1) then (x % 2 ^ n : Nat) else (x % 2 ^ n : Nat) - (2 ^ n : Int)

/-- Whether two byte ranges, each a start and a length, meet. -/
def overlap (a n b m : Nat) : Bool := decide (a < b + m) && decide (b < a + n) && decide (0 < n) && decide (0 < m)

/-- Whether the range [a, a + n) lies within [b, b + m). -/
def within (a n b m : Nat) : Bool := decide (b ≤ a) && decide (a + n ≤ b + m)

/-- The 64 B granules (or units of u bytes) that a byte range touches. -/
def unitsOf (u a n : Nat) : List Nat :=
  if n = 0 then [] else (List.range ((a + n - 1) / u - a / u + 1)).map (· + a / u)

end Sys2Proof.Machine
end

