-- ==== Sys2Proof/Machine/Crypto.lean ====
section
/-! DEFINITION. The security engine's functions (R520 to R533): SHA-512, the cyclic redundancy checks the manual names, and ECDSA on
P-521; and the cipher and tags of sealed regions (R285, R286). Digests and signatures are byte strings in the order of their standards (R5). -/
namespace Sys2Proof.Machine

/-- The round constants of SHA-512 (FIPS 180-4). -/
def shaK : List W64 :=
  [0x428A2F98D728AE22, 0x7137449123EF65CD, 0xB5C0FBCFEC4D3B2F, 0xE9B5DBA58189DBBC, 0x3956C25BF348B538, 0x59F111F1B605D019, 0x923F82A4AF194F9B, 0xAB1C5ED5DA6D8118] ++
  [0xD807AA98A3030242, 0x12835B0145706FBE, 0x243185BE4EE4B28C, 0x550C7DC3D5FFB4E2, 0x72BE5D74F27B896F, 0x80DEB1FE3B1696B1, 0x9BDC06A725C71235, 0xC19BF174CF692694] ++
  [0xE49B69C19EF14AD2, 0xEFBE4786384F25E3, 0x0FC19DC68B8CD5B5, 0x240CA1CC77AC9C65, 0x2DE92C6F592B0275, 0x4A7484AA6EA6E483, 0x5CB0A9DCBD41FBD4, 0x76F988DA831153B5] ++
  [0x983E5152EE66DFAB, 0xA831C66D2DB43210, 0xB00327C898FB213F, 0xBF597FC7BEEF0EE4, 0xC6E00BF33DA88FC2, 0xD5A79147930AA725, 0x06CA6351E003826F, 0x142929670A0E6E70] ++
  [0x27B70A8546D22FFC, 0x2E1B21385C26C926, 0x4D2C6DFC5AC42AED, 0x53380D139D95B3DF, 0x650A73548BAF63DE, 0x766A0ABB3C77B2A8, 0x81C2C92E47EDAEE6, 0x92722C851482353B] ++
  [0xA2BFE8A14CF10364, 0xA81A664BBC423001, 0xC24B8B70D0F89791, 0xC76C51A30654BE30, 0xD192E819D6EF5218, 0xD69906245565A910, 0xF40E35855771202A, 0x106AA07032BBD1B8] ++
  [0x19A4C116B8D2D0C8, 0x1E376C085141AB53, 0x2748774CDF8EEB99, 0x34B0BCB5E19B48A8, 0x391C0CB3C5C95A63, 0x4ED8AA4AE3418ACB, 0x5B9CCA4F7763E373, 0x682E6FF3D6B2B8A3] ++
  [0x748F82EE5DEFB2FC, 0x78A5636F43172F60, 0x84C87814A1F0AB72, 0x8CC702081A6439EC, 0x90BEFFFA23631E28, 0xA4506CEBDE82BDE9, 0xBEF9A3F7B2C67915, 0xC67178F2E372532B] ++
  [0xCA273ECEEA26619C, 0xD186B8C721C0C207, 0xEADA7DD6CDE0EB1E, 0xF57D4F7FEE6ED178, 0x06F067AA72176FBA, 0x0A637DC5A2C898A6, 0x113F9804BEF90DAE, 0x1B710B35131C471B] ++
  [0x28DB77F523047D84, 0x32CAAB7B40C72493, 0x3C9EBE0A15C9BEBC, 0x431D67C49C100D4C, 0x4CC5D4BECB3E42B6, 0x597F299CFC657E2A, 0x5FCB6FAB3AD6FAEC, 0x6C44198C4A475817]

/-- The initial hash value of SHA-512. -/
def shaH : List W64 :=
  [0x6A09E667F3BCC908, 0xBB67AE8584CAA73B, 0x3C6EF372FE94F82B, 0xA54FF53A5F1D36F1, 0x510E527FADE682D1, 0x9B05688C2B3E6C1F, 0x1F83D9ABFB41BD6B, 0x5BE0CD19137E2179]

/-- Rotate right. -/
def ror (x : W64) (n : Nat) : W64 := x.rotateRight n

/-- The message padded to whole 128 B blocks. -/
def shaPad (m : List Byte) : List Byte :=
  let z := (128 - (m.length + 17) % 128) % 128
  m ++ (0x80 : Byte) :: (zeros z ++ beBytes 16 (8 * m.length))

/-- The eighty schedule words, newest first, from the sixteen of a block. -/
def shaSched : Nat → List W64 → List W64
  | 0, w => w
  | k + 1, w =>
    let a := w.getD 14 0
    let b := w.getD 1 0
    let s0 := ror a 1 ^^^ ror a 8 ^^^ (a >>> 7)
    let s1 := ror b 19 ^^^ ror b 61 ^^^ (b >>> 6)
    shaSched k ((w.getD 15 0 + s0 + w.getD 6 0 + s1) :: w)

/-- One round. -/
def shaRound (v : List W64) (kw : W64 × W64) : List W64 :=
  match v with
  | [a, b, c, d, e, f, g, h] =>
    let s1 := ror e 14 ^^^ ror e 18 ^^^ ror e 41
    let ch := (e &&& f) ^^^ ((~~~ e) &&& g)
    let t1 := h + s1 + ch + kw.1 + kw.2
    let s0 := ror a 28 ^^^ ror a 34 ^^^ ror a 39
    let mj := (a &&& b) ^^^ (a &&& c) ^^^ (b &&& c)
    [t1 + s0 + mj, a, b, c, d + t1, e, f, g]
  | _ => v

/-- One block. -/
def shaBlock (h : List W64) (blk : List Byte) : List W64 :=
  let w := ((List.range 16).map (fun i => BitVec.ofNat 64 (beNat (slice blk (8 * i) 8)))).reverse
  let ws := (shaSched 64 w).reverse
  List.zipWith (· + ·) h ((List.zip shaK ws).foldl shaRound h)

/-- Every block of a padded message. -/
def shaBlocks : Nat → List W64 → List Byte → List W64
  | 0, h, _ => h
  | k + 1, h, m => shaBlocks k (shaBlock h (m.take 128)) (m.drop 128)

/-- SHA-512: 64 bytes. -/
def sha512 (m : List Byte) : List Byte :=
  let p := shaPad m
  ((shaBlocks (p.length / 128) shaH p).map (fun w => beBytes 8 w.toNat)).flatten

/-- One bit of a CRC whose register shifts left. -/
def crcLeft (w poly c : Nat) : Nat := if c / 2 ^ (w - 1) % 2 = 1 then (2 * c % 2 ^ w) ^^^ poly else 2 * c % 2 ^ w
/-- One bit of a reflected CRC. -/
def crcRight (poly c : Nat) : Nat := if c % 2 = 1 then (c / 2) ^^^ poly else c / 2
/-- Eight steps of a function. -/
def times8 (f : Nat → Nat) (c : Nat) : Nat := f (f (f (f (f (f (f (f c)))))))

/-- CRC-16/CCITT-FALSE (R312). -/
def crc16 (bs : List Byte) : Nat :=
  bs.foldl (fun c b => times8 (crcLeft 16 0x1021) (c ^^^ (b.toNat * 256))) 0xFFFF
/-- CRC-32 of IEEE 802.3 (R522). -/
def crc32 (bs : List Byte) : Nat :=
  (bs.foldl (fun c b => times8 (crcRight 0xEDB8_8320) (c ^^^ b.toNat)) 0xFFFF_FFFF) ^^^ 0xFFFF_FFFF
/-- CRC-64/XZ (R387); its polynomial reflected is 0xC96C_5795_D787_0F42. -/
def crc64 (bs : List Byte) : Nat :=
  (bs.foldl (fun c b => times8 (crcRight 0xC96C_5795_D787_0F42) (c ^^^ b.toNat)) 0xFFFF_FFFF_FFFF_FFFF) ^^^ 0xFFFF_FFFF_FFFF_FFFF

/-! ### P-521 (FIPS 186-4) -/

/-- The field's prime, 2^521 − 1. -/
def p521 : Nat := 2 ^ 521 - 1
/-- The order of the base point. -/
def n521 : Nat := 0x1fffffffffffffffffffffffffffffffffffffffffffffffffffffffffffffffffa51868783bf2f966b7fcc0148f709a5d03bb5c9b8899c47aebb6fb71e91386409
/-- The coefficient b. -/
def b521 : Nat := 0x0051953EB9618E1C9A1F929A21A0B68540EEA2DA725B99B315F3B8B489918EF109E156193951EC7E937B1652C0BD3BB1BF073573DF883D2C34F1EF451FD46B503F00
/-- The base point. -/
def g521 : Nat × Nat :=
  (0x00C6858E06B70404E9CD9E3ECB662395B4429C648139053FB521F828AF606B4D3DBAA14B5E77EFE75928FE1DC127A2FFA8DE3348B3C1856A429BF97E7E31C2E5BD66,
   0x011839296A789A3BC0045C8A5FB42C7D1BD998F54449579B446817AFBD17273E662C97EE72995EF42640C550B9013FAD0761353C7086A272C24088BE94769FD16650)

/-- x^e mod m. -/
def powMod (m : Nat) : Nat → Nat → Nat → Nat
  | 0, _, _ => 1 % m
  | k + 1, x, e => if e = 0 then 1 % m else (powMod m k (x * x % m) (e / 2)) * (if e % 2 = 1 then x else 1) % m
/-- The inverse modulo a prime. -/
def invMod (m x : Nat) : Nat := powMod m 600 (x % m) (m - 2)

/-- A point in affine coordinates; none is the point at infinity. -/
abbrev Pt := Option (Nat × Nat)

/-- Addition on the curve y² = x³ − 3x + b. -/
def ptAdd : Pt → Pt → Pt
  | none, q => q
  | p, none => p
  | some (x1, y1), some (x2, y2) =>
    if x1 = x2 ∧ (y1 + y2) % p521 = 0 then none
    else
      let l := if x1 = x2 then (3 * x1 * x1 + (p521 - 3)) * invMod p521 (2 * y1) % p521
               else (y2 + p521 - y1) * invMod p521 (x2 + p521 - x1) % p521
      let x3 := (l * l + 2 * p521 - x1 - x2) % p521
      some (x3, (l * (x1 + p521 - x3) + p521 - y1) % p521)

/-- k × P by doubling, over at most n bits. -/
def ptMul : Nat → Nat → Pt → Pt
  | 0, _, _ => none
  | n + 1, k, p => if k = 0 then none else
    let r := ptMul n (k / 2) (ptAdd p p)
    if k % 2 = 1 then ptAdd p r else r

/-- The point of a public key in SEC1 uncompressed form (133 B), if it lies on the curve. -/
def keyPoint (k : List Byte) : Pt :=
  let x := beNat (slice k 1 66)
  let y := beNat (slice k 67 66)
  if k.length = 133 ∧ k.getD 0 0 = 4 ∧ x < p521 ∧ y < p521 ∧ (y * y) % p521 = (x * x * x + (p521 - 3) * x + b521) % p521
  then some (x, y) else none

/-- A private key's public key in SEC1 uncompressed form. -/
def publicKey (d : Nat) : List Byte :=
  match ptMul 522 d (some g521) with
  | some (x, y) => 4 :: (beBytes 66 x ++ beBytes 66 y)
  | none => zeros 133

/-- ECDSA P-521 verification of a 132 B signature over a SHA-512 digest. -/
def ecdsaOk (key sig digest : List Byte) : Bool :=
  match keyPoint key with
  | none => false
  | some q =>
    let r := beNat (slice sig 0 66)
    let s := beNat (slice sig 66 66)
    if r = 0 ∨ n521 ≤ r ∨ s = 0 ∨ n521 ≤ s then false
    else
      let w := invMod n521 s
      let z := beNat digest
      match ptAdd (ptMul 522 (z * w % n521) (some g521)) (ptMul 522 (r * w % n521) (some q)) with
      | none => false
      | some (x, _) => decide (x % n521 = r)

/-- A label's bytes. -/
def label (s : String) : List Byte := s.toList.map (fun ch => BitVec.ofNat 8 ch.toNat)

/-- h = SHA-512(seed ‖ L ‖ 0x00) ‖ SHA-512(seed ‖ L ‖ 0x01) (R531). -/
def pufH (l : List Byte) : List Byte := sha512 (Config.pufSeed ++ l ++ [0]) ++ sha512 (Config.pufSeed ++ l ++ [1])

/-- The private key d = (h mod (n − 1)) + 1 of a label (R531). -/
def pufKey (l : List Byte) : Nat := beNat (pufH l) % (n521 - 1) + 1

/-! ### AES-256, XTS and CMAC (R285, R286) -/

/-- Multiplication by x in the field of AES (FIPS 197). -/
def xtime (b : Nat) : Nat := if b < 128 then 2 * b else (2 * b) % 256 ^^^ 0x1B

/-- Multiplication in the field of AES, by the bits of the second factor. -/
def gmulN : Nat → Nat → Nat → Nat
  | 0, _, _ => 0
  | n + 1, a, b => (if b % 2 = 1 then a else 0) ^^^ gmulN n (xtime a) (b / 2)
/-- The product of two field elements. -/
def gmul (a b : Nat) : Nat := gmulN 8 a b

/-- The inverse in the field, 0 of 0: the 254th power. -/
def ginv (a : Nat) : Nat :=
  let sq (x : Nat) : Nat := gmul x x
  let rec go : Nat → Nat → Nat → Nat
    | 0, _, acc => acc
    | n + 1, p, acc => go n (sq p) (gmul acc (sq p))
  go 7 a 1

/-- SubBytes of one byte: the inverse, then the affine transformation. -/
def sbox (a : Nat) : Nat :=
  let b := ginv a
  let rot (n : Nat) : Nat := (b * 2 ^ n) % 256 + b * 2 ^ n / 256
  b ^^^ rot 1 ^^^ rot 2 ^^^ rot 3 ^^^ rot 4 ^^^ 0x63

/-- Bytes combined by exclusive or. -/
def xorBytes (a b : List Byte) : List Byte := (a.zip b).map (fun p => p.1 ^^^ p.2)

/-- SubBytes of a list of bytes. -/
def subBytes (bs : List Byte) : List Byte := bs.map (fun b => BitVec.ofNat 8 (sbox b.toNat))

/-- The key schedule's words from word i on, the last eight made being known, newest first (FIPS 197, 256-bit keys). -/
def aesWords : Nat → Nat → Nat → List (List Byte) → List (List Byte)
  | 0, _, _, ws => ws
  | n + 1, i, rcon, ws =>
    let t := ws.headD []
    let g := if i % 8 = 0 then xorBytes (subBytes (t.drop 1 ++ t.take 1)) [BitVec.ofNat 8 rcon, 0, 0, 0] else if i % 8 = 4 then subBytes t else t
    aesWords n (i + 1) (if i % 8 = 0 then xtime rcon else rcon) (xorBytes (ws.getD 7 []) g :: ws)

/-- The fifteen round keys of a 32-byte key. -/
def aesKeys (key : List Byte) : List (List Byte) :=
  let ws := (aesWords 52 8 1 ((List.range 8).map (fun i => slice key (4 * i) 4)).reverse).reverse
  (List.range 15).map (fun r => (List.range 4).flatMap (fun i => ws.getD (4 * r + i) []))

/-- ShiftRows of a state of sixteen bytes, column by column. -/
def shiftRows (s : List Byte) : List Byte := (List.range 16).map (fun i => s.getD ((i + 4 * (i % 4)) % 16) 0)

/-- MixColumns of a state. -/
def mixColumns (s : List Byte) : List Byte :=
  (List.range 16).map (fun i =>
    let b (k : Nat) : Nat := (s.getD (i / 4 * 4 + (i + k) % 4) 0).toNat
    BitVec.ofNat 8 (gmul (b 0) 2 ^^^ gmul (b 1) 3 ^^^ b 2 ^^^ b 3))

/-- AES-256 of one block with its round keys. -/
def aesBlock (keys : List (List Byte)) (b : List Byte) : List Byte :=
  let s := (List.range 13).foldl (fun s r => xorBytes (mixColumns (shiftRows (subBytes s))) (keys.getD (r + 1) [])) (xorBytes b (keys.getD 0 []))
  xorBytes (shiftRows (subBytes s)) (keys.getD 14 [])

/-- AES-256-XTS (IEEE 1619) of a data unit of whole blocks: the keys of the data and of the tweak, and the tweak. -/
def xts (k1 k2 : List Byte) (tweak : Nat) (data : List Byte) : List Byte :=
  let ks := aesKeys k1
  let dbl (n : Nat) : Nat := if n < 2 ^ 127 then 2 * n else (2 * n) % 2 ^ 128 ^^^ 0x87
  let t0 := leNat (aesBlock (aesKeys k2) (leBytes 16 tweak))
  ((List.range (data.length / 16)).foldl (fun (a : List Byte × Nat) i =>
    let t := leBytes 16 a.2
    (a.1 ++ xorBytes (aesBlock ks (xorBytes (slice data (16 * i) 16) t)) t, dbl a.2)) ([], t0)).1

/-- AES-256 CMAC (NIST SP 800-38B) of a message. -/
def cmac (key msg : List Byte) : List Byte :=
  let ks := aesKeys key
  let dbl (n : Nat) : Nat := if n < 2 ^ 127 then 2 * n else (2 * n) % 2 ^ 128 ^^^ 0x87
  let k1 := dbl (beNat (aesBlock ks (zeros 16)))
  let whole := decide (msg.length % 16 = 0) && decide (0 < msg.length)
  let n := if whole then msg.length / 16 - 1 else msg.length / 16
  let tail := msg.drop (16 * n)
  let last := if whole then xorBytes tail (leBytes 16 k1).reverse
    else xorBytes (tail ++ [0x80] ++ zeros (15 - tail.length)) (leBytes 16 (dbl k1)).reverse
  let x := (List.range n).foldl (fun x i => aesBlock ks (xorBytes x (slice msg (16 * i) 16))) (zeros 16)
  aesBlock ks (xorBytes x last)

/-- What the packages hold of a granule of a sealed region: its AES-256-XTS, the tweak its local address divided by 64 (R285). -/
def sealGranule (salt g : Nat) (plain : List Byte) : List Byte := xts (Config.sealKey salt 0) (Config.sealKey salt 1) g plain

/-- The tag of such a granule: the first 8 bytes of the CMAC over its local address and its ciphertext (R286). -/
def sealTag (salt g : Nat) (plain : List Byte) : List Byte := (cmac (Config.sealKey salt 2) (leBytes 8 (g * 64) ++ sealGranule salt g plain)).take 8

end Sys2Proof.Machine
end

