-- ==== Sys2Proof/Machine/Ops.lean ====
section
/-! DEFINITION. The named operations over the state that every command shares: sparse tables and memories in canonical
form, the memory's reads and writes with their poison, event records, responses, freezing, sync updates and slack requests. -/
namespace Sys2Proof.Machine

/-! ### Tables in canonical form -/

/-- The value at a key, or the default. -/
def tblGet {α : Type} (d : α) : Tbl α → Nat → α
  | [], _ => d
  | (k, v) :: r, a => if k = a then v else tblGet d r a

/-- Remove a key. -/
def tblErase {α : Type} : Tbl α → Nat → Tbl α
  | [], _ => []
  | (k, v) :: r, a => if k = a then r else (k, v) :: tblErase r a

/-- Put a value at a key, the keys rising. -/
def tblInsert {α : Type} : Tbl α → Nat → α → Tbl α
  | [], a, x => [(a, x)]
  | (k, v) :: r, a, x =>
    if a < k then (a, x) :: (k, v) :: r else if a = k then (a, x) :: r else (k, v) :: tblInsert r a x

/-- Put a value at a key, keeping the canonical form: the default removes the entry. -/
def tblPut {α : Type} [DecidableEq α] (d : α) (t : Tbl α) (a : Nat) (x : α) : Tbl α :=
  if x = d then tblErase t a else tblInsert t a x

/-- The canonical form: keys strictly rising above a bound, and no entry equal to the default. -/
def tblWfFrom {α : Type} [DecidableEq α] (d : α) : Option Nat → Tbl α → Bool
  | _, [] => true
  | lo, (k, v) :: r =>
    (match lo with | none => true | some b => decide (b < k)) && decide (v ≠ d) && tblWfFrom d (some k) r

/-- The canonical form of a table. -/
def tblWf {α : Type} [DecidableEq α] (d : α) (t : Tbl α) : Bool := tblWfFrom d none t

/-- Drop the entries whose key lies in [a, a + n). -/
def tblClear {α : Type} (t : Tbl α) (a n : Nat) : Tbl α := t.filter (fun e => !(decide (a ≤ e.1) && decide (e.1 < a + n)))

/-- The canonical form of a memory whose unlisted bytes read as d. -/
def Memory.wf (d : Byte) (m : Memory) : Bool := tblWf d m

/-- Put a byte into a set of numbers, the set strictly rising. -/
def setAdd : NatSet → Nat → NatSet
  | [], a => [a]
  | k :: r, a => if a < k then a :: k :: r else if a = k then k :: r else k :: setAdd r a

/-- Remove a number from a set. -/
def setDel (s : NatSet) (a : Nat) : NatSet := s.filter (· != a)

/-- n bytes from address a. -/
def memRead (d : Byte) (m : Memory) (a n : Nat) : List Byte := (List.range n).map (fun i => tblGet d m (a + i))

/-- Write bytes from address a up. -/
def memWrite (d : Byte) : Memory → Nat → List Byte → Memory
  | m, _, [] => m
  | m, a, b :: bs => memWrite d (tblPut d m a b) (a + 1) bs

/-! ### Selecting a part of the state -/

/-- The value of one strait. -/
def S4.get {α : Type} (s : S4 α) : Strait → α
  | .e => s.e | .w => s.w | .x0 => s.x0 | .x1 => s.x1

/-- Replace the value of one strait. -/
def S4.set {α : Type} (s : S4 α) (st : Strait) (x : α) : S4 α :=
  match st with
  | .e => { s with e := x } | .w => { s with w := x } | .x0 => { s with x0 := x } | .x1 => { s with x1 := x }

/-- The value of one virtual channel, by its code (R395). -/
def V4.get {α : Type} (s : V4 α) (vc : BitVec 2) : α :=
  if vc = 0 then s.f else if vc = 1 then s.w else if vc = 2 then s.c else s.m

/-- Replace the value of one virtual channel. -/
def V4.set {α : Type} (s : V4 α) (vc : BitVec 2) (x : α) : V4 α :=
  if vc = 0 then { s with f := x } else if vc = 1 then { s with w := x }
  else if vc = 2 then { s with c := x } else { s with m := x }

/-- A strait's number, in the order E, W, X0, X1 (R429). -/
def straitNum : Strait → Nat
  | .e => 0 | .w => 1 | .x0 => 2 | .x1 => 3

/-- The strait of a number. -/
def straitOf (n : Nat) : Strait := if n = 0 then .e else if n = 1 then .w else if n = 2 then .x0 else .x1

/-- Whether a strait is a main strait (R14). -/
def straitMain : Strait → Bool
  | .e => true | .w => true | .x0 => false | .x1 => false

/-- An issuer's number: contexts 0 to 15, and 16 for the management mailbox. -/
def issuerNum : Issuer → Nat
  | .ctx n => n.toNat
  | .mgmt => 16

/-- The tile at an index. -/
def Chip.tile (c : Chip) (t : Nat) : Tile := tblGet Tile.init c.tiles t
/-- Replace a tile. -/
def Chip.setTile (c : Chip) (t : Nat) (x : Tile) : Chip := { c with tiles := tblPut Tile.init c.tiles t x }
/-- Change a tile. -/
def Chip.updTile (c : Chip) (t : Nat) (f : Tile → Tile) : Chip := c.setTile t (f (c.tile t))
/-- The strait of a name. -/
def Chip.str (c : Chip) (s : Strait) : Str := c.strs.get s
/-- Replace a strait. -/
def Chip.setStr (c : Chip) (s : Strait) (x : Str) : Chip := { c with strs := c.strs.set s x }
/-- Change a strait. -/
def Chip.updStr (c : Chip) (s : Strait) (f : Str → Str) : Chip := c.setStr s (f (c.str s))
/-- The channel at an index. -/
def Chip.chan (c : Chip) (n : Nat) : Chan := tblGet Chan.init c.chans n
/-- Change a channel. -/
def Chip.updChan (c : Chip) (n : Nat) (f : Chan → Chan) : Chip :=
  { c with chans := tblPut Chan.init c.chans n (f (c.chan n)) }
/-- Whether the arbiter is held by a refresh window (R69, R72): 448 tk from its begin. -/
def Chip.shut (c : Chip) (ch : Nat) : Bool := (c.chan ch).inWindow && decide (c.tide.count.toNat < (c.chan ch).windowAt + 448)
/-- The channel engine at an index. -/
def Chip.engine (c : Chip) (n : Nat) : Engine := tblGet Engine.init c.engines n
/-- Change a channel engine. -/
def Chip.updEngine (c : Chip) (n : Nat) (f : Engine → Engine) : Chip :=
  { c with engines := tblPut Engine.init c.engines n (f (c.engine n)) }
/-- The codec unit at an index (R336). -/
def Chip.cdc (c : Chip) (n : Nat) : Cdc := tblGet Cdc.init c.cdcs n
/-- Change a codec unit. -/
def Chip.updCdc (c : Chip) (n : Nat) (f : Cdc → Cdc) : Chip := { c with cdcs := tblPut Cdc.init c.cdcs n (f (c.cdc n)) }
/-- The codec slot at an index. -/
def Chip.cslot (c : Chip) (n : Nat) : CSlot := tblGet CSlot.init c.cslots n
/-- Change a codec slot. -/
def Chip.updCslot (c : Chip) (n : Nat) (f : CSlot → CSlot) : Chip :=
  { c with cslots := tblPut CSlot.init c.cslots n (f (c.cslot n)) }
/-- The mailbox of an issuer. -/
def Chip.ctx (c : Chip) (n : Nat) : Ctx := tblGet Ctx.init c.ctxs n
/-- Change a mailbox. -/
def Chip.updCtx (c : Chip) (n : Nat) (f : Ctx → Ctx) : Chip := { c with ctxs := tblPut Ctx.init c.ctxs n (f (c.ctx n)) }
/-- Whether a mailbox's context is open (R440). The management mailbox counts as open without a ctx.open, from reset on, while the OPEN
field of its page is 0 until its own ctx.open, as R432 gives it (DESIGN CHOICE, log 81). -/
def Chip.isOpen (c : Chip) (n : Nat) : Bool := (c.ctx n).opened || decide (n = 16)
/-- Send something out of the module. -/
def Chip.send (c : Chip) (o : Out) : Chip := { c with ext := { c.ext with sent := o :: c.ext.sent } }

/-- One array of a tile. -/
def Tile.arr (t : Tile) (a : Nat) : Arr := if a = 0 then t.a0 else if a = 1 then t.a1 else if a = 2 then t.a2 else t.a3
/-- Replace one array. -/
def Tile.setArr (t : Tile) (a : Nat) (x : Arr) : Tile :=
  if a = 0 then { t with a0 := x } else if a = 1 then { t with a1 := x }
  else if a = 2 then { t with a2 := x } else { t with a3 := x }
/-- One stream of a tile. -/
def Tile.stream (t : Tile) (k : Nat) : Stream := tblGet Stream.init t.streams k
/-- Replace one stream. -/
def Tile.setStream (t : Tile) (k : Nat) (x : Stream) : Tile := { t with streams := tblPut Stream.init t.streams k x }
/-- One sync object. -/
def Tile.sync (t : Tile) (o : Nat) : Sync := tblGet Sync.init t.syncs o
/-- Replace one sync object. -/
def Tile.setSync (t : Tile) (o : Nat) (x : Sync) : Tile := { t with syncs := tblPut Sync.init t.syncs o x }
/-- A sync object as it is loaded: a mode and a count that nothing has updated. -/
def Sync.of (mode : BitVec 2) (count : W32) : Sync := { Sync.init with mode := mode, count := count, was := count }
/-- What a WAIT or a gate sees of an object in an ac: its count, scope and path as the updates of earlier ac left them (R359). -/
def Sync.seen (x : Sync) (ac : Nat) : W32 × BitVec 3 × BitVec 3 :=
  if x.at_ = ac then (x.was, x.wasScope, x.wasPath) else (x.count, x.scope, x.path)
/-- One seal context. -/
def Tile.seal (t : Tile) (k : Nat) : SealCtx := tblGet SealCtx.init t.seals k

/-- The tide count as a number. -/
def Chip.now (c : Chip) : Nat := c.tide.count.toNat
/-- Ticks since module reset, in which elapsed times are counted: the tide count itself is loaded at a formation (R46). -/
def Chip.up (c : Chip) : Nat := c.tide.acs.toNat / 8
/-- The arithmetic cycle count (R8: 8 ac to a tk). -/
def Chip.nowAc (c : Chip) : Nat := c.now * 8 + c.tide.phase.toNat

/-- The active run, if any (R444): from its launch being accepted until it has ended or been cancelled. -/
def Chip.run (c : Chip) : Option Run :=
  match c.runs with
  | [] => none
  | r :: _ => match r.state with
    | .ended => none
    | .cancelled => none
    | _ => some r

/-- The index of the current step (R94): the last boundary reached, which after the drain step's end is still its own. -/
def Run.step (r : Run) : Nat := min (r.reached - 1) (r.steps.length - 1)

/-- Whether what launches by mark launches: the time base is aligned, or in holdover (R45, R56). -/
def Chip.timed (c : Chip) : Bool := c.tide.st == .aligned || c.tide.st == .holdover

/-- Change the active run. -/
def Chip.updRun (c : Chip) (f : Run → Run) : Chip :=
  match c.run, c.runs with
  | some _, r :: rs => { c with runs := f r :: rs }
  | _, _ => c

/-- The context of the active run, 0 with none. -/
def Chip.runCtx (c : Chip) : Nat := match c.run with | some r => r.ctx | none => 0

/-- Whether the die set runs: powered through the closed front end (R550), and its pins not taken (R566). -/
def State.live (s : State) : Bool := s.front.powered && !s.jtag.pinsTaken

/-- A command that acts behind the front end: nothing changes while the die set does not run. -/
def onChip (f : Chip → Chip) (s : State) : Host.Outcome State Fault Refusal :=
  .next (if s.live then { s with chip := f s.chip } else s)

/-- Do something only where a condition holds: an event commanded while its condition does not hold changes nothing
(log 5). -/
def Chip.when (b : Bool) (f : Chip → Chip) (c : Chip) : Chip := if b then f c else c

/-! ### The local address map (R2, R267, R337, R430) -/

/-- Base of the scratchpad window. -/
def spdBase : Nat := 0x8000_0000
/-- Base of LPDDR5X. -/
def lpBase : Nat := 0x0100_0000_0000
/-- In the scratchpad window (R337). -/
def inSpd (a : Nat) : Bool := decide (spdBase ≤ a) && decide (a < 0x1_0000_0000)
/-- In the sync port window (R337). -/
def inPorts (a : Nat) : Bool := decide (0x6000_0000 ≤ a) && decide (a < 0x6020_0000)
/-- In the LPDDR5X range (R337). -/
def inLp (a : Nat) : Bool := decide (lpBase ≤ a) && decide (a < 0x0200_0000_0000)
/-- Installed LPDDR5X bytes (R441 CAPACITY). -/
def Chip.capacity (c : Chip) : Nat := if c.ext.part1T then 0x100_0000_0000 else 0x80_0000_0000
/-- First LPDDR5X offset of the inline-ECC range (R267). -/
def Chip.eccOff (c : Chip) : Nat := if c.ext.part1T then 0xF8_0000_0000 else 0x7C_0000_0000
/-- First LPDDR5X offset of the Keeper reserve (R430): the 128 MiB below the inline-ECC range. -/
def Chip.reserveOff (c : Chip) : Nat := c.eccOff - 0x800_0000
/-- A range of LPDDR5X that user data may occupy: populated, below the inline-ECC range and the Keeper reserve. -/
def Chip.lpUser (c : Chip) (a n : Nat) : Bool := within a n lpBase c.reserveOff
/-- Whether a range reaches into the unpopulated LPDDR5X of the 512G part (R2). -/
def Chip.unpopulated (c : Chip) (a n : Nat) : Bool := !c.ext.part1T && overlap a n 0x0180_0000_0000 0x80_0000_0000
/-- The tile whose scratchpad holds a window address. -/
def spdTile (a : Nat) : Nat := (a - spdBase) / 0x8_0000
/-- Whether a tile is excluded by the settings (R155). -/
def Chip.excluded (c : Chip) (t : Nat) : Bool := (c.tile t).st == .excluded
/-- The channel of an LPDDR5X address (R266). -/
def chanOf (a : Nat) : Nat := (a - lpBase) / 0x1_0000 % 64
/-- The channel offset of an LPDDR5X address (R266). -/
def chanOff (a : Nat) : Nat := (a - lpBase) % 0x1_0000 + (a - lpBase) / 0x40_0000 * 0x1_0000
/-- The LPDDR5X address of a channel and a channel offset (the inverse of R266). -/
def chanAddr (ch o : Nat) : Nat := lpBase + o % 0x1_0000 + ch * 0x1_0000 + o / 0x1_0000 * 0x40_0000
/-- The power groups of a tile's scratchpad that a range of physical offsets touches are all powered (R228, R234). -/
def Tile.poweredRange (t : Tile) (off n : Nat) : Bool :=
  (unitsOf 0x1_0000 off n).all (fun g => decide (g < 8) && t.spd.powered.getLsbD g)

/-! ### Memory reads and writes -/

/-- The salt of the freed range that a granule lies in, if its contents are undefined: it was freed and has not been written since (R443). -/
def Chip.undefAt (c : Chip) (g : Nat) : Option Nat :=
  if c.defined.contains g then none else (c.undef.find? (fun r => decide (r.1 ≤ g * 64) && decide (g * 64 < r.1 + r.2.1))).map (fun r => r.2.2)

/-- The sealed region whose tag area holds an address (R286). -/
def Chip.tagsAt (c : Chip) (a : Nat) : Option Region :=
  c.regions.find? (fun r => r.sealedR && decide (r.tags ≤ a) && decide (a < r.tags + r.size / 8))

/-- A byte of LPDDR5X as any master reads it: plain in a region, whose controller decrypts a sealed one (R285); a tag's in a tag area; a free
value where the contents are undefined. -/
def Chip.lpByte (c : Chip) (a : Nat) : Byte :=
  match c.tagsAt a with
  | some r =>
    let g := r.base / 64 + (a - r.tags) / 8
    (sealTag r.key g (memRead 0 c.lpMem (g * 64) 64)).getD ((a - r.tags) % 8) 0
  | none => match c.undefAt (a / 64) with
    | some k => Config.undefByte k a
    | none => tblGet 0 c.lpMem a

/-- Bytes at a local address (R363: what the last landed write left). -/
def Chip.bytes (c : Chip) (a n : Nat) : List Byte :=
  if inSpd a then memRead 0 c.spdMem (a - spdBase) n else (List.range n).map (fun i => c.lpByte (a + i))

/-- Whether a read of the range is poisoned at its memory's granularity (R227, R259): either word of a scratchpad
granule, or the LPDDR5X granule. -/
def Chip.poisoned (c : Chip) (a n : Nat) : Bool :=
  if inSpd a then (unitsOf 64 (a - spdBase) n).any (fun g => c.spdPoison.contains (2 * g) || c.spdPoison.contains (2 * g + 1))
  else (unitsOf 64 a n).any (fun g => c.lpPoison.contains g || c.macBad.contains g)

/-- The poison sets after a write of n bytes at unit size u, marking size v: units wholly covered by a clean write are
cleared, and a poisoned write marks every unit of the granules it touches (R225, R260). -/
def poisonAfter (s : NatSet) (u a n : Nat) (pz : Bool) : NatSet :=
  if pz then (unitsOf 64 a n).foldl (fun s g => ((List.range (64 / u)).map (· + g * (64 / u))).foldl setAdd s) s
  else s.filter (fun k => !(within (k * u) u a n))

/-- The granules of a range whose contents are undefined take one value of them, that a write then merges with (R443). -/
def Chip.settle (c : Chip) (a n : Nat) : Chip :=
  ((unitsOf 64 a n).filter (fun g => (c.undefAt g).isSome)).foldl (fun c g =>
    { c with lpMem := memWrite 0 c.lpMem (g * 64) ((List.range 64).map (fun i => c.lpByte (g * 64 + i))), defined := setAdd c.defined g }) c

/-- Write bytes at a local address: the bytes land, poison follows R225 and R260, and for LPDDR5X the granule's read-merge
line is invalidated and a fill of it in flight installs none (R276), its queued correction dropped (R271) and a whole granule's latent error
and tag replaced. A whole part of a scratchpad word has its check bits replaced (R225). -/
def Chip.write (c : Chip) (a : Nat) (bs : List Byte) (pz : Bool) : Chip :=
  if inSpd a then
    { c with spdMem := memWrite 0 c.spdMem (a - spdBase) bs,
             spdPoison := poisonAfter c.spdPoison 32 (a - spdBase) bs.length pz,
             spdErr := c.spdErr.filter (fun e => !(within (e.1 * 8) 8 (a - spdBase) bs.length)) }
  else
    let c := c.settle a bs.length
    let gs := unitsOf 64 a bs.length
    let c := { c with lpMem := memWrite 0 c.lpMem a bs, lpPoison := poisonAfter c.lpPoison 64 a bs.length pz,
                      lpErr := c.lpErr.filter (fun e => !(within (e.1 * 64) 64 a bs.length)),
                      macBad := c.macBad.filter (fun g => !(within (g * 64) 64 a bs.length)) }
    gs.foldl (fun c g => c.updChan (chanOf (g * 64)) (fun x =>
      { x with rmb := if tblGet 0 x.rmb (chanOff (g * 64) / 64 % 4096) = g + 1
                        then tblErase x.rmb (chanOff (g * 64) / 64 % 4096) else x.rmb,
               fills := tblErase x.fills g,
               wb := setDel x.wb g, wbOrder := x.wbOrder.filter (· != g) })) c

/-! ### Event records (R455 to R458) -/

/-- The four words of an event record. -/
def Ev.words (e : Ev) (seq : Nat) : List W64 :=
  [mkWord [(48, 16, e.code.toNat), (44, 4, e.kind.toNat), (32, 12, e.id.toNat), (0, 16, seq)], e.stamp, e.d0, e.d1]

/-- Put one record into an issuer's event ring, which has room (R432, R434). -/
def Chip.putEv (c : Chip) (n : Nat) (e : Ev) : Chip :=
  let x := c.ctx n
  let c := c.updCtx n (fun x => { x with
    page := memWrite 0 x.page (0x4000 + x.evtTail.toNat % 512 * 32) (wordsBytes (e.words x.evtTail.toNat)),
    evtTail := x.evtTail + 1 })
  if x.evtIrq && decide (n < 16) then c.send (.msix (128 * n + 1)) else c

/-- Whether an event ring holds 512 unread records. -/
def Ctx.evtFull (x : Ctx) : Bool := decide (512 ≤ (x.evtTail - x.evtHead).toNat)

/-- Deliver an event to one ring (R456): with a gap outstanding, EVENT_LOSS goes first once there is room; a record that
finds the ring full is lost and counted. -/
def Chip.deliver (c : Chip) (n : Nat) (e : Ev) : Chip :=
  let c := if decide (0 < (c.ctx n).gap) && !(c.ctx n).evtFull then
      let g := (c.ctx n).gap
      (c.putEv n { code := 0x0707, kind := 0, id := 0, stamp := c.tide.count, d0 := BitVec.ofNat 64 g, d1 := 0 }).updCtx n
        (fun x => { x with gap := 0 })
    else c
  if (c.ctx n).evtFull then c.updCtx n (fun x => { x with evtLost := x.evtLost + 1, gap := x.gap + 1 })
  else c.putEv n e

/-- The pan's view of a raised event is in Machine/Observe.lean; this is the count and the delivery: KPR_EVT_RAISED_CNT
rises (R457), and a running Keeper writes the record to the target context's ring, if open, and to MGMT (R456). -/
def Chip.raiseTo (c : Chip) (tgt : Nat) (e : Ev) : Chip :=
  let c := { c with keeper := { c.keeper with evtRaised := c.keeper.evtRaised + 1 } }
  if c.keeper.state == .running then
    let c := if (c.ctx tgt).opened && decide (tgt < 16) then c.deliver tgt e else c
    let c := c.deliver 16 e
    { c with keeper := { c.keeper with evtWritten := c.keeper.evtWritten + 1 } }
  else c

/-! ### Responses (R435, R437) -/

/-- The bytes of a response: its header entry, then its payload filled to whole entries. -/
def Rsp.bytes (r : Rsp) : List Byte :=
  wordsBytes [mkWord [(48, 16, r.opcode.toNat), (32, 16, r.tag.toNat), (16, 16, r.payload.length), (0, 16, r.status.toNat)],
    r.done, mkWord [(0, 16, r.errOff.toNat)], mkWord [(0, 32, r.refWritten.toNat)], 0, 0, 0, 0]
  ++ r.payload ++ zeros (64 * cdiv r.payload.length 64 - r.payload.length)

/-- Write entries into a ring of 64 entries of 64 B at a page offset, from entry n, wrapping. -/
def ringWrite (page : Memory) (base n : Nat) (bs : List Byte) : Memory :=
  (List.range (bs.length / 64)).foldl
    (fun p i => memWrite 0 p (base + (n + i) % 64 * 64) (slice bs (64 * i) 64)) page

/-- Write every waiting response that the response ring has room for, in order (R437). -/
def flushRsps (n : Nat) : Nat → Chip → Chip
  | 0, c => c
  | k + 1, c =>
    let x := c.ctx n
    match x.rsps with
    | [] => c
    | r :: rs =>
      let bs := r.bytes
      if (x.rspTail - x.rspHead).toNat + bs.length / 64 ≤ 64 then
        let c := c.updCtx n (fun x => { x with
          page := ringWrite x.page 0x1000 x.rspTail.toNat bs,
          rspTail := x.rspTail + BitVec.ofNat 32 (bs.length / 64), rsps := rs })
        let c := if x.rspIrq && decide (n < 16) then c.send (.msix (128 * n)) else c
        flushRsps n k c
      else c

/-- Complete a request: its response joins the queue, and is written as soon as the ring has room. -/
def Chip.respond (c : Chip) (n : Nat) (q : Req) (status : W16) (payload : List Byte) (errOff : W16) (refWritten : Nat) : Chip :=
  let r : Rsp := { opcode := q.opcode, tag := q.gen ++ q.seq, status := status, done := c.tide.count, errOff := errOff,
                   refWritten := BitVec.ofNat 32 refWritten, payload := payload }
  let c := c.updCtx n (fun x => { x with rsps := x.rsps ++ [r] })
  flushRsps n (c.ctx n).rsps.length c

/-- A background request completes. -/
def Chip.endBg (c : Chip) (b : Bg) (st : W16) (payload : List Byte) (errOff : W16) (refWritten : Nat) : Chip :=
  let c := { c with keeper := { c.keeper with bgs := c.keeper.bgs.filter (fun x => x != b) } }
  c.respond b.who b.req st payload errOff refWritten

/-- Write bytes into host memory as a bus master (R435). -/
def Chip.hostWrite (c : Chip) (a : Nat) (bs : List Byte) : Chip := { c with ext := { c.ext with host := memWrite 0 c.ext.host a bs } }
/-- Read bytes of host memory as a bus master. -/
def Chip.hostRead (c : Chip) (a n : Nat) : List Byte := memRead 0 c.ext.host a n

/-! ### Status codes (R13) -/

def stOk : W16 := 0x0000
def stBusy : W16 := 0x0001
def stTagBusy : W16 := 0x0002
def stNoSpace : W16 := 0x0010
def stBounds : W16 := 0x0011
def stBadArg : W16 := 0x0012
def stNotPermitted : W16 := 0x0013
def stTableBusy : W16 := 0x0020
def stPlanMismatch : W16 := 0x0030
def stVersion : W16 := 0x0031
def stNotAtSlack : W16 := 0x0032
def stFrozen : W16 := 0x0040
def stDigest : W16 := 0x0050
def stSignature : W16 := 0x0051
def stTimeout : W16 := 0x0060
def stPoisoned : W16 := 0x0070

end Sys2Proof.Machine
end

