-- ==== Sys2Proof/Machine/Events.lean ====
section
/-! DEFINITION. Raising events and writing trace records (R455 to R459, R495 to R500), launch marks (R58), slack requests
(R78 to R82, R409, R462), freezing masters (R126, R262, R338, R421, R454) and updates of sync objects (R355). -/
namespace Sys2Proof.Machine

/-- Whether visibility is OPEN (R489): by the settings, before the first formation, during a recovery, or under test. -/
def Chip.visOpen (c : Chip) : Bool := c.boot.set.visOpen || !c.ring.formedOnce || c.recov.open_ || c.pan.test

/-! ### Trace records -/

/-- Whether tile t is in the pan's selection (R498). -/
def Pan.selTile (p : Pan) (t : Nat) : Bool :=
  let w := p.sel.getD 0 0
  decide (fld w 63 52 ≤ t) && decide (t < fld w 63 52 + fld w 51 39)

/-- Whether engine kind k is recorded (R498 KINDS). -/
def Pan.selKind (p : Pan) (k : Nat) : Bool := bit (p.sel.getD 0 0) k && decide (k < 9)

/-- Whether the pan is capturing. -/
def Pan.live (p : Pan) : Bool := p.st == .armed || p.st == .triggered

/-- The engine's buffer before the pan: up to 4 waiting records; a further one is lost (R500). -/
def panPush (key : Nat) (r : TRec) (stamp : W64) : List PanBuf → List PanBuf × Bool
  | [] => ([⟨key, [r], 0, 0⟩], false)
  | b :: bs =>
    if b.key = key then
      if b.recs.length < 4 then ({ b with recs := b.recs ++ [r] } :: bs, false)
      else ({ b with lost := b.lost + 1, firstLost := if b.lost = 0 then stamp else b.firstLost } :: bs, true)
    else let q := panPush key r stamp bs; (b :: q.1, q.2)

/-- A trace record's words (R495). -/
def traceRec (c : Chip) (ev sub : Nat) (poison : Bool) (cmdId layer oper kind idx : Nat) (a0 a1 : W64) : TRec :=
  ⟨mkWord [(16, 48, c.now), (8, 8, ev), (4, 4, sub), (3, 1, b2n poison), (0, 3, c.tide.phase.toNat)],
   mkWord [(48, 16, cmdId), (32, 16, layer), (16, 16, oper), (12, 4, kind), (0, 12, idx)], a0, a1⟩

/-- Hand a record to the pan's buffers, counting a loss and setting PAN_STATUS.LOSS at the first (R500); whether this
was the first loss since arming. -/
def Chip.traceRaw (c : Chip) (kind idx : Nat) (r : TRec) : Chip × Bool :=
  let q := panPush (kind * 4096 + idx) r c.tide.count c.pan.bufs
  if q.2 then
    ({ c with pan := { c.pan with bufs := q.1, lostCnt := c.pan.lostCnt + 1, lostCap := c.pan.lostCap + 1, loss := c.pan.loss || decide (c.pan.lostCap = 0) } },
     decide (c.pan.lostCap = 0))
  else ({ c with pan := { c.pan with bufs := q.1 } }, false)

/-- Whether an event is traced: its source or kind 8 is selected (R497). -/
def Chip.evTraced (c : Chip) (e : Ev) : Bool :=
  c.pan.live && (c.pan.selKind 8 || (e.kind == 1 && c.pan.selTile e.id.toNat &&
    (c.pan.selKind 0 || c.pan.selKind 1 || c.pan.selKind 2 || c.pan.selKind 3)) ||
    (e.kind == 2 && c.pan.selKind 4) || (e.kind == 3 && (c.pan.selKind 5 || c.pan.selKind 6)))

/-- PAN_LOSS for a first loss (R500, R518); its own record is not traced again. -/
def Chip.panLoss (c : Chip) (first : Bool) (kind idx : Nat) : Chip :=
  if first then
    c.raiseTo 0 { code := 0x0903, kind := 0, id := 0, stamp := c.tide.count, d0 := c.tide.count,
                  d1 := mkWord [(12, 4, kind), (0, 12, idx)] }
  else c

/-- Raise an event to a context's ring and MGMT (R456) and trace it (R497). -/
def Chip.raise (c : Chip) (tgt : Nat) (code : W16) (kind : BitVec 4) (id : Nat) (d0 d1 : W64) : Chip :=
  let e : Ev := { code := code, kind := kind, id := BitVec.ofNat 12 id, stamp := c.tide.count, d0 := d0, d1 := d1 }
  let c := c.raiseTo tgt e
  if c.evTraced e then
    let q := c.traceRaw 8 e.id.toNat (traceRec c 8 0 false 0 0 0 8 e.id.toNat (BitVec.ofNat 64 code.toNat) d0)
    q.1.panLoss q.2 8 e.id.toNat
  else c

/-- A record of a tile's engine of kind 0 to 3: only for a selected tile (R498). -/
def Chip.traceTile (c : Chip) (kind t ev sub : Nat) (poison : Bool) (w0 w1 : W64) (a0 a1 : W64) : Chip :=
  if c.pan.live && c.pan.selKind kind && c.pan.selTile t then
    let q := c.traceRaw kind t (traceRec c ev sub poison (fld w0 47 32) (fld w1 31 16) (fld w1 15 0) kind t a0 a1)
    q.1.panLoss q.2 kind t
  else c

/-- A record of another engine (kinds 4 to 8) that carries a command's id, layer and operator. -/
def Chip.traceCmd (c : Chip) (kind idx ev sub id layer oper : Nat) (a0 a1 : W64) : Chip :=
  if c.pan.live && c.pan.selKind kind then
    let q := c.traceRaw kind idx (traceRec c ev sub false id layer oper kind idx a0 a1)
    q.1.panLoss q.2 kind idx
  else c

/-- A record of another engine that carries none. -/
def Chip.traceUnit (c : Chip) (kind idx ev sub : Nat) (a0 a1 : W64) : Chip := c.traceCmd kind idx ev sub 0 0 0 a0 a1

/-- The context of the active or last run (R456, R490). -/
def Chip.lastRunCtx (c : Chip) : Nat := match c.runs with | r :: _ => r.ctx | [] => 0

/-- An event of a tile. -/
def Chip.evTile (c : Chip) (t : Nat) (code : W16) (d0 d1 : W64) : Chip := c.raise c.lastRunCtx code 1 t d0 d1
/-- An event of the module. -/
def Chip.evMod (c : Chip) (code : W16) (d0 d1 : W64) : Chip := c.raise 0 code 0 0 d0 d1
/-- An event of the module that belongs to the active run. -/
def Chip.evRun (c : Chip) (code : W16) (d0 d1 : W64) : Chip := c.raise c.lastRunCtx code 0 0 d0 d1
/-- An event of a strait. -/
def Chip.evStr (c : Chip) (s : Strait) (code : W16) (d0 d1 : W64) : Chip := c.raise 0 code 3 (straitNum s) d0 d1
/-- An event of a channel. -/
def Chip.evChan (c : Chip) (ch : Nat) (code : W16) (d0 d1 : W64) : Chip := c.raise 0 code 2 ch d0 d1

/-! ### Launch marks -/

/-- A run's shift: TIDE_SHIFT, which starts at 0 at its base mark. -/
def Chip.shiftOf (c : Chip) (r : Run) : W64 := if r.baseSeen then c.tide.shift else 0

/-- The launch mark of an offset at this position (R58): B + L + p × s + shift, as a 64-bit count. -/
def Chip.mark (c : Chip) (off : Nat) : Nat :=
  match c.run with
  | none => 0
  | some r => (r.base + BitVec.ofNat 64 (off + c.tide.position.toNat * c.tide.stagger.toNat) + c.shiftOf r).toNat

/-- The unstaggered mark B + offset + shift (R79). -/
def Chip.markU (c : Chip) (off : Nat) : Nat :=
  match c.run with
  | none => 0
  | some r => (r.base + BitVec.ofNat 64 off + c.shiftOf r).toNat

/-- Whether a launch mark is held by a cut (R81): at or after S + p × s, until resume. -/
def Chip.cutHolds (c : Chip) (m : Nat) : Bool :=
  match c.slack.cut with
  | none => false
  | some s => decide ((s + BitVec.ofNat 64 (c.tide.position.toNat * c.tide.stagger.toNat)).toNat ≤ m)

/-! ### Straits: queueing a transaction -/

/-- A transaction header's first word (R399). -/
def txnHead (ty pver flags len : Nat) : W64 := mkWord [(56, 8, ty), (48, 8, pver), (40, 8, flags), (0, 32, len)]

/-- Put a VC-M transaction into a strait's egress (R395). -/
def Chip.sendM (c : Chip) (s : Strait) (bytes : List Byte) : Chip :=
  c.updStr s (fun x => { x with egrM := x.egrM ++ [⟨⟨bytes, []⟩, none, .plain, 0, c.nowAc⟩] })

/-- A SLACK transaction's bytes (R409). -/
def slackBytes (pver kind : Nat) (s t : W64) (origin : BitVec 6) (cause ring : Nat) : List Byte :=
  wordsBytes [txnHead 8 pver kind 0, s, t, mkWord [(58, 6, origin.toNat), (56, 2, cause), (52, 4, ring)]]

/-- The code of a slack's cause (R409). -/
def SlackCause.code : SlackCause → Nat
  | .cmd => 0 | .pin => 1 | .forced => 2

/-- This module's ring number, by the plan in force (0 with none). -/
def Chip.ringNo (c : Chip) : BitVec 4 := match c.ring.inForce with | some p => p.ring | none => 0

/-- Send a SLACK transaction on a main strait that is up, or that retrains and keeps it in its egress meanwhile (R384). -/
def Chip.sendSlack (c : Chip) (st : Strait) (kind : Nat) (s t : W64) (origin : BitVec 6) (cause : Nat) : Chip :=
  if (c.str st).train == .up || (c.str st).train == .retrain then
    c.sendM st (slackBytes (c.str st).pver.toNat kind s t origin cause c.ringNo.toNat)
  else c

/-- The cut mark the tide master chooses for a request registered at t (R79): the unstaggered mark of the first step
boundary at or after t + LEAD, else the run's end, else, with no run, t + LEAD. -/
def Chip.chooseCut (c : Chip) (t : W64) : W64 :=
  let need := t.toNat + c.tide.lead.toNat
  match c.run with
  | none => BitVec.ofNat 64 need
  | some r =>
    match (r.steps.map c.markU).find? (fun m => decide (need ≤ m)) with
    | some m => BitVec.ofNat 64 m
    | none => BitVec.ofNat 64 (c.markU r.endOff)

/-- Answer the ring.slack requests that wait for the cut mark (R78, R441). -/
def Chip.answerSlack (c : Chip) (s : W64) : Chip :=
  c.keeper.bgs.foldl (fun c b => match b.kind with
    | .slack t => c.endBg b stOk (wordsBytes [s, t]) 0xFFFF 0
    | _ => c) c

/-- Apply a cut at this member (R81, R409): record S once, answer ring.slack, and enter the cut phase of a recovery if the slack is forced
while a run is active (R472, R480). -/
def Chip.applyCut (c : Chip) (s : W64) (origin : BitVec 6) (forced : Bool) : Chip :=
  if c.slack.seen.contains s then c
  else
    let c := { c with slack := { c.slack with cut := some s, origin := origin, forced := forced || c.slack.forced, seen := s :: c.slack.seen } }
    let c := c.answerSlack s
    if c.slack.forced && c.run.isSome && c.recov.phase == .none then
      { c with recov := { c.recov with phase := .cut } }
    else c

/-- The t_req of the first forced request of a slack (R472); a member that has detected nothing itself counts from it. -/
def Chip.noteReq (c : Chip) (t : W64) (cause : SlackCause) : Chip :=
  let own : Bool := match c.slack.req with | some r => r.2 == .forced | none => false
  if cause == .forced && !c.slack.forced && c.recov.phase == .none then
    { c with recov := { c.recov with tReq := t.toNat, detect := if own then c.recov.detect else t.toNat } }
  else c

/-- The tide master takes a request (R78, R82): it joins a slack whose cut is chosen and not yet resumed, and else it is one of those
that have reached the master in this tick. -/
def Chip.masterTakes (c : Chip) (t : W64) (origin : BitVec 6) (cause : SlackCause) : Chip :=
  let c := c.noteReq t cause
  if c.slack.cut.isSome then
    { c with slack := { c.slack with forced := c.slack.forced || (cause == .forced && !c.slack.atSlack),
                                     sched := c.slack.sched || (cause != .forced && !c.slack.atSlack) } }
  else { c with slack := { c.slack with reqs := c.slack.reqs ++ [(t, origin, cause)] } }

/-- Of the requests that have reached the tide master in a tick, the one that registered earliest (R82), the first of several. -/
def firstRequest : List (W64 × BitVec 6 × SlackCause) → Option (W64 × BitVec 6 × SlackCause)
  | [] => none
  | r :: rs => match firstRequest rs with
    | none => some r
    | some q => some (if q.1.toNat < r.1.toNat then q else r)

/-- At the end of a tick the tide master chooses one S for all the requests that reached it, which satisfies the earliest of them (R79,
R82), and sends the CUT both ways. The slack is forced if any of them is, and then names that one's member and cause (R409, R478). -/
def Chip.chooseSlack (c : Chip) : Chip :=
  match firstRequest c.slack.reqs with
  | none => c
  | some r =>
    let rs := c.slack.reqs
    let q := (rs.find? (fun q => q.2.2 == .forced)).getD r
    let s := c.chooseCut r.1
    let c := { c with slack := { c.slack with reqs := [] } }
    let c := c.sendSlack .e 1 s r.1 q.2.1 q.2.2.code
    let c := c.sendSlack .w 1 s r.1 q.2.1 q.2.2.code
    let c := c.applyCut s q.2.1 (q.2.2 == .forced)
    { c with slack := { c.slack with sched := c.slack.sched || rs.any (fun q => q.2.2 != .forced) } }

/-- The main strait toward the tide master (R41, R409): the primary source. -/
def Chip.towardMaster (c : Chip) : Option Strait :=
  if c.tide.refPri == 2 then some .e else if c.tide.refPri == 3 then some .w else none

/-- Register a slack request here (R78): the tide master takes it, another member sends it on its primary source strait. A
request while the ring is already at slack has no effect (R82). -/
def Chip.requestSlack (c : Chip) (cause : SlackCause) : Chip :=
  if c.slack.atSlack then c
  else
    let t := c.tide.count
    let c := { c with slack := { c.slack with req := some (t, cause) } }
    if c.tide.master then c.masterTakes t c.tide.position cause
    else match c.towardMaster with
      | some st => c.sendSlack st 0 0 t c.tide.position cause.code
      | none => c

/-- Whether a forced request is registered here whose cut is not known yet. -/
def Chip.forcedReq (c : Chip) : Bool := (match c.slack.req with | some r => r.2 == .forced | none => false) && c.slack.cut.isNone

/-- A fault of a triggering class is detected (R461, R462): with a run active, the detecting unit registers a forced slack
request; the first detection sets CLASS and the time that R472 counts from, a later one before the cut is known only asks again, and one
during a recovery joins it (R478). The first class is kept for this member's report, and an excluded place or a damaged shard too (R474). -/
def Chip.detect (c : Chip) (cls : Byte) (excluded : Bool) : Chip :=
  match c.run with
  | none => c
  | some _ =>
    let rec_ := c.recov
    let c := { c with recov := { rec_ with excluded := rec_.excluded || excluded || cls == 0x0A, mine := if rec_.mine = 0 then cls else rec_.mine } }
    if c.recov.phase == .none && !(c.slack.forced && c.slack.cut.isSome) then
      let c := if c.forcedReq then c else { c with recov := { c.recov with cls := cls, detect := c.now, tReq := c.now } }
      c.requestSlack .forced
    else c

/-! ### Freezing -/

/-- Ask the Keeper for a harvest of a master (R454, R514). -/
def Chip.askHarvest (c : Chip) (kind : BitVec 3) (id : Nat) (cause : Byte) : Chip :=
  { c with harvQ := c.harvQ ++ [⟨kind, BitVec.ofNat 12 id, cause⟩] }

/-- What a stop leaves of a tile's arrays (R126): the vectors that have entered by an ac run on, the others never enter. -/
def Tile.stopFeeds (t : Tile) (now : Nat) : Tile :=
  let f (x : Arr) : Arr := { x with queue := x.queue.map (fun m => { m with feeds := m.feeds.filter (fun y => decide (y.at_ < now)) }) }
  { t with a0 := f t.a0, a1 := f t.a1, a2 := f t.a2, a3 := f t.a3 }

/-- A tile's state when it freezes (R126, R262): cause and command recorded, pending transfers discarded, no further vector enters its
arrays, the stop stamp latched (R517). -/
def Tile.freeze (t : Tile) (cause : Byte) (id : W16) (op : Byte) (desc : Bool) (stopAc : Nat) : Tile :=
  let t := t.stopFeeds stopAc
  { t with st := .frozen, faultId := id, faultOp := op, faultCause := cause, descErr := t.descErr || desc,
           streams := t.streams.map (fun e => (e.1, { e.2 with waiting := none })),
           stop := some stopAc }

/-- Freeze a tile (R126): nothing more happens to a tile that is already frozen. -/
def Chip.freezeTile (c : Chip) (t : Nat) (cause : Byte) (id : W16) (op : Byte) (desc : Bool) : Chip :=
  if (c.tile t).st == .frozen then c
  else (c.updTile t (fun x => x.freeze cause id op desc c.nowAc)).askHarvest 0 t cause

/-- A violation by a tile (R126, R338): VIOLATION with its cause, opcode and command id (R576), and the freeze. -/
def Chip.tileViolation (c : Chip) (t : Nat) (cause : Byte) (id : W16) (op : Byte) (addr : Nat) : Chip :=
  if (c.tile t).st == .frozen then c
  else
    (c.freezeTile t cause id op true).evTile t 0x0201
      (mkWord [(56, 8, cause.toNat), (48, 8, op.toNat), (32, 16, id.toNat)]) (BitVec.ofNat 64 addr)

/-- A unit beside the tiles latches its stop stamp (R517). -/
def Chip.latchStop (c : Chip) (kind idx : Nat) : Chip :=
  { c with recov := { c.recov with stops := tblInsert c.recov.stops (kind * 4096 + idx) c.nowAc } }

/-- A violation by a host context (R338, R341, R444): it is frozen. -/
def Chip.ctxViolation (c : Chip) (n : Nat) (cause : Byte) (addr : Nat) : Chip :=
  if (c.ctx n).frozen then c
  else
    let c := ((c.updCtx n (fun x => { x with frozen := true, fcause := cause })).latchStop 6 n).askHarvest 1 n cause
    c.raise n 0x0201 5 n (mkWord [(56, 8, cause.toNat)]) (BitVec.ofNat 64 addr)

/-- A violation by a tray peer (R352): the ingress from its slot is frozen. -/
def Chip.trayViolation (c : Chip) (slot : SlotId) (addr : Nat) : Chip :=
  if c.tray.frozen.getLsbD slot.toNat then c
  else
    let c := { c with tray := { c.tray with frozen := c.tray.frozen ||| (1#16 <<< slot.toNat),
                                            offend := tblPut 0 c.tray.offend slot.toNat addr } }
    ((c.latchStop 7 slot.toNat).askHarvest 3 slot.toNat 1).raise 0 0x0201 6 slot.toNat (mkWord [(56, 8, 1)]) (BitVec.ofNat 64 addr)

/-- Freeze a strait (R421): cause and TYPE recorded, VIOLATION raised, a harvest asked for, and for a main strait with a
run active a forced slack, class 0x0B (R461). A frozen strait stays as it is. -/
def Chip.freezeStr (c : Chip) (s : Strait) (cause ty : Byte) (addr : Nat) : Chip :=
  if (c.str s).frozen then c
  else
    let c := c.updStr s (fun x => { x with frozen := true, faultCause := cause, faultType := ty })
    let c := ((c.latchStop 3 (straitNum s)).askHarvest 2 (straitNum s) cause).evStr s 0x0201
      (mkWord [(56, 8, cause.toNat), (48, 8, ty.toNat)]) (BitVec.ofNat 64 addr)
    if straitMain s then c.detect 0x0B false else c

/-! ### Sync objects (R354 to R359) -/

/-- The table of R355: the object's new count, or none for a violation. -/
def syncNext (mode : BitVec 2) (n : W32) : SyncUpd → Option W32
  | .count b p =>
    if mode = 1 then some (n + BitVec.ofNat 32 b) else if mode = 2 then some (n + BitVec.ofNat 32 p) else none
  | .add v => if mode = 0 then some (n + v) else if mode = 3 then some (n + 1) else none
  | .set v => if mode = 0 then some v else none

/-- The places of an update's source in the order of R359: the object's own tile, other tiles, channel engines, egress completions, straits,
then tray peers and the host. -/
def rankTile (issuer t : Nat) : Nat := if issuer = t then 0 else 1 + issuer
def rankEngine (ch : Nat) : Nat := 4097 + ch
def rankEgress : Nat := 4161
def rankStrait (s : Strait) : Nat := 4162 + straitNum s
def rankOuter : Nat := 4166

/-- Put an update into the order of R359, behind those of its place that came before it. -/
def rankInsert (u : SyncArr) : List SyncArr → List SyncArr
  | [] => [u]
  | v :: r => if u.rank < v.rank then u :: v :: r else v :: rankInsert u r

/-- An object after an update that reaches it in an ac: all of that ac, in the order of R359, are applied to what it held before. -/
def Sync.take (x : Sync) (ac : Nat) (u : SyncArr) : Sync :=
  let x := if x.at_ = ac then x else { x with at_ := ac, was := x.count, wasScope := x.scope, wasPath := x.path, ups := [] }
  let ups := rankInsert u x.ups
  let last := ups.getLast?.getD u
  { x with count := ups.foldl (fun n v => (syncNext x.mode n v.upd).getD n) x.was, scope := last.scope, path := last.path, ups := ups }

/-- Apply an update to an object of a tile, remembering its scope and its path's smallest scope (R355, R359, R375); none
where R355 calls it a violation. -/
def Chip.syncApply (c : Chip) (rank t o : Nat) (u : SyncUpd) (scope path : BitVec 3) : Option Chip :=
  let x := (c.tile t).sync o
  match syncNext x.mode x.count u with
  | none => none
  | some _ => some (c.updTile t (fun y => y.setSync o (x.take c.nowAc ⟨rank, u, scope, path⟩)))

/-- Whether a run is active on a tile (R341, R354). -/
def Chip.runsOn (c : Chip) (t : Nat) : Bool :=
  match c.run with
  | some r => r.tiles.contains t
  | none => false

/-- The smallest scope of the path between two tiles of this module (R362). -/
def pathScope (a b : Nat) : BitVec 3 := if a = b then 0 else 1

/-- An update made for a tile of this module (R355): a violation freezes that tile with cause 0x0A, and so does an update of a tile with no
active run (R354). -/
def Chip.syncBy (c : Chip) (rank issuer : Nat) (id : W16) (op : Byte) (t o : Nat) (u : SyncUpd) (scope path : BitVec 3) : Chip :=
  let r := if c.runsOn t then c.syncApply rank t o u scope path else none
  match r with
  | some c => c
  | none => c.tileViolation issuer 0x0A id op 0

/-- An update that a tile of this module sends itself. -/
def Chip.syncLocal (c : Chip) (issuer : Nat) (id : W16) (op : Byte) (t o : Nat) (u : SyncUpd) (scope : BitVec 3) : Chip :=
  c.syncBy (rankTile issuer t) issuer id op t o u scope (pathScope issuer t)

/-- A completion count of a tile's own command on its own object, if it names one (R253, R356). -/
def Chip.doneSync (c : Chip) (t : Nat) (id : W16) (op : Byte) (o bytes pkts : Nat) : Chip :=
  if o = 63 then c else c.syncLocal t id op t o (.count bytes pkts) 0

/-- A count on an object of another tile of this module, if it names one. -/
def Chip.dstSync (c : Chip) (t : Nat) (id : W16) (op : Byte) (tgt o bytes pkts : Nat) : Chip :=
  if o = 63 then c else c.syncLocal t id op tgt o (.count bytes pkts) (pathScope t tgt)

/-- Whether an object has reached a target, modulo 2³² (R357). -/
def reached (n t : W32) : Bool := decide ((n - t).toNat < 2 ^ 31)

end Sys2Proof.Machine
end

