-- ==== Sys2Proof/Machine/Tide.lean ====
section
/-! DEFINITION. Tide time: the root PLL's sources, holdover and the TIME exchange of each hop (R33 to R57, R408, R505). -/
namespace Sys2Proof.Machine

/-- Whether the source of a code can be locked to (R34: codes 0 to 5 name sources). -/
def Tide.valid (t : Tide) (src : BitVec 3) : Bool := decide (src.toNat < 6) && t.srcOk.getLsbD src.toNat

/-- The source the PLL locks to: the primary if valid, else the secondary, else none (R36). -/
def Tide.pick (t : Tide) : Option (BitVec 3) :=
  if t.valid t.refPri then some t.refPri else if t.valid t.refSec then some t.refSec else none

/-- The PLL locks (R35, R56): LOCKING is left for FREE, and FREE at once for MEASURING where a formation has decided to measure. -/
def pllLock (c : Chip) : Chip :=
  match c.tide.pick with
  | some s => Chip.when (c.tide.st == .locking)
      (fun c => { c with tide := { c.tide with pllLock := true, refActive := s, st := if c.ring.form == .measure then .measuring else .free } }) c
  | none => c
/-- PLL_LOCK. -/
def execPllLock (s : State) : Host.Outcome State Fault Refusal := onChip pllLock s

/-- A source becomes invalid (R36, R56): if it was the locked one, the other source takes over, or holdover begins; either
way REF_LOSS is set and raised with both sources in its DETAIL (R576). -/
def refSourceInvalid (src : BitVec 3) (c : Chip) : Chip :=
  let ok := c.tide.srcOk &&& ~~~(BitVec.ofNat 6 (2 ^ src.toNat))
  let t := { c.tide with srcOk := ok }
  if c.tide.pllLock && c.tide.refActive == src then
    let now := (t.pick).getD 7
    let c := { c with tide := { t with refActive := now, refLoss := true,
                                       st := if now = 7 ∧ t.st = TState.aligned then .holdover else t.st,
                                       holdSince := if now = 7 ∧ t.st = TState.aligned then c.up else t.holdSince } }
    c.evMod 0x0101 (mkWord [(61, 3, src.toNat), (58, 3, now.toNat)]) 0
  else { c with tide := t }
/-- REF_SOURCE_INVALID. -/
def execRefSourceInvalid (src : BitVec 3) (s : State) : Host.Outcome State Fault Refusal := onChip (refSourceInvalid src) s

/-- Whether a source can become valid: that of a strait only while the strait's receiver can hold lock, which it gains in ALIGN and loses
with the strait (R35; DEDUCED, log 84). -/
def Chip.lockable (c : Chip) (src : BitVec 3) : Bool :=
  decide (src.toNat < 2) || (decide (src.toNat < 6) &&
    (let t := (c.str (straitOf (src.toNat - 2))).train; t == .identify || t == .up || t == .retrain))

/-- A strait's receiver loses lock: the clock recovered from it is no valid source any more (R35). -/
def Chip.lockLost (c : Chip) (s : Strait) : Chip := refSourceInvalid (BitVec.ofNat 3 (2 + straitNum s)) c

/-- A source becomes valid (R37): a module in holdover leaves it, without a phase step, for the source chosen under R36. A
module that runs on its secondary source stays on it (DEDUCED, log 6). -/
def refSourceValid (src : BitVec 3) (c : Chip) : Chip :=
  let t := { c.tide with srcOk := if c.lockable src then c.tide.srcOk ||| BitVec.ofNat 6 (2 ^ src.toNat) else c.tide.srcOk }
  if t.pllLock && t.refActive == 7 then
    match t.pick with
    | some s => { c with tide := { t with refActive := s, st := if t.st = TState.holdover then .aligned else t.st } }
    | none => { c with tide := t }
  else { c with tide := t }
/-- REF_SOURCE_VALID. -/
def execRefSourceValid (src : BitVec 3) (s : State) : Host.Outcome State Fault Refusal := onChip (refSourceValid src) s

/-- A forced slack request of R55 or R427: a recovery of its class while a run is active, and a slack of the ring at any
time. -/
def Chip.forceSlack (c : Chip) (cls : Byte) : Chip :=
  if c.run.isSome then c.detect cls false else c.requestSlack .forced

/-- The time base enters LOST (R55): cause 1 is a residual above 4 ns, cause 2 a holdover of 20 ms. -/
def Chip.tideLost (c : Chip) (cause : Nat) (residual : W64) : Chip :=
  let c := { c with tide := { c.tide with st := .lost, alignLost := true } }
  let c := c.evMod 0x0103 residual (mkWord [(56, 8, cause), (50, 6, c.tide.hops.toNat)])
  c.forceSlack 0x08

/-- Ticks of a millisecond count at 117.5 MHz. -/
def msTk (n : Nat) : Nat := 117500 * n

/-- Holdover reaches 20 ms (R55, R56). -/
def holdoverTimeout (c : Chip) : Chip :=
  Chip.when (c.tide.st == .holdover && decide (c.tide.holdSince + msTk 20 ≤ c.up)) (fun c => c.tideLost 2 0) c
/-- HOLDOVER_TIMEOUT. -/
def execHoldoverTimeout (s : State) : Host.Outcome State Fault Refusal := onChip holdoverTimeout s

/-! ### The TIME exchange -/

/-- A stamp: the tide count × 512 + fraction, modulo 2⁶⁴ (R408). -/
def Chip.stamp (c : Chip) (frac : BitVec 9) : W64 := BitVec.ofNat 64 (c.now * 512 + frac.toNat)

/-- A TIME transaction's bytes (R408). -/
def timeBytes (pver : Nat) (reply : Bool) (seq : W16) (t1 t2 t3 : W64) : List Byte :=
  wordsBytes [txnHead 7 pver (b2n reply) 8, mkWord [(48, 16, seq.toNat)], t1, t2, t3]

/-- Whether the ring in force has hops: one module alone makes no TIME exchange on a main strait (R47). -/
def Chip.hasHops (c : Chip) : Bool := match c.ring.inForce with | some p => decide (2 ≤ p.n) | none => false

/-- Whether a strait takes part in TIME exchanges now: a cross strait whenever it is up (R505), a main strait while the
member of a ring of two or more measures, is aligned, in holdover or lost (R47, R53, R475). -/
def Chip.hopRuns (c : Chip) (st : Strait) : Bool :=
  (c.str st).train == .up && (!straitMain st || (c.hasHops && (c.tide.st == .measuring || c.tide.st == .aligned ||
    c.tide.st == .holdover || c.tide.st == .lost)))

/-- Start an exchange on a hop (R48, R53): while measuring as soon as the last one is over, otherwise every 65,536 tk. -/
def timeExchangeTimer (st : Strait) (c : Chip) : Chip :=
  let x := c.tide.xch.get st
  Chip.when (c.hopRuns st && (decide (x.due ≤ c.up) || (c.tide.st == .measuring && !x.waiting)))
    (fun c =>
      let x := { x with seq := x.seq + 1, waiting := true, due := c.up + 65536 }
      let c := { c with tide := { c.tide with xch := c.tide.xch.set st x } }
      c.sendM st (timeBytes (c.str st).pver.toNat false x.seq 0 0 0)) c
/-- TIME_EXCHANGE_TIMER. -/
def execTimeExchangeTimer (st : Strait) (s : State) : Host.Outcome State Fault Refusal := onChip (timeExchangeTimer st) s

/-- Half of an integer, or its share of 2n, rounded to the nearest with halves up (R48; DEDUCED from the example, log 7). -/
def halfOf (x : Int) (n : Nat) : Int := (x + n) / (2 * n : Nat)

/-- What a reply's four stamps give (R48): the far end's offset and the one-way delay, each times 2, signed. -/
def exchange2 (t1 t2 t3 t4 : W64) : Int × Int :=
  let a := signed 64 (t2 - t1).toNat
  let b := signed 64 (t4 - t3).toNat
  (a - b, a + b)

/-- Whether twice the offset moved by more than 0.1 ppm of the time in which it moved (R42; DEDUCED, log 82). -/
def freqExceeds (d2 : Int) (span : W64) : Bool := decide (span.toNat < d2.natAbs * 5_000_000)

/-- Add an exchange, made at t1, to a hop's sums, up to 64 (R48), and after the 64th store the mean delay and judge the frequency
difference (R42). -/
def Chip.addExchange (c : Chip) (st : Strait) (t1 : W64) (o2 d2 : Int) : Chip :=
  let x := c.tide.xch.get st
  if x.n < 64 then
    let o0 := if x.n = 0 then o2 else x.off0
    let t10 := if x.n = 0 then t1 else x.t10
    let y := { x with waiting := false, n := x.n + 1, sumOff := x.sumOff + o2, sumDel := x.sumDel + d2, lastOff := halfOf o2 1, off0 := o0,
                      t10 := t10, freqBad := decide (x.n = 63) && freqExceeds (o2 - o0) (t1 - t10) }
    let t := { c.tide with xch := c.tide.xch.set st y }
    { c with tide := if y.n = 64 then
        { t with hop := t.hop.set st ⟨true, BitVec.ofNat 32 (intBits 32 (halfOf y.sumDel 64))⟩ } else t }
  else { c with tide := { c.tide with xch := c.tide.xch.set st { x with waiting := false, lastOff := halfOf o2 1 } } }

/-- The mean of the 64 offsets of a hop: the far end's offset from this module (R48). -/
def HopX.meanOff (x : HopX) : Int := halfOf x.sumOff 64

/-- A residual above 2 ns (120 fractions) sets and raises ALIGN_DRIFT (R55). -/
def Chip.drift (c : Chip) (r : Int) : Chip :=
  if 120 < r.natAbs then
    ({ c with tide := { c.tide with alignDrift := true } }).evMod 0x0102 (BitVec.ofNat 64 (intBits 64 r)) (mkWord [(50, 6, c.tide.hops.toNat)])
  else c

/-- Track the residual of the hop toward the tide master (R53, R55): RESIDUAL is this module's offset from the far end; above
2 ns ALIGN_DRIFT, and above 4 ns (240 fractions) LOST as well. The slewing itself moves no state of this model. -/
def Chip.track (c : Chip) (st : Strait) : Chip :=
  if c.towardMaster = some st ∧ (c.tide.st = .aligned ∨ c.tide.st = .holdover) ∧ c.tide.master = false then
    let r := -(c.tide.xch.get st).lastOff
    let c := { c with tide := { c.tide with residual := BitVec.ofNat 32 (intBits 32 r) } }
    let c := c.drift r
    if 240 < r.natAbs then c.tideLost 1 (BitVec.ofNat 64 (intBits 64 r)) else c
  else c

/-- A cross strait's exchange gives the far ring's offset, stored in PAN_XOFF0 or PAN_XOFF1, with an XSYNC record (R497, R505). -/
def Chip.xsync (c : Chip) (st : Strait) : Chip :=
  if straitMain st then c
  else
    let w := BitVec.ofNat 64 (intBits 64 (c.tide.xch.get st).lastOff)
    let c := { c with pan := if st = Strait.x0 then { c.pan with xoff0 := w } else { c.pan with xoff1 := w } }
    c.traceUnit 8 0 0x09 0 (BitVec.ofNat 64 (straitNum st)) w

end Sys2Proof.Machine
end

