-- ==== Sys2Proof/Machine/Link.lean ====
section
/-! DEFINITION. A strait's link layer (R378 to R400): its training states, widths, going down, retraining, its flits and its
transaction buffers. -/
namespace Sys2Proof.Machine

/-! ### Transactions (R395, R399, R400) -/

/-- TYPE of a transaction. -/
def txnType (bs : List Byte) : Nat := fld (wordAt bs 0) 63 56
/-- TFLAGS. -/
def txnFlags (bs : List Byte) : Nat := fld (wordAt bs 0) 47 40
/-- LENGTH. -/
def txnLen (bs : List Byte) : Nat := fld (wordAt bs 0) 31 0
/-- PVER. -/
def txnPver (bs : List Byte) : Nat := fld (wordAt bs 0) 55 48

/-- The virtual channel of a transaction's type, none for a reserved one (R395, R399, R404). -/
def txnVc (bs : List Byte) : Option (BitVec 2) :=
  let ty := txnType bs
  if ty = 1 then some 0 else if ty = 2 then some 1
  else if ty = 3 then some (if txnFlags bs % 2 = 1 then 1 else 2)
  else if ty = 4 then some 2 else if 5 ≤ ty ∧ ty ≤ 8 then some 3 else none

/-- TFLAGS bits that a type defines (R401 to R410). -/
def txnFlagMask (ty : Nat) : Nat :=
  if ty = 1 then 1 else if ty = 2 then 7 else if ty = 3 then 3 else if ty = 4 then 3 else if ty = 7 then 1
  else if ty = 8 then 3 else 0

/-- The general part of R400: TYPE, VC, PVER, word 0's reserved bits, and the flits against LENGTH. -/
def txnHeadOk (pver : Nat) (vc : BitVec 2) (x : RxTxn) : Bool :=
  let bs := x.txn.bytes
  x.good && decide (32 ≤ bs.length) && decide (txnVc bs = some vc) && decide (fld (wordAt bs 0) 39 32 = 0) &&
  decide (txnFlags bs &&& txnFlagMask (txnType bs) = txnFlags bs) &&
  decide (txnPver bs = if txnType bs = 5 ∨ txnType bs = 6 then 0 else pver) &&
  decide (bs.length = 32 + txnLen bs) && decide (x.flits = cdiv bs.length 240)

/-- The reserved fields and length rules of each type (R401 to R410). A reserved code of KIND, SCOPE or CAUSE, which has no
meaning, is malformed too (DEDUCED, log 9). -/
def txnBodyOk (bs : List Byte) : Bool :=
  let ty := txnType bs
  let w1 := wordAt bs 8
  let w2 := wordAt bs 16
  let w3 := wordAt bs 24
  let len := txnLen bs
  if ty = 1 then decide (64 ≤ len) && decide (len ≤ 65536) && decide (len % 64 = 0) && decide (fld w1 3 0 = 0) &&
    decide (fld w2 63 30 = 0) && decide (fld w2 11 0 = 0) && decide (w3 = 0)
  else if ty = 2 then
    let a := fld w1 47 0
    let cm := fld w1 59 58
    let fl := txnFlags bs
    decide (fl < 8) && decide (fld w1 57 48 = 0) && decide (fld w2 35 30 = 0) && decide (fld w2 11 0 = 0) &&
    decide (fld w3 47 32 = 0) && decide (a % 32 = 0) &&
    (if cm = 0 then decide (32 ≤ len) && decide (len ≤ 4096) && decide (len % 32 = 0) && decide (a % 4096 + len ≤ 4096)
     else decide (len = 2112) || decide (len = 3136))
  else if ty = 3 then
    decide (fld w2 63 13 = 0) && decide (w3 = 0) && decide (fld w1 47 0 % 8 = 0) &&
    (let sz := fld w2 12 0
     decide (8 ≤ sz) && decide (sz ≤ 4096) && decide (sz % 8 = 0) && decide (fld w1 47 0 % 4096 + sz ≤ 4096) &&
     decide (len = if txnFlags bs % 2 = 1 then sz else 0))
  else if ty = 4 then
    let k := txnFlags bs
    decide (len = 0) && decide (k < 3) && decide (fld w1 32 6 = 0) && decide (fld w2 63 32 = 0) && decide (w3 = 0) &&
    (decide (k = 2) || decide (fld w1 35 33 < 5))
  else if ty = 5 then
    decide (len = 0) && decide (fld w1 63 57 = 0) && decide (fld w1 47 40 = 0) && decide (fld w1 31 22 = 0) &&
    decide (fld w1 15 6 = 0) && decide (w2 = 0) && decide (w3 = 0)
  else if ty = 6 then
    decide (len = 32) && !bit w2 0 && decide (fld w3 27 0 = 0) &&
    (List.range 4).all (fun i => decide (wordAt bs (32 + 8 * i) = 0))
  else if ty = 7 then
    decide (len = 8) && decide (fld w1 47 0 = 0)
  else if ty = 8 then
    decide (len = 0) && decide (txnFlags bs < 2) && decide (fld w3 57 56 < 3) && decide (fld w3 51 0 = 0)
  else false

/-! ### Receive and egress buffers -/

/-- A receive buffer. -/
def Str.rx (x : Str) (vc : BitVec 2) : List RxTxn :=
  if vc = 0 then x.rxF else if vc = 1 then x.rxW else if vc = 2 then x.rxC else x.rxM
/-- Replace a receive buffer. -/
def Str.setRx (x : Str) (vc : BitVec 2) (q : List RxTxn) : Str :=
  if vc = 0 then { x with rxF := q } else if vc = 1 then { x with rxW := q } else if vc = 2 then { x with rxC := q }
  else { x with rxM := q }
/-- An egress queue. -/
def Str.egr (x : Str) (vc : BitVec 2) : List TxTxn :=
  if vc = 0 then x.egrF else if vc = 1 then x.egrW else if vc = 2 then x.egrC else x.egrM
/-- Replace an egress queue. -/
def Str.setEgr (x : Str) (vc : BitVec 2) (q : List TxTxn) : Str :=
  if vc = 0 then { x with egrF := q } else if vc = 1 then { x with egrW := q } else if vc = 2 then { x with egrC := q }
  else { x with egrM := q }
/-- Put a transaction into an egress queue. -/
def Chip.sendVc (c : Chip) (s : Strait) (vc : BitVec 2) (t : TxTxn) : Chip := c.updStr s (fun x => x.setEgr vc (x.egr vc ++ [t]))

/-- Free buffer places of a VC: credits to return (R396). -/
def Str.free (x : Str) (vc : BitVec 2) (n : Nat) : Str := { x with freed := x.freed.set vc (x.freed.get vc + n) }

/-- Take the oldest transaction out of a receive buffer, returning its credits. A CREDIT holds none (log 8). -/
def Chip.popRx (c : Chip) (s : Strait) (vc : BitVec 2) : Chip :=
  c.updStr s (fun x => match x.rx vc with
    | [] => x
    | r :: rest => (x.setRx vc rest).free vc (if txnType r.txn.bytes = 5 then 0 else r.flits))

/-- The oldest transaction in a receive buffer if it is of a type and passes a test on its TFLAGS. -/
def Chip.headRx (c : Chip) (s : Strait) (vc : BitVec 2) (ty : Nat) (k : Nat → Bool) : Option RxTxn :=
  match (c.str s).rx vc with
  | r :: _ => if txnType r.txn.bytes = ty ∧ k (txnFlags r.txn.bytes) = true then some r else none
  | [] => none

/-- Freeze a strait for a transaction (R421), whose header a harvest keeps (R515). -/
def Chip.freezeBy (c : Chip) (s : Strait) (cause : Byte) (bs : List Byte) (addr : Nat) : Chip :=
  if (c.str s).frozen then c
  else (c.updStr s (fun x => { x with offend := slice bs 0 32 })).freezeStr s cause (BitVec.ofNat 8 (txnType bs)) addr

/-- Act on the oldest transaction of a type: nothing happens without one; a malformed one is dropped and the strait frozen,
cause 0x02 (R400, R421). -/
def Chip.onRx (c : Chip) (s : Strait) (vc : BitVec 2) (ty : Nat) (k : Nat → Bool) (f : Chip → RxTxn → Chip) : Chip :=
  match c.headRx s vc ty k with
  | none => c
  | some r =>
    if txnBodyOk r.txn.bytes then f c r
    else (c.popRx s vc).freezeBy s 0x02 r.txn.bytes 0

/-! ### Training (R378 to R385) -/

/-- Our receive buffers in flits (R395). -/
def vcSize (vc : BitVec 2) : Nat := if vc = 0 then 384 else if vc = 1 then 128 else 32

/-- The position of a serial in a plan. -/
def Plan.posOf (p : Plan) (serial : W64) : Option Nat := p.poss.findIdx? (fun r => r.serial == serial)

/-- A PROBE's bytes (R410): identity, version range 1 to 1, where the strait is cabled and called, and the plan's place. -/
def Chip.probeBytes (c : Chip) (s : Strait) : List Byte :=
  let phys := if c.ring.flipped && straitMain s then 1 - straitNum s else straitNum s
  let (ring, pos, planned, pid) := match c.ring.plan with
    | some p => (p.ring.toNat, (p.posOf c.boot.serial).getD 0, true, p.planId.toNat)
    | none => (0, 0, false, 0)
  wordsBytes [txnHead 6 0 0 32, c.boot.serial,
    mkWord [(32, 32, c.keeper.fwVersion.toNat), (24, 8, 1), (16, 8, 1), (14, 2, phys), (12, 2, straitNum s), (8, 4, ring),
            (2, 6, pos), (1, 1, b2n planned)],
    mkWord [(32, 32, pid), (28, 4, c.pwr.ga.toNat)], 0, 0, 0, 0]

/-- Send a PROBE. -/
def Chip.sendProbe (c : Chip) (s : Strait) : Chip := c.sendM s (c.probeBytes s)

/-- The identity a PROBE carries. -/
def probeIdent (bs : List Byte) : Ident :=
  let w2 := wordAt bs 16
  let w3 := wordAt bs 24
  { serial := wordAt bs 8, fw := BitVec.ofNat 32 (fld w2 63 32), pmax := BitVec.ofNat 8 (fld w2 31 24),
    pmin := BitVec.ofNat 8 (fld w2 23 16), phys := BitVec.ofNat 2 (fld w2 15 14), logical := BitVec.ofNat 2 (fld w2 13 12),
    ring := BitVec.ofNat 4 (fld w2 11 8), pos := BitVec.ofNat 6 (fld w2 7 2), planned := bit w2 1,
    planId := BitVec.ofNat 32 (fld w3 63 32), slot := BitVec.ofNat 4 (fld w3 31 28) }

/-- How many bits are set. -/
def popCount (w : BitVec 16) : Nat := ((List.range 16).filter (fun i => w.getLsbD i)).length
/-- Whether lanes lo to lo + n − 1 are all trained. -/
def lanesOk (w : BitVec 16) (lo n : Nat) : Bool := (List.range n).all (fun i => w.getLsbD (lo + i))

/-- The widest group in which every lane trains (R381): 0, 1 and 2 for 16, 8 and 4 lanes; 3 when no group qualifies. -/
def widthOf (w : BitVec 16) : BitVec 2 :=
  if lanesOk w 0 16 then 0 else if lanesOk w 0 8 || lanesOk w 8 8 then 1
  else if [0, 4, 8, 12].any (fun lo => lanesOk w lo 4) then 2 else 3

/-- Enter a training state now. -/
def Str.enter (x : Str) (t : Train) (now : Nat) : Str := { x with train := t, since := now }

/-- Go to DOWN without having been up (R382): DETECT is retried 10 ms later while presence is asserted. -/
def Str.toDown (x : Str) (now : Nat) : Str :=
  { x with train := .down, since := now, retryAt := some (now + msTk 10), width := 3, laneOk := 0, pver := 0,
           probeSeen := false, part := V4.all none, replay := [], resend := [], nakOut := false, nakRuns := 0,
           noCreditC := none, noCreditM := none,
           egrF := x.egrF.filter (fun t => t.sent = 0), egrW := x.egrW.filter (fun t => t.sent = 0),
           egrC := x.egrC.filter (fun t => t.sent = 0), egrM := [] }

/-- The bits of TRAIN (R382). -/
def Train.code : Train → Nat
  | .down => 0 | .detect => 1 | .equalise => 2 | .align => 3 | .identify => 4 | .up => 5 | .retrain => 6

/-- Whether an unacknowledged flit or a partly sent transaction is of a kind of R469 (R470's ledger condition). -/
def Str.outboundInFlight (x : Str) : Bool :=
  let k : TxTag → Bool := fun t => match t with
    | .signal _ _ => true
    | .dmaLast _ _ => true
    | _ => false
  x.replay.any (fun f => k f.tag) || (x.egrW ++ x.egrC).any (fun t => decide (0 < t.sent) && k t.tag)

/-- ROUTE of an ATTN_Q's parameters (R292). -/
def attRoute (p : W64) : Nat := fld p 63 61

/-- Whether a request was issued here and is computed beyond a cross strait, and by which. -/
def AttnReq.away (r : AttnReq) : Option Strait :=
  if r.cmd.isSome ∧ attRoute r.params = 6 then some .x0 else if r.cmd.isSome ∧ attRoute r.params = 7 then some .x1 else none

/-- What a strait that is down can bring no more: acknowledgements, and the records of requests sent over it, whose window slots are free again
(R125, R303; DESIGN CHOICE, log 104). -/
def Chip.expectNothing (c : Chip) (s : Strait) : Chip :=
  let d := c.disp
  { c with acks := c.acks.filter (fun a => a.strait != straitNum s),
           disp := { d with reqs := d.reqs.filter (fun r => !(r.away == some s && r.admitted)),
                            useX0 := if s = .x0 then [] else d.useX0, useX1 := if s = .x1 then [] else d.useX1 } }

/-- A strait leaves UP or RETRAIN for DOWN (R385): unacknowledged flits and partly received transactions are discarded,
LINK_DOWN is set and raised, and a main strait of an active run asks for a forced slack, class 0x06. -/
def Chip.linkDown (c : Chip) (s : Strait) (cause : Nat) : Chip :=
  let x := c.str s
  let from_ := x.train.code
  let lost := !straitMain s && x.outboundInFlight
  let c := c.setStr s { (x.toDown c.up) with linkDown := true }
  let c := { c with tide := { c.tide with xch := c.tide.xch.set s { c.tide.xch.get s with waiting := false } } }
  let c := ((c.evStr s 0x0601 (mkWord [(61, 3, from_), (48, 8, cause)]) (c.str s).retrainCnt).lockLost s).expectNothing s
  let c := { c with recov := { c.recov with inFlightLost := c.recov.inFlightLost || lost,
                                            downE := c.recov.downE || s == .e, downW := c.recov.downW || s == .w } }
  if straitMain s then c.detect 0x06 false else c

/-- A strait in UP fails and enters RETRAIN (R383): buffers, sequence numbers and credits are kept (R384). -/
def Chip.enterRetrain (c : Chip) (s : Strait) : Chip :=
  c.updStr s (fun x => { (x.enter .retrain c.up) with retrained := true, retrainCnt := x.retrainCnt + 1, nakRuns := 0 })

/-- Isolate a strait and raise STRAIT_EXTRA once per formation (R416); result is 0x5 or 0xF (R576). -/
def Chip.isolate (c : Chip) (s : Strait) (result : Nat) : Chip :=
  let x := c.str s
  let c := c.setStr s { x with isolated := true, extraRaised := true }
  if x.extraRaised then c
  else c.evStr s 0x0603 x.far.serial
    (mkWord [(58, 6, x.far.pos.toNat), (54, 4, x.far.ring.toNat), (52, 2, x.far.logical.toNat), (48, 4, result)])

/-! ### Flits (R386 to R391) -/

/-- A flit's header word. -/
def flitHead (seq ack : BitVec 12) (nak : Bool) (vc : BitVec 2) (start fin : Bool) (cvc : BitVec 2) (cred : Nat)
    (fill poison : Byte) (kind : Nat) : W64 :=
  mkWord [(52, 12, seq.toNat), (40, 12, ack.toNat), (39, 1, b2n nak), (37, 2, vc.toNat), (36, 1, b2n start), (35, 1, b2n fin),
          (33, 2, cvc.toNat), (24, 9, cred), (16, 8, fill.toNat), (8, 8, poison.toNat), (5, 3, kind)]

/-- A flit's 256 bytes: header, payload filled with zeros, CRC-64 (R386, R387). -/
def flitBytes (h : W64) (payload : List Byte) : List Byte :=
  let b := leBytes 8 h.toNat ++ payload ++ zeros (240 - payload.length)
  b ++ leBytes 8 (crc64 b)

/-- POISON of a flit (R386): bit k is the k-th 32 B piece of transaction data with a byte in it. The header holds the first
32 bytes of the first flit. -/
def flitPoison (poison : NatSet) (sent n : Nat) : Byte :=
  let lo := if sent = 0 then 0 else (sent - 32) / 32
  BitVec.ofNat 8 ((List.range 8).foldl (fun acc k =>
    if poison.contains (lo + k) ∧ 32 + (lo + k) * 32 < sent + n then acc + 2 ^ k else acc) 0)

/-- The SEQ before the expected one: the last data flit accepted in order. -/
def Str.ackNo (x : Str) : BitVec 12 := x.expSeq - 1

/-- Send a flit's bytes, with this end's ACK, NAK and credits, taking CVC in turn (R391, R396). -/
def Chip.emit (c : Chip) (s : Strait) (seq : BitVec 12) (vc : BitVec 2) (start fin : Bool) (fill poison : Byte) (kind : Nat)
    (data : List Byte) : Chip :=
  let x := c.str s
  let h := flitHead seq x.ackNo x.nakOut vc start fin x.cvcNext (x.freed.get x.cvcNext % 512) fill poison kind
  let c := c.setStr s { x with cvcNext := x.cvcNext + 1, txFlits := if kind = 1 then x.txFlits + 1 else x.txFlits }
  c.send (.flit s (flitBytes h data))

/-- Send a kept data flit again (R390). -/
def Chip.emitKept (c : Chip) (s : Strait) (f : TxFlit) : Chip := c.emit s f.seq f.vc f.start f.fin f.fill f.poison 1 f.data

/-- Send a null flit (R389). -/
def Chip.emitNull (c : Chip) (s : Strait) : Chip :=
  let c := c.emit s (c.str s).nextSeq 0 false false 0 0 0 []
  c.updStr s (fun x => { x with nullNo := 0 })

/-- Note when VC-C or VC-M credits run out or come back (R398). -/
def Str.noteCredits (x : Str) (now : Nat) : Str :=
  { x with noCreditC := if x.credit.c = 0 then (match x.noCreditC with | some t => some t | none => some now) else none,
           noCreditM := if x.credit.m = 0 then (match x.noCreditM with | some t => some t | none => some now) else none }

/-- The transaction's next flit: whether it starts and ends the transaction, and its bytes. -/
def TxTxn.nextFlit (t : TxTxn) : Bool × Bool × List Byte :=
  let d := (t.txn.bytes.drop t.sent).take 240
  (decide (t.sent = 0), decide (t.txn.bytes.length ≤ t.sent + 240), d)

end Sys2Proof.Machine
end

