-- ==== Sys2Proof/Machine/Access.lean ====
section
/-! DEFINITION. Reads of scratchpad and LPDDR5X with their error correction, tags, read-merge buffers and poison (R225 to R227,
R259, R269 to R276, R287), the serial NOR's records (R521 to R524), and the places that a replay would read again (R461). -/
namespace Sys2Proof.Machine

/-! ### The serial NOR -/

/-- Bytes of the NOR; an erased byte reads 0xFF (log 11). -/
def Chip.norBytes (c : Chip) (a n : Nat) : List Byte := memRead 0xFF c.nor a n

/-- Program bytes; a program leaves the bytes as given, whatever they held (DESIGN CHOICE, log 34). -/
def Chip.norProg (c : Chip) (a : Nat) (bs : List Byte) : Chip := { c with nor := memWrite 0xFF c.nor a bs }
/-- Erase n bytes. -/
def Chip.norErase (c : Chip) (a n : Nat) : Chip := { c with nor := tblClear c.nor a n }

/-- A 64 B record: seven words, then the CRC-32 of their bytes (R522, R524). -/
def norRecord (ws : List W64) : List Byte := wordsBytes ws ++ leBytes 8 (crc32 (wordsBytes ws))

/-- Append a record to the fault log (R524), which then erases the next 64 KiB sector, the oldest, where it enters one: an erased
place always follows the newest record. -/
def Chip.faultLog (c : Chip) (kind arg : Nat) : Chip :=
  let next := (c.boot.logPos + 1) % 0x4_0000
  let c := c.norProg (0x0360_0000 + c.boot.logPos * 64)
    (norRecord [mkWord [(48, 16, kind), (0, 32, c.boot.bootNum.toNat)], c.tide.count, BitVec.ofNat 64 arg, 0, 0, 0, 0])
  let c := if next % 1024 = 0 then c.norErase (0x0360_0000 + next * 64) 0x1_0000 else c
  { c with boot := { c.boot with logPos := next } }

/-! ### Places a replay would read again (R461, R465) -/

/-- The step index a reservation is made for (R448). -/
def Berth.tagIx (b : Berth) : Nat := b.first + b.cur * b.stride

/-- Whether the reservation in hand is a commit berth that is not yet to be released (R465): it holds the halves of a commit
boundary c, and no later boundary has been declared. -/
def Run.commitBerth (r : Run) (b : Berth) : Bool :=
  (0 :: r.commits).any (fun k => decide (k = b.tagIx + 1) && decide (r.committed ≤ k))

/-- Whether an address lies in the shard of the bound set, a commit berth, or a KEEP group (R461). -/
def Chip.keptPlace (c : Chip) (a : Nat) : Bool :=
  match c.run with
  | none => false
  | some r =>
    (match r.set with
      | none => false
      | some n => c.wsets.any (fun w => w.num == n && w.ctx == r.ctx && within a 1 w.base w.len)) ||
    r.berths.any (fun b => b.st == .live && r.commitBerth b && within a 1 b.base b.size) ||
    (inSpd a && (c.tile (spdTile a)).keep.getLsbD ((a - spdBase) % 0x8_0000 / 0x1_0000))

/-! ### Reads -/

/-- Who reads: whether an LPDDR5X read fills the read-merge buffer (R274: scheduled reads by tiles, queue fetches and
egresses), whether it is a read by the run, whose errors trigger a recovery (R461), whether it is scheduled (R254), and whether slots of
its channel were granted for it before; if not, its bursts take them after its step (R256; log 106). -/
structure Reader where
  fill : Bool
  run  : Bool
  sched : Bool
  granted : Bool
deriving DecidableEq, Repr

/-- Read the check bits of an 8 B part of a scratchpad word (R225, R226): a latent correctable error is corrected, counted and written back;
an uncorrectable one poisons the word, is counted, shown, raised and, for a read by the run, starts a recovery. p counts parts of the
window. -/
def Chip.spdPart (c : Chip) (p : Nat) (by_ : Reader) : Chip :=
  let e := tblGet 0 c.spdErr p
  let w := p / 4
  let t := w / 0x4000
  if e = 0 then c
  else if e = 1 then
    ({ c with spdErr := tblErase c.spdErr p }).updTile t (fun x => { x with spd := { x.spd with ce := x.spd.ce + 1 } })
  else
    let c := { c with spdErr := tblErase c.spdErr p, spdPoison := setAdd c.spdPoison w }
    let c := c.updTile t (fun x => { x with spd := { x.spd with ue := x.spd.ue + 1, uncorrectable := true } })
    let c := c.evTile t 0x0302 (BitVec.ofNat 64 (w % 0x4000 * 32)) (c.tile t).spd.ue
    if by_.run then c.detect 0x02 (c.keptPlace (spdBase + w * 32)) else c

/-- Read the four parts of a 32 B word. w counts words of the window. -/
def Chip.spdWord (c : Chip) (w : Nat) (by_ : Reader) : Chip :=
  [0, 1, 2, 3].foldl (fun c k => c.spdPart (4 * w + k) by_) c

/-- The read-merge line of a granule. -/
def rmbLine (g : Nat) : Nat := chanOff (g * 64) / 64 % 4096

/-- The channel offset of the check burst of the granule at a channel offset, in a module of a channel capacity (R270). -/
def checkBurst (capacity o : Nat) : Nat := capacity * 31 / 32 + o / 2048 * 64

/-- The number of that granule's check word within its check burst (R270). -/
def checkWord (o : Nat) : Nat := o / 64 % 32

/-- Use a line of a set of the check-line store: it becomes the most recently used, and the set keeps at most cap lines. -/
def useLine (cap g : Nat) (wr : Bool) (l : List (Nat × Bool)) : List (Nat × Bool) :=
  ((g, wr || l.any (fun e => e.1 == g && e.2)) :: l.filter (fun e => e.1 != g)).take cap

/-- Bursts that using a line costs: a read where it is not held, and the write-back of a changed line that it evicts (R270). -/
def lineCost (cap g : Nat) (l : List (Nat × Bool)) : Nat :=
  if l.any (fun e => e.1 == g) then 0 else 1 + ((l.drop (cap - 1)).filter (fun e => e.2)).length

/-- An access of a granule takes its check burst through the check-line store (R270): from the set that holds it, or else into the set of the
request's kind (log 24). What that costs the channel is owed. -/
def Chip.checkUse (c : Chip) (sched wr : Bool) (g : Nat) : Chip :=
  let k := checkBurst (c.capacity / 64) (chanOff (g * 64))
  c.updChan (chanOf (g * 64)) (fun x =>
    let inS := x.checkS.any (fun e => e.1 == k)
    let inU := x.checkU.any (fun e => e.1 == k)
    if inS || (sched && !inU) then { x with checkS := useLine 48 k wr x.checkS, owed := x.owed + lineCost 48 k x.checkS }
    else { x with checkU := useLine 16 k wr x.checkU, owed := x.owed + lineCost 16 k x.checkU })

/-- An access for which no slot was granted before has its burst take one as an unscheduled request (R256). -/
def Chip.takeBurst (c : Chip) (by_ : Reader) (g : Nat) : Chip :=
  if by_.granted then c else c.updChan (chanOf (g * 64)) (fun x => { x with due := x.due + 1 })

/-- The ECC part of reading a granule from its channel (R271): the error, its count, its correction queue, its event. -/
def Chip.lpEcc (c : Chip) (g : Nat) (by_ : Reader) : Chip :=
  let c := c.checkUse by_.sched false g
  let e := tblGet 0 c.lpErr g
  let ch := chanOf (g * 64)
  if e = 0 then c
  else if e = 1 then
    let x := c.chan ch
    if x.wb.contains g then c
    else if x.wbOrder.length < 64 then
      c.updChan ch (fun x => { x with wb := setAdd x.wb g, wbOrder := x.wbOrder ++ [g], ce := x.ce + 1 })
    else c.updChan ch (fun x => { x with ce := x.ce + 1 })
  else
    let c := { c with lpErr := tblErase c.lpErr g, lpPoison := setAdd c.lpPoison g }
    let c := c.updChan ch (fun x => { x with ue := x.ue + 1, uncorr := true, lastUe := g * 64 })
    let c := c.faultLog 3 (g * 64)
    let c := c.evChan ch 0x0402 (BitVec.ofNat 64 (g * 64)) (c.chan ch).ue
    if by_.run then c.detect 0x03 (c.keptPlace (g * 64)) else c

/-- The tag part (R287): a granule whose tag does not match is counted, raised and read as poisoned. -/
def Chip.lpMac (c : Chip) (g : Nat) (by_ : Reader) : Chip :=
  if c.macBad.contains g then
    let ch := chanOf (g * 64)
    let c := c.updChan ch (fun x => { x with mac := x.mac + 1, macFail := true })
    let c := c.evChan ch 0x0406 (BitVec.ofNat 64 (g * 64)) (c.chan ch).mac
    if by_.run then c.detect 0x04 (c.keptPlace (g * 64)) else c
  else c

/-- Whether a fill of a granule is in flight (R275). -/
def Chip.filling (c : Chip) (g : Nat) : Bool :=
  let at_ := tblGet 0 (c.chan (chanOf (g * 64))).fills g
  decide (0 < at_) && decide (c.tide.acs.toNat + 1 < at_ + Config.fillTime)

/-- Whether a granule's read-merge line holds it (R274). -/
def Chip.lineHolds (c : Chip) (g : Nat) : Bool := tblGet 0 (c.chan (chanOf (g * 64))).rmb (rmbLine g) == g + 1

/-- Whether a read of a granule is served without a burst (R275). -/
def Chip.noBurst (c : Chip) (g : Nat) : Bool := c.lineHolds g || c.filling g

/-- A fill of a granule is granted: it replaces what the line held (R274); a fill of another granule that is in flight stays so (R275). -/
def Chip.fill (c : Chip) (g : Nat) : Chip :=
  c.updChan (chanOf (g * 64)) (fun x =>
    { x with rmb := tblPut 0 x.rmb (rmbLine g) (g + 1), fills := tblPut 0 (x.fills.filter (fun e => c.filling e.1)) g (c.tide.acs.toNat + 1) })

/-- Read one LPDDR5X granule (R271, R274, R275, R287): as a merge while a fill of it is in flight, from its read-merge line if that holds it, and
otherwise from the channel, filling the line if the reader fills. -/
def Chip.lpGran (c : Chip) (g : Nat) (by_ : Reader) : Chip :=
  let ch := chanOf (g * 64)
  if c.filling g then c.updChan ch (fun x => { x with rmbMerge := x.rmbMerge + 1 })
  else if c.lineHolds g then c.updChan ch (fun x => { x with rmbHit := x.rmbHit + 1 })
  else
    let c := ((c.takeBurst by_ g).lpEcc g by_).lpMac g by_
    if by_.fill then c.fill g else c

/-! ### Writes of a part -/

/-- The merge of a partial write reads the stored granule (R272): its errors are met as a read meets them, and the merged granule has a new
check word (R271) and, in a sealed region, a new tag (R286). A granule whose tag did not match stays poisoned. -/
def Chip.mergeLp (c : Chip) (g : Nat) (by_ : Reader) : Chip :=
  let c := (c.lpEcc g by_).lpMac g by_
  let c := if c.macBad.contains g then { c with lpPoison := setAdd c.lpPoison g } else c
  { c with lpErr := tblErase c.lpErr g, macBad := setDel c.macBad g }

/-- A write of a range of LPDDR5X takes its bursts and the check bursts of its granules. -/
def Chip.checkWrite (c : Chip) (by_ : Reader) (a n : Nat) : Chip :=
  if inLp a then (unitsOf 64 a n).foldl (fun c g => (c.takeBurst by_ g).checkUse by_.sched true g) c else c

/-- Units of a size that a range holds only in part. -/
def partUnits (u a n : Nat) : List Nat := (unitsOf u a n).filter (fun k => !within (k * u) u a n)

/-- What a write of a range meets where it covers a unit of check bits only in part: an 8 B part of scratchpad (R225), a granule of LPDDR5X. -/
def Chip.merge (c : Chip) (a n : Nat) (by_ : Reader) : Chip :=
  if inSpd a then (partUnits 8 (a - spdBase) n).foldl (fun c p => c.spdPart p by_) c
  else if inLp a then (partUnits 64 a n).foldl (fun c g => c.mergeLp g by_) c
  else c

/-- The checks of a read of a range, unit by unit in ascending address. -/
def Chip.touch (c : Chip) (a n : Nat) (by_ : Reader) : Chip :=
  if inSpd a then (unitsOf 32 (a - spdBase) n).foldl (fun c w => c.spdWord w by_) c
  else (unitsOf 64 a n).foldl (fun c g => c.lpGran g by_) c

/-- Read a range: its bytes, and whether any granule of it is poisoned. -/
def Chip.fetch (c : Chip) (a n : Nat) (by_ : Reader) : Chip × List Byte × Bool :=
  let c := c.touch a n by_
  (c, c.bytes a n, c.poisoned a n)

/-- Read several ranges, one after the other. -/
def Chip.fetchAll (c : Chip) (by_ : Reader) : List (Nat × Nat) → Chip × List Byte × Bool
  | [] => (c, [], false)
  | (a, n) :: r =>
    let x := c.fetch a n by_
    let y := x.1.fetchAll by_ r
    (y.1, x.2.1 ++ y.2.1, x.2.2 || y.2.2)

/-- A read by a run's tile, scheduled or not. -/
def tileReader (sched : Bool) : Reader := ⟨sched, true, sched, true⟩
/-- A read by the run's security engine: unscheduled, its bursts taken after its step. -/
def sealReader : Reader := ⟨false, true, false, false⟩
/-- A read by the Keeper, the host or a maintenance engine: its errors trigger nothing (R461). -/
def otherReader : Reader := ⟨false, false, false, false⟩

end Sys2Proof.Machine
end

