-- ==== Sys2Proof/Machine/Maintenance.lean ====
section
/-! DEFINITION. Refresh and maintenance of the channels (R69 to R74, R277 to R282), and THERMAL (R555). -/
namespace Sys2Proof.Machine

/-- Raise THERMAL for a sensor (R555, R573), at most once in 100 ms for each: 0 die, 1 regulator, 2 package, 3 inlet. -/
def Chip.thermal (c : Chip) (sensor pkg : Nat) (temp : Byte) : Chip :=
  let key := sensor * 16 + pkg
  let last := tblGet 0 c.pwr.thermAt key
  if last ≠ 0 ∧ c.up + 1 < last + msTk 100 then c
  else
    let c := { c with pwr := { c.pwr with thermAt := tblPut 0 c.pwr.thermAt key (c.up + 1) } }
    c.evMod 0x0A02 (mkWord [(56, 8, sensor), (48, 8, pkg), (40, 8, temp.toNat)]) 0

/-! ### The grid (R69 to R71) -/

/-- Whether refresh follows the grid: REFRESH_ALIGN 1 and the module ALIGNED. -/
def Chip.onGrid (c : Chip) : Bool := c.boot.set.refreshAlign && c.tide.st == .aligned
/-- The grid's period P. -/
def Chip.gridP (c : Chip) : Nat := if c.tide.grid then 1832 else 3664
/-- The tide count less p × s, as an integer. -/
def Chip.gridNow (c : Chip) : Int := (c.now : Int) - (c.tide.position.toNat * c.tide.stagger.toNat : Nat)

/-- REFRESH_WINDOW: at a grid count every channel's arbiter stops issuing; eight all-bank refreshes follow, and the refresh management that
packages have asked for (R277). -/
def refreshWindow (c : Chip) : Chip :=
  Chip.when (c.onGrid && decide (c.gridNow % (c.gridP : Int) = 0))
    (fun c => (List.range 64).foldl (fun c ch => c.updChan ch (fun x =>
      { x with inWindow := true, windowAt := c.now, maintDone := false, postponed := 0, rfm := none })) c) c
/-- REFRESH_WINDOW. -/
def execRefreshWindow (s : State) : Host.Outcome State Fault Refusal := onChip refreshWindow s

/-! ### Maintenance work (R279 to R281) -/

/-- Write back up to n corrections, oldest first: the stored granule is corrected and leaves the queue. -/
def Chip.writeBacks (c : Chip) (ch n : Nat) : Chip :=
  let gs := (c.chan ch).wbOrder.take n
  let c := gs.foldl (fun c g => c.checkUse false true g) { c with lpErr := c.lpErr.filter (fun e => !(gs.contains e.1 && e.2 == 1)) }
  c.updChan ch (fun x => { x with wbOrder := x.wbOrder.drop n, wb := gs.foldl setDel x.wb })

/-- Data bytes of one channel: the channel offsets below its inline-ECC range. -/
def Chip.chanData (c : Chip) : Nat := c.eccOff / 64

/-- n scrub reads in ascending channel offset, wrapping to 0. -/
def Chip.scrub (c : Chip) (ch : Nat) : Nat → Chip
  | 0 => c
  | n + 1 =>
    let o := (c.chan ch).scrubPos
    let c := c.lpEcc (chanAddr ch o / 64) otherReader
    let next := if o + 64 < c.chanData then o + 64 else 0
    (c.updChan ch (fun x => { x with scrubPos := next })).scrub ch n

/-- Whether the re-check covers a set: resident, verified and not damaged. -/
def WSet.checked (w : WSet) : Bool := w.resident && w.verified && !w.damaged

/-- The first covered set of a number at or above n, in ascending order. -/
def Chip.setFrom (c : Chip) (n : Nat) : Option WSet :=
  ((c.wsets.filter (fun w => w.checked && decide (n ≤ w.num.toNat))).foldl (fun (b : Option WSet) w =>
    match b with | none => some w | some x => if w.num.toNat < x.num.toNat then some w else b) none)

/-- The covered set after set n, wrapping to the first. -/
def Chip.setAfter (c : Chip) (n : Nat) : Option WSet :=
  match c.setFrom (n + 1) with | some w => some w | none => c.setFrom 0

/-- The set being re-checked: the one shown, if it is still covered, else the next. -/
def Chip.setNow (c : Chip) : Option WSet :=
  match c.wsets.find? (fun w => w.num == c.recheckSet && w.checked) with
  | some w => some w
  | none => c.setAfter c.recheckSet.toNat

/-- Go on to a chunk of a set. -/
def Chip.toChunk (c : Chip) (set : W16) (chunk : Nat) : Chip :=
  let c := { c with recheckSet := set, recheckChunk := BitVec.ofNat 32 chunk, recheckPoison := false }
  (List.range 64).foldl (fun c ch => c.updChan ch (fun x => { x with reOff := 0 })) c

/-- A set that is re-checked anew, after it was staged again, starts at its first chunk (R281). -/
def Chip.recheckAnew (c : Chip) (n : W16) : Chip := if c.recheckSet = n then c.toChunk n 0 else c

/-- Bytes of chunk k of a shard. -/
def WSet.chunkLen (w : WSet) (k : Nat) : Nat := min 0x40_0000 (w.len - k * 0x40_0000)

/-- The place and granules of a channel's block of a chunk. -/
def WSet.block (w : WSet) (k ch : Nat) : Nat × Nat :=
  let b := w.base + k * 0x40_0000
  let off := (ch + 64 - chanOf b) % 64 * 0x1_0000
  (b + off, cdiv (min 0x1_0000 (w.chunkLen k - off)) 64)

/-- n shard re-check reads of a channel: its next granules of the chunk in progress. -/
def Chip.recheck (c : Chip) (ch n : Nat) : Chip :=
  match c.setNow with
  | none => c
  | some w =>
    let c := if w.num = c.recheckSet then c else c.toChunk w.num 0
    let b := w.block c.recheckChunk.toNat ch
    let done := (c.chan ch).reOff
    let m := min n (b.2 - done)
    let c := (List.range m).foldl (fun c i => (c.lpEcc (b.1 / 64 + done + i) otherReader).lpMac (b.1 / 64 + done + i) otherReader) c
    let bad := (List.range m).any (fun i => c.poisoned (b.1 + (done + i) * 64) 64)
    ({ c with recheckPoison := c.recheckPoison || bad }).updChan ch (fun x => { x with reOff := done + m })

/-- The work of one maintenance part or period: up to 8 write-backs, each in a scrub read's place; 128 scrub reads; 32 re-check reads. Its
check bursts are among its 165 bursts. -/
def Chip.maintain (c : Chip) (ch : Nat) (retrain : Bool) : Chip :=
  let n := min 8 (c.chan ch).wbOrder.length
  let owed := (c.chan ch).owed
  let c := c.writeBacks ch n
  (if retrain then c else (c.scrub ch (128 - n)).recheck ch 32).updChan ch (fun x => { x with owed := owed })

/-- MAINTENANCE_PART: the last 64 tk of a window. One window in 32 retrains instead of reading. -/
def maintenancePart (ch : Nat) (c : Chip) : Chip :=
  let x := c.chan ch
  Chip.when (x.inWindow && !x.maintDone && decide (x.windowAt + 384 ≤ c.now) && decide (c.now < x.windowAt + 448))
    (fun c => (c.maintain ch (decide (((x.windowAt - c.tide.position.toNat * c.tide.stagger.toNat) / c.gridP) % 32 =
        Config.retrainWindow % 32))).updChan ch (fun y => { y with maintDone := true })) c
/-- MAINTENANCE_PART. -/
def execMaintenancePart (ch : ChanId) (s : State) : Host.Outcome State Fault Refusal := onChip (maintenancePart ch.toNat) s

/-- MAINT_PERIOD: without aligned refresh, once in each period of 3,664 tk, from its start on, the same work in the same amounts, as
unscheduled requests. -/
def maintPeriod (ch : Nat) (c : Chip) : Chip :=
  Chip.when (!c.onGrid && (c.chan ch).st == 2 && decide ((c.chan ch).maintAt ≠ c.now / 3664 + 1)) (fun c =>
    (c.maintain ch false).updChan ch (fun x => { x with maintAt := c.now / 3664 + 1, due := x.due + 165 })) c
/-- MAINT_PERIOD. -/
def execMaintPeriod (ch : ChanId) (s : State) : Host.Outcome State Fault Refusal := onChip (maintPeriod ch.toNat) s

/-! ### Refresh outside the grid (R73, R74, R277, R278) -/

/-- PER_BANK_REFRESH: one falls due. Under load, a scheduled access waiting, up to 8 are postponed; otherwise it and those are issued, and with
them the refresh management that the package has asked for. From
alignment on none falls due outside the windows, and the first window makes up those postponed (R74; DESIGN CHOICE, log 88). -/
def perBankRefresh (load : Nat → Chip → Bool) (ch : Nat) (c : Chip) : Chip :=
  Chip.when (!c.onGrid && (c.chan ch).st == 2) (fun c => c.updChan ch (fun x =>
    if load ch c then { x with postponed := min 8 (x.postponed + 1) } else { x with postponed := 0, rfm := none })) c

/-- ADDED_REFRESH: the packages ask for more than the grid in use gives, or for refresh management before the next window (R277), and the
controller adds a refresh outside the windows. -/
def addedRefresh (ch : Nat) (c : Chip) : Chip :=
  let x := c.chan ch
  Chip.when (c.onGrid && !c.shut ch && ((x.derate && !c.tide.grid) || x.hotAt.isSome || x.rfm == some true))
    (fun c =>
      let c := c.updChan ch (fun x => { x with rfm := if x.rfm = some true then none else x.rfm })
      let c := { c with tide := { c.tide with urefCnt := c.tide.urefCnt + 1, refUnaligned := true } }
      c.evMod 0x0105 c.tide.urefCnt (BitVec.ofNat 64 ch)) c
/-- ADDED_REFRESH. -/
def execAddedRefresh (ch : ChanId) (s : State) : Host.Outcome State Fault Refusal := onChip (addedRefresh ch.toNat) s

/-- REFRESH_RATE_POLL, every 117,500 tk (R265): the register's code, and what the package asks for. -/
def refreshRatePoll (ch : Nat) (code : BitVec 5) (d : RefreshDemand) (c : Chip) : Chip :=
  let x := c.chan ch
  let early := match x.polledAt with | some t => decide (c.up < t + msTk 1) | none => false
  if x.st ≠ 2 ∨ early = true then c else
  let c := c.updChan ch (fun y => { y with refRate := code, polledAt := some c.up })
  match d with
  | .normal => c.updChan ch (fun y => { y with derate := false, hotAt := none })
  | .twice =>
    let c := c.updChan ch (fun y => { y with derate := true, hotAt := none })
    if x.derate then c else c.evChan ch 0x0403 (BitVec.ofNat 64 code.toNat) 0
  | .rfm soon => c.updChan ch (fun y => { y with rfm := some soon })
  | .above =>
    let c := c.updChan ch (fun y => { y with hotAt := some (x.hotAt.getD c.up) })
    let c := c.evChan ch 0x0404 (BitVec.ofNat 64 code.toNat) 0
    ({ c with pwr := { c.pwr with memHot := true } }).thermal 2 (ch / 4) c.pwr.tMem
/-- REFRESH_RATE_POLL. -/
def execRefreshRatePoll (ch : ChanId) (code : BitVec 5) (d : RefreshDemand) (s : State) : Host.Outcome State Fault Refusal :=
  onChip (refreshRatePoll ch.toNat code d) s

/-! ### Chunk digests (R281, R282) -/

/-- Go on after the chunk in progress: the set's next chunk, or the next set's first. -/
def Chip.nextChunk (c : Chip) (w : WSet) : Chip :=
  let k := c.recheckChunk.toNat + 1
  if w.checked && decide (k * 0x40_0000 < w.len) then c.toChunk w.num k
  else match c.setAfter w.num.toNat with
    | some v => c.toChunk v.num 0
    | none => c.toChunk 0 0

/-- Replace a resident set. -/
def Chip.setWset (c : Chip) (w : WSet) : Chip := { c with wsets := c.wsets.map (fun v => if v.num == w.num then w else v) }

/-- RECHECK_CHUNK_DONE: every channel has read its block of the chunk. A chunk whose digest differs, or that read poison, damages its set. -/
def recheckChunkDone (c : Chip) : Chip :=
  match c.wsets.find? (fun w => w.num == c.recheckSet && w.checked) with
  | none => c
  | some w =>
    let k := c.recheckChunk.toNat
    let all := (List.range 64).all (fun ch => decide ((w.block k ch).2 ≤ (c.chan ch).reOff))
    if !all then c
    else
      let ok := !c.recheckPoison && w.chunks.getD k [] == sha512 (c.bytes (w.base + k * 0x40_0000) (w.chunkLen k))
      if ok then
        let w := { w with clean := w.clean.set k c.now }
        (c.setWset w).nextChunk w
      else
        let w' := { w with verified := false, damaged := true }
        let c := ({ c with damagedCnt := c.damagedCnt + 1 }).setWset w'
        let c := c.evMod 0x0405 (mkWord [(48, 16, w.num.toNat), (0, 32, k)]) (BitVec.ofNat 64 (w.clean.getD k 0))
        let bound := match c.run with | some r => r.set == some w.num | none => false
        let c := if bound then c.detect 0x0A false else c
        c.nextChunk w'
/-- RECHECK_CHUNK_DONE. -/
def execRecheckChunkDone (s : State) : Host.Outcome State Fault Refusal := onChip recheckChunkDone s

end Sys2Proof.Machine
end

