-- ==== Sys2Proof/Machine/Float.lean ====
section
/-! DEFINITION. Numbers and arithmetic (R160 to R195, R579): exact values, the one rounding to FP32, the element formats, the
narrowing of R177 to R179, and the four functions by their procedures. -/
namespace Sys2Proof.Machine

/-! ### Exact values -/

/-- Zero with a sign. -/
def fzero (neg : Bool) : Fv := .fin neg 0 0

/-- The number of bits of m. -/
def bitLen (m : Nat) : Nat := if m = 0 then 0 else Nat.log2 m + 1

/-- m × 2^e for e ≥ q, as a multiple of 2^q. -/
def scaleTo (m : Nat) (e q : Int) : Nat := m * 2 ^ (e - q).toNat

/-- m × 2^(e − q) rounded to an integer, ties to even. -/
def rneAt (m : Nat) (e q : Int) : Nat :=
  if q ≤ e then scaleTo m e q
  else
    let d := 2 ^ (q - e).toNat
    let k := m / d
    let r := m % d
    if d < 2 * r then k + 1 else if 2 * r = d then k + k % 2 else k

/-- The exponent of the last place of m × 2^e at a precision of p bits, subnormal spacing at u (R177). -/
def ulpExp (p : Nat) (u : Int) (m : Nat) (e : Int) : Int := max (e + (bitLen m : Int) - (p : Int)) u

/-- RNE32: round once to FP32, ties to even, subnormals kept, overflow to an infinity (R162, R171). -/
def rne32 : Fv → Fv
  | .nan => .nan
  | .inf n => .inf n
  | .fin n m e =>
    let q := ulpExp 24 (-149) m e
    let r := rneAt m e q
    if r = 0 then fzero n
    else if q + (bitLen r : Int) > 128 then .inf n else .fin n r q

/-- The exact negation. -/
def fneg : Fv → Fv
  | .nan => .nan
  | .inf n => .inf (!n)
  | .fin n m e => .fin (!n) m e

/-- The exact sum (R173, R188): opposite infinities give NaN; an exact zero is −0 only of two −0. -/
def addX : Fv → Fv → Fv
  | .nan, _ => .nan
  | _, .nan => .nan
  | .inf a, .inf b => if a = b then .inf a else .nan
  | .inf a, _ => .inf a
  | _, .inf b => .inf b
  | .fin a m e, .fin b k f =>
    let q := min e f
    let x := scaleTo m e q
    let y := scaleTo k f q
    if a = b then (if x + y = 0 then fzero a else .fin a (x + y) q)
    else if x = y then fzero false
    else if y < x then .fin a (x - y) q else .fin b (y - x) q

/-- The exact product (R173): 0 × Inf gives NaN. -/
def mulX : Fv → Fv → Fv
  | .nan, _ => .nan
  | _, .nan => .nan
  | .inf a, .inf b => .inf (a != b)
  | .inf a, .fin b k _ => if k = 0 then .nan else .inf (a != b)
  | .fin a m _, .inf b => if m = 0 then .nan else .inf (a != b)
  | .fin a m e, .fin b k f => if m = 0 ∨ k = 0 then fzero (a != b) else .fin (a != b) (m * k) (e + f)

/-- The exact difference. -/
def subX (a b : Fv) : Fv := addX a (fneg b)
/-- FP32 addition, round-to-nearest-even. -/
def fadd (a b : Fv) : Fv := rne32 (addX a b)
/-- FP32 subtraction. -/
def fsub (a b : Fv) : Fv := rne32 (subX a b)
/-- FP32 multiplication. -/
def fmul (a b : Fv) : Fv := rne32 (mulX a b)
/-- Scale exactly by a power of two. -/
def fscale (k : Int) : Fv → Fv
  | .fin n m e => if m = 0 then fzero n else .fin n m (e + k)
  | v => v

/-- a < b among non-NaN values, −0 below +0 (R190). -/
def fltZ : Fv → Fv → Bool
  | .nan, _ => false
  | _, .nan => false
  | .inf a, .inf b => a && !b
  | .inf a, .fin .. => a
  | .fin .., .inf b => !b
  | .fin a m e, .fin b k f =>
    let q := min e f
    let x := scaleTo m e q
    let y := scaleTo k f q
    if x = 0 ∧ y = 0 then a && !b
    else match a, b with
      | false, false => decide (x < y)
      | true, true => decide (y < x)
      | true, false => true
      | false, true => false

/-- The maximum, NaN if either is NaN, max(+0, −0) = +0 (R188). -/
def fmax (a b : Fv) : Fv := if a = .nan ∨ b = .nan then .nan else if fltZ a b then b else a
/-- The minimum (R188). -/
def fmin (a b : Fv) : Fv := if a = .nan ∨ b = .nan then .nan else if fltZ a b then a else b
/-- The magnitude. -/
def fabs : Fv → Fv
  | .nan => .nan
  | .inf _ => .inf false
  | .fin _ m e => .fin false m e
/-- Whether a value is NaN or infinite. -/
def fspecial : Fv → Bool
  | .fin .. => false
  | _ => true
/-- Whether a value is a zero. -/
def fisZero : Fv → Bool
  | .fin _ m _ => m == 0
  | _ => false
/-- The sign. -/
def fsign : Fv → Bool
  | .nan => false
  | .inf n => n
  | .fin n _ _ => n

/-! ### Element formats (R160) -/

/-- A float format: exponent bits, mantissa bits, bias, and what its largest exponent codes are: 0 all finite, 1 the one
NaN of E4M3, 2 Inf and NaN as in IEEE 754. -/
structure FloatFmt where
  eb : Nat
  mb : Nat
  bias : Nat
  top : Nat
deriving DecidableEq, Repr

/-- The float formats by code (R160). -/
def floatFmt : Nat → Option FloatFmt
  | 0 => some ⟨4, 3, 7, 1⟩
  | 1 => some ⟨5, 2, 15, 2⟩
  | 2 => some ⟨3, 2, 3, 0⟩
  | 3 => some ⟨2, 3, 1, 0⟩
  | 4 => some ⟨2, 1, 1, 0⟩
  | 6 => some ⟨8, 7, 127, 2⟩
  | 7 => some ⟨8, 23, 127, 2⟩
  | _ => none

/-- Bits of one element of a format (R160). -/
def fmtBits : Nat → Nat
  | 0 => 8 | 1 => 8 | 2 => 6 | 3 => 6 | 4 => 4 | 5 => 8 | 6 => 16 | 7 => 32 | 8 => 32 | _ => 8

/-- The value a float code encodes. -/
def decodeFloat (f : FloatFmt) (x : Nat) : Fv :=
  let m := x % 2 ^ f.mb
  let e := x / 2 ^ f.mb % 2 ^ f.eb
  let n := decide (x / 2 ^ (f.mb + f.eb) % 2 = 1)
  if f.top = 2 ∧ e = 2 ^ f.eb - 1 then (if m = 0 then .inf n else .nan)
  else if f.top = 1 ∧ e = 2 ^ f.eb - 1 ∧ m = 2 ^ f.mb - 1 then .nan
  else if e = 0 then (if m = 0 then fzero n else .fin n m (1 - (f.bias : Int) - f.mb))
  else .fin n (m + 2 ^ f.mb) ((e : Int) - f.bias - f.mb)

/-- An integer as an exact value. -/
def ofInt (i : Int) : Fv := if i = 0 then fzero false else .fin (decide (i < 0)) i.natAbs 0

/-- The value of an element's code in any format of R161. -/
def decodeElem (fmt x : Nat) : Fv :=
  match floatFmt fmt with
  | some f => decodeFloat f x
  | none => ofInt (signed (fmtBits fmt) x)

/-- FP32 bits as a value. -/
def of32 (w : W32) : Fv := decodeElem 7 w.toNat

/-- The code of a finite value r × 2^q that the format represents exactly. -/
def encodeFin (f : FloatFmt) (n : Bool) (r : Nat) (q : Int) : Nat :=
  let s := b2n n * 2 ^ (f.mb + f.eb)
  let minq : Int := 1 - (f.bias : Int) - f.mb
  if r = 0 then s
  else
    let m := if minq ≤ q then scaleTo r q minq else r / 2 ^ (minq - q).toNat
    let l := bitLen m
    if l ≤ f.mb then s + m
    else s + (l - f.mb) * 2 ^ f.mb + (m / 2 ^ (l - f.mb - 1) - 2 ^ f.mb)

/-- The canonical NaN of a format (R163). -/
def nanCode : Nat → Nat
  | 0 => 0x7F | 1 => 0x7E | 6 => 0x7FC0 | _ => 0x7FC0_0000

/-- The code of ±Inf where the format has one. -/
def infCode (f : FloatFmt) (n : Bool) : Nat := b2n n * 2 ^ (f.mb + f.eb) + (2 ^ f.eb - 1) * 2 ^ f.mb

/-- FP32 bits of a value that FP32 holds. -/
def to32 : Fv → W32
  | .nan => 0x7FC0_0000
  | .inf n => BitVec.ofNat 32 (infCode ⟨8, 23, 127, 2⟩ n)
  | .fin n m e => BitVec.ofNat 32 (encodeFin ⟨8, 23, 127, 2⟩ n m e)

/-- The largest finite value of a format as m × 2^e (R160). -/
def maxFin : Nat → Nat × Int
  | 0 => (7, 6) | 1 => (7, 13) | 2 => (7, 2) | 3 => (15, -1) | 4 => (3, 1) | 6 => (255, 120) | _ => (16777215, 104)

/-- The code of the largest finite value of a format with a sign. -/
def maxCode (fmt : Nat) (n : Bool) : Nat :=
  match floatFmt fmt with
  | some f => encodeFin f n (maxFin fmt).1 (maxFin fmt).2
  | none => if fmt = 5 then (if n then 0x80 else 0x7F) else if n then 0x8000_0000 else 0x7FFF_FFFF

/-- m × 2^e rounded to multiples of 2^q: to nearest even, or stochastically with the random number r (R178). -/
def roundAt (stoch : Option Nat) (m : Nat) (e q : Int) : Nat :=
  match stoch with
  | none => rneAt m e q
  | some r =>
    if q ≤ e then scaleTo m e q
    else
      let d := 2 ^ (q - e).toNat
      m / d + b2n (decide (65536 ≤ m % d * 65536 / d + r))

/-- The result of narrowing: the code, whether it saturated, whether a NaN poisons it (R177). -/
structure Narrow where
  code : Nat
  sat  : Bool
  nanp : Bool
deriving DecidableEq, Repr

/-- What the table of R177 gives for an overflow or an infinity of a sign. -/
def overflowTo (fmt : Nat) (sat : Bool) (n : Bool) : Narrow :=
  if fmt = 0 then (if sat then ⟨maxCode 0 n, true, false⟩ else ⟨0x7F, false, false⟩)
  else match floatFmt fmt with
    | some f => if f.top = 2 then ⟨infCode f n, false, false⟩ else ⟨maxCode fmt n, true, false⟩
    | none => ⟨maxCode fmt n, true, false⟩

/-- Rounding to a destination format (R177, R178). -/
def narrow (fmt : Nat) (sat : Bool) (stoch : Option Nat) (v : Fv) : Narrow :=
  match v with
  | .nan =>
    if fmt = 2 ∨ fmt = 3 ∨ fmt = 4 ∨ fmt = 5 ∨ fmt = 8 then ⟨0, false, true⟩ else ⟨nanCode fmt, false, false⟩
  | .inf n => overflowTo fmt sat n
  | .fin n m e =>
    match floatFmt fmt with
    | some f =>
      let q := ulpExp (f.mb + 1) (1 - (f.bias : Int) - f.mb) m e
      let r := roundAt stoch m e q
      let mx := maxFin fmt
      let z := min q mx.2
      if scaleTo mx.1 mx.2 z < scaleTo r q z then overflowTo fmt sat n
      else ⟨encodeFin f n r q, false, false⟩
    | none =>
      let r := roundAt stoch m e 0
      let lim := if fmt = 5 then 128 else 2 ^ 31
      if n then (if lim < r then overflowTo fmt sat n else ⟨intBits (fmtBits fmt) (-(r : Int)), false, false⟩)
      else if lim ≤ r then overflowTo fmt sat n else ⟨r, false, false⟩

/-- Rounding with saturation whatever SAT says (R193, R320): what overflows takes the largest finite value, in E5M2 too. -/
def narrowSat (fmt : Nat) (stoch : Option Nat) (v : Fv) : Narrow :=
  let k := narrow fmt true stoch v
  if fmt = 1 ∧ k.code % 128 = 0x7C then ⟨maxCode 1 (decide (128 ≤ k.code)), true, false⟩ else k

/-- The random number of R179 for element n of a command with stream index ix on tile t. -/
def stochRand (seed : W64) (t ix n : Nat) : Nat :=
  let z := seed ^^^ (BitVec.ofNat 64 t <<< 52) ^^^ (BitVec.ofNat 64 (ix % 2 ^ 32) <<< 20) ^^^ BitVec.ofNat 64 n
  let z := (z ^^^ (z >>> 31)) * 0x9E37_79B9_7F4A_7C15
  let z := (z ^^^ (z >>> 29)) * 0xD6E8_FEB8_6659_FD93
  let z := z ^^^ (z >>> 32)
  fld z 47 32

/-- Element n of packed data (R164): bits [b·n + b − 1 : b·n] of the little-endian bit string. -/
def elemAt (fmt : Nat) (bs : List Byte) (n : Nat) : Nat :=
  let b := fmtBits fmt
  leNat (slice bs (b * n / 8) 4) / 2 ^ (b * n % 8) % 2 ^ b

/-- Bytes that n packed elements take. -/
def packedBytes (fmt n : Nat) : Nat := cdiv (fmtBits fmt * n) 8

/-! ### The constants of R579 -/

/-- T[j] = RNE32(2^(j/64)) (R579). -/
def tabT : List W32 :=
  [0x3F800000, 0x3F8164D2, 0x3F82CD87, 0x3F843A29, 0x3F85AAC3, 0x3F871F62, 0x3F88980F, 0x3F8A14D5] ++
  [0x3F8B95C2, 0x3F8D1ADF, 0x3F8EA43A, 0x3F9031DC, 0x3F91C3D3, 0x3F935A2B, 0x3F94F4F0, 0x3F96942D] ++
  [0x3F9837F0, 0x3F99E046, 0x3F9B8D3A, 0x3F9D3EDA, 0x3F9EF532, 0x3FA0B051, 0x3FA27043, 0x3FA43516] ++
  [0x3FA5FED7, 0x3FA7CD94, 0x3FA9A15B, 0x3FAB7A3A, 0x3FAD583F, 0x3FAF3B79, 0x3FB123F6, 0x3FB311C4] ++
  [0x3FB504F3, 0x3FB6FD92, 0x3FB8FBAF, 0x3FBAFF5B, 0x3FBD08A4, 0x3FBF179A, 0x3FC12C4D, 0x3FC346CD] ++
  [0x3FC5672A, 0x3FC78D75, 0x3FC9B9BE, 0x3FCBEC15, 0x3FCE248C, 0x3FD06334, 0x3FD2A81E, 0x3FD4F35B] ++
  [0x3FD744FD, 0x3FD99D16, 0x3FDBFBB8, 0x3FDE60F5, 0x3FE0CCDF, 0x3FE33F89, 0x3FE5B907, 0x3FE8396A] ++
  [0x3FEAC0C7, 0x3FED4F30, 0x3FEFE4BA, 0x3FF28177, 0x3FF5257D, 0x3FF7D0DF, 0x3FFA83B3, 0x3FFD3E0C]

/-- R[j] = RNE32(1 / (1 + j/64)) (R579). -/
def tabR : List W32 :=
  [0x3F800000, 0x3F7C0FC1, 0x3F783E10, 0x3F74898D, 0x3F70F0F1, 0x3F6D7304, 0x3F6A0EA1, 0x3F66C2B4] ++
  [0x3F638E39, 0x3F607038, 0x3F5D67C9, 0x3F5A740E, 0x3F579436, 0x3F54C77B, 0x3F520D21, 0x3F4F6475] ++
  [0x3F4CCCCD, 0x3F4A4588, 0x3F47CE0C, 0x3F4565C8, 0x3F430C31, 0x3F40C0C1, 0x3F3E82FA, 0x3F3C5264] ++
  [0x3F3A2E8C, 0x3F381703, 0x3F360B61, 0x3F340B41, 0x3F321643, 0x3F302C0B, 0x3F2E4C41, 0x3F2C7692] ++
  [0x3F2AAAAB, 0x3F28E83F, 0x3F272F05, 0x3F257EB5, 0x3F23D70A, 0x3F2237C3, 0x3F20A0A1, 0x3F1F1166] ++
  [0x3F1D89D9, 0x3F1C09C1, 0x3F1A90E8, 0x3F191F1A, 0x3F17B426, 0x3F164FDA, 0x3F14F209, 0x3F139A86] ++
  [0x3F124925, 0x3F10FDBC, 0x3F0FB824, 0x3F0E7835, 0x3F0D3DCB, 0x3F0C08C1, 0x3F0AD8F3, 0x3F09AE41] ++
  [0x3F088889, 0x3F0767AB, 0x3F064B8A, 0x3F053408, 0x3F042108, 0x3F03126F, 0x3F020821, 0x3F010204]

/-- L[j] = RNE32(−log2 R[j]) (R579). -/
def tabL : List W32 :=
  [0x00000000, 0x3CB73CB3, 0x3D35D690, 0x3D8759C9, 0x3DB31FB7, 0x3DDE420E, 0x3E0462C4, 0x3E195751] ++
  [0x3E2E00D1, 0x3E42615F, 0x3E567AEF, 0x3E6A4F70, 0x3E7DE0B5, 0x3E88983F, 0x3E92203D, 0x3E9B8925] ++
  [0x3EA4D3C2, 0x3EAE00D1, 0x3EB71110, 0x3EC0052D, 0x3EC8DDD3, 0x3ED19BAF, 0x3EDA3F60, 0x3EE2C97E] ++
  [0x3EEB3A9E, 0x3EF39355, 0x3EFBD42A, 0x3F01FED4, 0x3F060828, 0x3F0A0650, 0x3F0DF98A, 0x3F11E20E] ++
  [0x3F15C01A, 0x3F1993E4, 0x3F1D5DA0, 0x3F211D84, 0x3F24D3C3, 0x3F28808D, 0x3F2C2410, 0x3F2FBE7F] ++
  [0x3F335004, 0x3F36D8CA, 0x3F3A58FE, 0x3F3DD0C9, 0x3F41404E, 0x3F44A7BB, 0x3F480731, 0x3F4B5ED6] ++
  [0x3F4EAECF, 0x3F51F740, 0x3F553847, 0x3F58720A, 0x3F5BA4A5, 0x3F5ED038, 0x3F61F4E5, 0x3F6512C6] ++
  [0x3F6829FA, 0x3F6B3AA0, 0x3F6E44CF, 0x3F7148A2, 0x3F744636, 0x3F773DA2, 0x3F7A2F03, 0x3F7D1A71]

/-- Q[j] = RNE32(1 / (1 + (j + 1/2) / 128)) (R579). -/
def tabQ : List W32 :=
  [0x3F7F00FF, 0x3F7D08E5, 0x3F7B1885, 0x3F792FB2, 0x3F774E40, 0x3F757404, 0x3F73A0D5, 0x3F71D48C] ++
  [0x3F700F01, 0x3F6E500F, 0x3F6C9791, 0x3F6AE564, 0x3F693965, 0x3F679373, 0x3F65F36D, 0x3F645933] ++
  [0x3F62C4A7, 0x3F6135AA, 0x3F5FAC1F, 0x3F5E27EB, 0x3F5CA8F1, 0x3F5B2F17, 0x3F59BA42, 0x3F584A5A] ++
  [0x3F56DF44, 0x3F5578E9, 0x3F541733, 0x3F52BA08, 0x3F516154, 0x3F500D01, 0x3F4EBCF9, 0x3F4D7127] ++
  [0x3F4C2978, 0x3F4AE5D8, 0x3F49A634, 0x3F486A79, 0x3F473294, 0x3F45FE74, 0x3F44CE08, 0x3F43A13E] ++
  [0x3F427806, 0x3F415250, 0x3F40300C, 0x3F3F112B, 0x3F3DF59D, 0x3F3CDD53, 0x3F3BC841, 0x3F3AB656] ++
  [0x3F39A786, 0x3F389BC3, 0x3F379301, 0x3F368D31, 0x3F358A48, 0x3F348A3A, 0x3F338CFA, 0x3F32927C] ++
  [0x3F319AB6, 0x3F30A59B, 0x3F2FB322, 0x3F2EC33E, 0x3F2DD5E6, 0x3F2CEB10, 0x3F2C02B0, 0x3F2B1CBE] ++
  [0x3F2A392F, 0x3F2957FB, 0x3F287917, 0x3F279C7B, 0x3F26C21E, 0x3F25E9F7, 0x3F2513FD, 0x3F244029] ++
  [0x3F236E72, 0x3F229ECF, 0x3F21D13A, 0x3F2105A9, 0x3F203C17, 0x3F1F747A, 0x3F1EAECD, 0x3F1DEB07] ++
  [0x3F1D2922, 0x3F1C6917, 0x3F1BAADF, 0x3F1AEE73, 0x3F1A33CD, 0x3F197AE7, 0x3F18C3BB, 0x3F180E41] ++
  [0x3F175A75, 0x3F16A850, 0x3F15F7CC, 0x3F1548E5, 0x3F149B93, 0x3F13EFD2, 0x3F13459C, 0x3F129CEC] ++
  [0x3F11F5BD, 0x3F115009, 0x3F10ABCC, 0x3F100901, 0x3F0F67A2, 0x3F0EC7AB, 0x3F0E2918, 0x3F0D8BE3] ++
  [0x3F0CF009, 0x3F0C5584, 0x3F0BBC51, 0x3F0B246B, 0x3F0A8DCD, 0x3F09F874, 0x3F09645C, 0x3F08D181] ++
  [0x3F083FDE, 0x3F07AF70, 0x3F072033, 0x3F069223, 0x3F06053C, 0x3F05797C, 0x3F04EEDD, 0x3F04655E] ++
  [0x3F03DCF9, 0x3F0355AD, 0x3F02CF75, 0x3F024A4E, 0x3F01C636, 0x3F014328, 0x3F00C122, 0x3F004020]

/-- S[j] = RNE32(1 / √(1 + (j + 1/2) / 32)) (R579). -/
def tabS : List W32 :=
  [0x3F7E05EC, 0x3F7A33F9, 0x3F768CDC, 0x3F730D8A, 0x3F6FB345, 0x3F6C7B90, 0x3F69642A, 0x3F666B02] ++
  [0x3F638E39, 0x3F60CC16, 0x3F5E2305, 0x3F5B9193, 0x3F59166B, 0x3F56B051, 0x3F545E22, 0x3F521ED0] ++
  [0x3F4FF162, 0x3F4DD4ED, 0x3F4BC89B, 0x3F49CBA2, 0x3F47DD45, 0x3F45FCD6, 0x3F4429AF, 0x3F426337] ++
  [0x3F40A8DE, 0x3F3EFA1C, 0x3F3D5671, 0x3F3BBD67, 0x3F3A2E8C, 0x3F38A975, 0x3F372DBF, 0x3F35BB09] ++
  [0x3F3450FC, 0x3F32EF41, 0x3F319589, 0x3F304387, 0x3F2EF8F2, 0x3F2DB587, 0x3F2C7904, 0x3F2B432A] ++
  [0x3F2A13C0, 0x3F28EA8C, 0x3F27C759, 0x3F26A9F4, 0x3F25922C, 0x3F247FD3, 0x3F2372BD, 0x3F226ABE] ++
  [0x3F2167AF, 0x3F206968, 0x3F1F6FC4, 0x3F1E7AA0, 0x3F1D89D9, 0x3F1C9D4E, 0x3F1BB4E1, 0x3F1AD073] ++
  [0x3F19EFE6, 0x3F191320, 0x3F183A05, 0x3F17647C, 0x3F16926C, 0x3F15C3BC, 0x3F14F857, 0x3F143026] ++
  [0x3F136B13, 0x3F12A90B, 0x3F11E9F9, 0x3F112DCA, 0x3F10746D, 0x3F0FBDCE, 0x3F0F09DD, 0x3F0E5889] ++
  [0x3F0DA9C2, 0x3F0CFD79, 0x3F0C539F, 0x3F0BAC25, 0x3F0B06FD, 0x3F0A641A, 0x3F09C36D, 0x3F0924EC] ++
  [0x3F088889, 0x3F07EE37, 0x3F0755ED, 0x3F06BF9E, 0x3F062B40, 0x3F0598C7, 0x3F05082A, 0x3F04795F] ++
  [0x3F03EC5C, 0x3F036117, 0x3F02D788, 0x3F024FA6, 0x3F01C967, 0x3F0144C4, 0x3F00C1B4, 0x3F004030]

/-- C1 = RNE32(ln 2) (R579). -/
def cC1 : W32 := 0x3F317218
/-- C2 = RNE32((ln 2)² / 2) (R579). -/
def cC2 : W32 := 0x3E75FDF0
/-- C3 = RNE32((ln 2)³ / 6) (R579). -/
def cC3 : W32 := 0x3D635847
/-- D1 = RNE32(1 / ln 2) (R579). -/
def cD1 : W32 := 0x3FB8AA3B
/-- D2 = RNE32(−1 / (2 ln 2)) (R579). -/
def cD2 : W32 := 0xBF38AA3B
/-- D3 = RNE32(1 / (3 ln 2)) (R579). -/
def cD3 : W32 := 0x3EF6384F
/-- D4 = RNE32(−1 / (4 ln 2)) (R579). -/
def cD4 : W32 := 0xBEB8AA3B

/-! ### The four functions (R189, R579) -/

/-- ⌊m × 2^e⌋ of a signed value. -/
def ffloor : Fv → Int
  | .fin n m e =>
    if 0 ≤ e then (if n then -(m * 2 ^ e.toNat : Nat) else (m * 2 ^ e.toNat : Nat))
    else
      let d := 2 ^ (-e).toNat
      if n then -(((m + d - 1) / d : Nat) : Int) else ((m / d : Nat) : Int)
  | _ => 0

/-- An entry of a table of FP32 constants. -/
def tab (t : List W32) (j : Nat) : Fv := of32 (t.getD j 0)

/-- EXP2 (R579) with the special cases of R189. -/
def exp2 (a : Fv) : Fv :=
  match a with
  | .nan => .nan
  | .inf n => if n then fzero false else .inf false
  | .fin .. =>
    if !(fltZ a (.fin false 128 0)) then .inf false
    else if fltZ a (.fin true 150 0) then fzero false
    else
      let k := ffloor (addX (fscale 6 a) (.fin false 1 (-1)))
      let r := subX a (fscale (-6) (ofInt k))
      let j := (k % 64).toNat
      let n := (k - j) / 64
      let u := fmul r (fadd (of32 cC1) (fmul r (fadd (of32 cC2) (fmul r (of32 cC3)))))
      let y := fadd (tab tabT j) (fmul (tab tabT j) u)
      rne32 (fscale n y)

/-- |A| = 2^e × x with 1 ≤ x < 2, exactly. -/
def normal (m : Nat) (e : Int) : Int × Fv :=
  let l : Int := (bitLen m : Int) - 1
  (e + l, .fin false m (-l))

/-- LOG2 (R579) with the special cases of R189. -/
def log2 (a : Fv) : Fv :=
  match a with
  | .nan => .nan
  | .inf n => if n then .nan else .inf false
  | .fin n m e =>
    if m = 0 then .inf true
    else if n then .nan
    else
      let ex := normal m e
      let j := (ffloor (fscale 6 (subX ex.2 (.fin false 1 0)))).toNat
      let t := rne32 (subX (mulX ex.2 (tab tabR j)) (.fin false 1 0))
      let p := fmul t (fadd (of32 cD1) (fmul t (fadd (of32 cD2) (fmul t (fadd (of32 cD3) (fmul t (of32 cD4)))))))
      fadd (fadd (ofInt ex.1) (tab tabL j)) p

/-- RCP (R579) with the special cases of R189. -/
def rcp (a : Fv) : Fv :=
  match a with
  | .nan => .nan
  | .inf n => fzero n
  | .fin n m e =>
    if m = 0 then .inf n
    else
      let ex := normal m e
      let j := (ffloor (fscale 7 (subX ex.2 (.fin false 1 0)))).toNat
      let it := fun y : Fv =>
        let d := rne32 (subX (.fin false 1 0) (mulX ex.2 y))
        fadd y (fmul y d)
      let y := it (it (tab tabQ j))
      let r := rne32 (fscale (-ex.1) y)
      if n then fneg r else r

/-- RSQRT (R579) with the special cases of R189. -/
def rsqrt (a : Fv) : Fv :=
  match a with
  | .nan => .nan
  | .inf n => if n then .nan else fzero false
  | .fin n m e =>
    if m = 0 then .inf n
    else if n then .nan
    else
      let ex := normal m e
      let f := ex.1 / 2
      let z := fscale (ex.1 - 2 * f) ex.2
      let j := (ffloor (fscale 5 (subX z (.fin false 1 0)))).toNat
      let it := fun y : Fv =>
        let h := fmul z y
        let d := rne32 (subX (.fin false 1 0) (mulX h y))
        fadd y (fmul (fmul y d) (.fin false 1 (-1)))
      fscale (-f) (it (it (tab tabS j)))

/-! ### Reductions (R190) -/

/-- Combine neighbours pairwise until one remains; a lone last member passes on. -/
def pairStep (f : Fv → Fv → Fv) : List Fv → List Fv
  | a :: b :: r => f a b :: pairStep f r
  | r => r

/-- The pair tree over at most 64 lane results. -/
def pairTree (f : Fv → Fv → Fv) (xs : List Fv) : Fv :=
  ((List.range 6).foldl (fun l _ => pairStep f l) xs).headD (fzero false)

/-- A lane's elements combined in increasing order, starting from its first. -/
def laneFold (f : Fv → Fv → Fv) : List Fv → Option Fv
  | [] => none
  | x :: xs => some (xs.foldl f x)

/-- The reduction of R190: lane l takes elements l, l + w, l + 2w, …, and the lanes combine in the pair tree. -/
def reduce (f : Fv → Fv → Fv) (w : Nat) (xs : List Fv) : Fv :=
  pairTree f ((List.range (min w xs.length)).filterMap (fun l =>
    laneFold f ((List.range (cdiv (xs.length - l) w)).map (fun i => xs.getD (l + w * i) (fzero false)))))

/-- RSUM (R190). -/
def rsum (xs : List Fv) : Fv := reduce fadd 64 xs
/-- RMAX (R190). -/
def rmax (xs : List Fv) : Fv := reduce fmax 64 xs
/-- SUM: terms one at a time in order, starting from the first (R299). -/
def seqSum : List Fv → Fv
  | [] => fzero false
  | x :: xs => xs.foldl fadd x

end Sys2Proof.Machine
end

