-- ==== Sys2Proof/Machine/Operands.lean ====
section
/-! DEFINITION. The operands of tile commands: the common header (R119), handles (R208 to R213), the footprints and ranges they
give (R210, R218), accumulator rows (R131, R132), and accesses through a tile's router port (R204). -/
namespace Sys2Proof.Machine

/-! ### The header (R119) -/

/-- Word n of a queued command. -/
def QCmd.w (q : QCmd) (n : Nat) : W64 := cmdWord q.words n
/-- OPCODE. -/
def QCmd.op (q : QCmd) : Nat := fld (q.w 0) 63 56
/-- OPCODE as a byte. -/
def QCmd.opB (q : QCmd) : Byte := BitVec.ofNat 8 q.op
/-- SAT. -/
def QCmd.sat (q : QCmd) : Bool := bit (q.w 0) 55
/-- STOCH. -/
def QCmd.stoch (q : QCmd) : Bool := bit (q.w 0) 54
/-- OPFLAGS, its bit 0 being header bit [48]. -/
def QCmd.flags (q : QCmd) : Nat := fld (q.w 0) 53 48
/-- An OPFLAGS bit by its header bit number. -/
def QCmd.flag (q : QCmd) (i : Nat) : Bool := bit (q.w 0) i
/-- GEN. -/
def QCmd.gen (q : QCmd) : BitVec 4 := BitVec.ofNat 4 (fld (q.w 0) 47 44)
/-- SEQ. -/
def QCmd.seq (q : QCmd) : BitVec 12 := BitVec.ofNat 12 (fld (q.w 0) 43 32)
/-- The command id: GEN and SEQ together. -/
def QCmd.id (q : QCmd) : W16 := BitVec.ofNat 16 (fld (q.w 0) 47 32)
/-- LAUNCH. -/
def QCmd.launch (q : QCmd) : Nat := fld (q.w 0) 31 0

/-! ### Handles (R208) -/

/-- A handle entry's fields. -/
structure Hnd where
  kind  : Nat
  map   : Nat
  aow   : Bool
  int32 : Bool
  ncon  : Nat
  hold  : Nat
  base  : Nat
  pitch : Nat
  slot  : Nat
  size  : Nat
deriving DecidableEq, Repr

/-- The fields of an entry's two words. -/
def hndOf (e : W64 × W64) : Hnd :=
  { kind := fld e.1 63 62, map := fld e.1 61 60, aow := bit e.1 59, int32 := bit e.1 58, ncon := fld e.1 57 54,
    hold := fld e.1 53 48, base := fld e.1 47 0, pitch := fld e.2 63 54, slot := fld e.2 51 48, size := fld e.2 40 0 }

/-- Handle n of a tile. -/
def Tile.hnd (t : Tile) (n : Nat) : Hnd := hndOf (tblGet (0, 0) t.handles n)

/-- A handle as this module serves it: a tray handle of its own slot is module memory (R346). -/
def Chip.serve (c : Chip) (h : Hnd) : Hnd := if h.kind = 3 ∧ h.slot = c.tray.self.toNat then { h with kind := 2 } else h

/-- A tile's handle as this module serves it. -/
def Chip.hnd (c : Chip) (t n : Nat) : Hnd := c.serve ((c.tile t).hnd n)

/-- The physical scratchpad offset of byte o of a KIND 0b01 buffer (R211, R212). -/
def Hnd.phys (h : Hnd) (o : Nat) : Nat :=
  if h.map = 1 then
    let w := o / 32
    let row := w / (32 * h.pitch)
    let cw := w % (32 * h.pitch)
    (h.base / 1024 + row * h.pitch + cw / 32) * 1024 + (cw + row) % 32 * 32 + o % 32
  else h.base + o

/-- The local address of byte o of a buffer of tile t (R200, R208). -/
def Hnd.addr (h : Hnd) (t o : Nat) : Nat := if h.kind = 1 then spdBase + t * 0x8_0000 + h.phys o else h.base + o

/-- The local address ranges of bytes o to o + n − 1: one for a linear buffer, one for each word of a diagonal one. -/
def Hnd.ranges (h : Hnd) (t o n : Nat) : List (Nat × Nat) :=
  if n = 0 then []
  else if h.kind = 1 ∧ h.map = 1 then
    (unitsOf 32 o n).map (fun w => (h.addr t (max o (w * 32)), min (o + n) (w * 32 + 32) - max o (w * 32)))
  else [(h.addr t o, n)]

/-- Whether a footprint lies in the buffer (R210). -/
def Hnd.fits (h : Hnd) (o n : Nat) : Bool := decide (o + n ≤ h.size)

/-- The scratchpad granules a footprint counts as (R218): a diagonal buffer counts as every line it touches. -/
def Hnd.grans (h : Hnd) (o n : Nat) : NatSet :=
  if h.kind ≠ 1 ∨ n = 0 then []
  else if h.map = 1 then
    ((unitsOf 32 o n).map (fun w => h.phys (w * 32) / 1024)).eraseDups.flatMap (fun l => (List.range 16).map (· + l * 16))
  else unitsOf 64 (h.base + o) n

/-! ### The scoreboard (R217, R218) -/

/-- Whether any of the granules is in a live entry. -/
def Tile.sbHit (t : Tile) (gs : NatSet) : Bool := t.sb.any (fun e => e.grans.any (fun g => gs.contains g))
/-- Whether all 16 entries are live. -/
def Tile.sbFull (t : Tile) : Bool := decide (16 ≤ t.sb.length)
/-- Take an entry for a command's write footprint. -/
def Tile.sbTake (t : Tile) (gs : NatSet) (owner : Nat) : Tile := { t with sb := t.sb ++ [⟨gs, owner⟩] }
/-- Release a command's entry. -/
def Tile.sbFree (t : Tile) (owner : Nat) : Tile := { t with sb := t.sb.filter (fun e => e.owner != owner) }

/-! ### Accumulator rows -/

/-- The accumulator buffers, the first row and the rows that a MATMUL in array a's queue has still to write (R132, R139): buffer,
row, rows. -/
def MCmd.accRows (m : MCmd) (a : Nat) : List (Nat × Nat × Nat) :=
  if m.cmd.op = 0x10 then
    (if m.mode = 3 then [0] else if m.mode = 4 then [0, 1] else [a]).map (fun b =>
      (b, fld (m.cmd.w 3) 54 48 + m.done, fld (m.cmd.w 3) 39 32 - m.done))
  else []

/-- The arrays through which a gang mode writes a buffer (R139). -/
def feeders (mode buf : Nat) : List Nat := if mode = 3 then [0, 1, 2, 3] else if mode = 4 then [buf, buf + 2] else [buf]

/-- The four array queues. -/
def Tile.queues (t : Tile) : List (List MCmd) := [t.a0.queue, t.a1.queue, t.a2.queue, t.a3.queue]

/-- Whether a MATMUL in flight that passes a test will still write one of rows [row, row + n) of a buffer (R132). -/
def Tile.accPending (t : Tile) (test : MCmd → Bool) (buf row n : Nat) : Bool :=
  t.queues.zipIdx.any (fun q => q.1.any (fun m => test m && (m.accRows q.2).any (fun r => r.1 == buf && overlap r.2.1 r.2.2 row n)))

/-- Whether rows [row, row + n) of a buffer will still be written by a matrix command in flight (R132). -/
def Tile.accBusy (t : Tile) (buf row n : Nat) : Bool := t.accPending (fun _ => true) buf row n

/-- One accumulator row: its 16 words. -/
def Arr.row (x : Arr) (r : Nat) : List W32 := tblGet (List.replicate 16 0) x.acc r
/-- Replace an accumulator row. -/
def Arr.setRow (x : Arr) (r : Nat) (ws : List W32) (pz : Bool) : Arr :=
  { x with acc := tblPut (List.replicate 16 0) x.acc r ws, accErr := setDel x.accErr r,
           accPoison := if pz then setAdd x.accPoison r else setDel x.accPoison r }
/-- Whether a row reads as poisoned: marked, or holding an uncorrectable error (R131). -/
def Arr.rowPoison (x : Arr) (r : Nat) : Bool := x.accPoison.contains r || x.accErr.contains r
/-- Bytes [o, o + n) of an accumulator buffer. -/
def Arr.bytes (x : Arr) (o n : Nat) : List Byte :=
  slice ((unitsOf 64 o n).flatMap (fun r => (x.row r).flatMap (fun w => leBytes 4 w.toNat))) (o % 64) n
/-- Write bytes into an accumulator buffer from offset o: each row written keeps its other bytes and takes the poison mark. -/
def Arr.writeBytes (x : Arr) (o : Nat) (bs : List Byte) (pz : Nat → Bool) : Arr :=
  (unitsOf 64 o bs.length).foldl (fun x r =>
    let old := (x.row r).flatMap (fun w => leBytes 4 w.toNat)
    let new := (List.range 64).map (fun i =>
      if o ≤ r * 64 + i ∧ r * 64 + i < o + bs.length then bs.getD (r * 64 + i - o) 0 else old.getD i 0)
    let whole := decide (o ≤ r * 64) && decide (r * 64 + 64 ≤ o + bs.length)
    x.setRow r ((List.range 16).map (fun i => BitVec.ofNat 32 (leNat (slice new (4 * i) 4))))
      (pz r || (!whole && x.rowPoison r))) x

/-! ### Writes in pieces -/

/-- Cut a range into pieces that do not cross a multiple of u. -/
def cutRange (u a n : Nat) : List (Nat × Nat) :=
  (unitsOf u a n).map (fun k => (max a (k * u), min (a + n) (k * u + u) - max a (k * u)))

/-- Write pieces, each with its address, bytes and poison: what a piece covers in part is merged with what is stored, and every granule that
receives a byte of a poisoned piece ends marked, whatever clean pieces it also receives (R259, R272). -/
def Chip.writeBy (c : Chip) (by_ : Reader) (ps : List (Nat × List Byte × Bool)) : Chip :=
  let c := ps.foldl (fun c p => ((c.merge p.1 p.2.1.length by_).write p.1 p.2.1 false).checkWrite by_ p.1 p.2.1.length) c
  (ps.filter (fun p => p.2.2)).foldl (fun c p => c.write p.1 p.2.1 true) c

/-- Write pieces for an unscheduled request that is not the run's. -/
def Chip.writePieces (c : Chip) (ps : List (Nat × List Byte × Bool)) : Chip := c.writeBy otherReader ps

/-- The pieces, by 64 B granule, of bytes written from offset o of a handle's buffer; pz says whether bytes i to i + n − 1 of the
data hold a poisoned result. -/
def Hnd.pieces (h : Hnd) (t o : Nat) (bs : List Byte) (pz : Nat → Nat → Bool) : List (Nat × List Byte × Bool) :=
  let go := (h.ranges t o bs.length).foldl (fun (acc : Nat × List (Nat × List Byte × Bool)) r =>
    let cut := (cutRange 64 r.1 r.2).foldl (fun (b : Nat × List (Nat × List Byte × Bool)) p =>
      (b.1 + p.2, b.2 ++ [(p.1, slice bs b.1 p.2, pz b.1 p.2)])) (acc.1, [])
    (cut.1, acc.2 ++ cut.2)) (0, [])
  go.2

/-! ### Router ports (R204) -/

/-- Words of the window that ranges touch, as words of a port access. -/
def portWords (rs : List (Nat × Nat)) : List (Nat × Bool) :=
  ((rs.flatMap (fun r => unitsOf 32 (r.1 - spdBase) r.2)).eraseDups).map (fun w => (w, false))

/-- An access reaches a tile's port, behind those that reach it no later. -/
def Chip.addPort (c : Chip) (t : Nat) (j : PortJob) : Chip :=
  c.updTile t (fun x => { x with port := x.port.takeWhile (fun y => decide (y.from_ ≤ j.from_)) ++ j :: x.port.dropWhile (fun y => decide (y.from_ ≤ j.from_)) })

/-- The scratchpad parts of ranges by tile. -/
def byTile (rs : List (Nat × Nat)) : List (Nat × List (Nat × Nat)) :=
  let rs := rs.filter (fun r => inSpd r.1 && decide (0 < r.2))
  ((rs.map (fun r => spdTile r.1)).eraseDups).map (fun t => (t, rs.filter (fun r => spdTile r.1 = t)))

/-- An access of a step that has moved its data takes its slots of the ports of the tiles it reaches. -/
def Chip.takePort (c : Chip) (cls : Nat) (rs : List (Nat × Nat)) : Chip :=
  (byTile rs).foldl (fun c p => c.addPort p.1 ⟨cls, c.nowAc, portWords p.2, 0, .slots⟩) c

end Sys2Proof.Machine
end

