-- ==== Sys2Proof/Machine/Issue.lean ====
section
/-! DEFINITION. Issue: when a tile's next command issues (R58 to R61, R466), the order of its checks (R577), what a late command
leaves (R61), and the ordering commands WAIT, SIGNAL and FENCE (R364 to R369, R375). -/
namespace Sys2Proof.Machine

/-- The opcodes that R121 allocates and their chapters define. -/
def opDefined (op : Nat) : Bool :=
  [0x01, 0x02, 0x03, 0x10, 0x11, 0x12, 0x13, 0x20, 0x21, 0x22, 0x23, 0x24, 0x25, 0x26, 0x28, 0x29, 0x2A, 0x2B,
   0x30, 0x31, 0x32, 0x33, 0x34, 0x35, 0x36, 0x40, 0x41, 0x42, 0x43, 0x50, 0x58, 0x59].contains op

/-- Whether any of the given fields of word n is not zero. -/
def QCmd.resv (q : QCmd) (n : Nat) (fs : List (Nat × Nat)) : Bool := fs.any (fun f => fld (q.w n) f.1 f.2 != 0)

/-- What an opcode's own checks say of a command: a reserved field or OPFLAGS bit not 0; whether R120 allows SAT and STOCH; a
flag that R246 does not allow; and the cases of its list in order, each with its cause. -/
structure Checks where
  reserved : Bool
  narrow   : Bool
  flagErr  : Bool
  own      : List (Bool × Byte)

/-- The cause of the first case that holds. -/
def firstCase : List (Bool × Byte) → Option Byte
  | [] => none
  | (b, c) :: r => if b then some c else firstCase r

/-- The first rule a command breaks, in the order of R577, after its opcode. -/
def Checks.first (k : Checks) (t : Tile) (q : QCmd) : Option Byte :=
  if q.genBad || q.resv 1 [(63, 32)] || k.reserved then some 0x02
  else if q.seq ≠ t.nextSeq then some 0x03
  else if (q.sat || q.stoch) && !k.narrow then some 0x04
  else if k.flagErr then some 0x0A
  else firstCase k.own

/-- One opcode at issue: its checks, what it waits for (R578), the errors that depend on state when it would issue, and what its
issue does. -/
structure Issue where
  checks : Chip → Nat → QCmd → Checks
  hold   : Chip → Nat → QCmd → Hold
  late   : Chip → Nat → QCmd → Option Byte
  run    : Chip → Nat → QCmd → Chip

/-- The step boundary's mark at this module (R66). -/
def Chip.boundaryMark (c : Chip) (r : Run) (i : Nat) : Nat := c.mark (r.steps.getD i r.endOff)

/-- The latest boundary a tile has taken a shadow of (R466); the state at launch is the shadow of boundary 0. -/
def Tile.shadowStep (t : Tile) : Nat :=
  max (match t.pendShadow with | some s => s.step | none => 0) (match t.commShadow with | some s => s.step | none => 0)

/-- Whether R466 holds a command: a commit boundary at or before its launch mark whose shadow is not yet taken. -/
def Chip.commitHold (c : Chip) (r : Run) (t : Tile) (mark : Nat) : Bool :=
  r.commits.any (fun b => decide (t.shadowStep < b) && decide (c.boundaryMark r b ≤ mark))

/-- Whether the head command's launch mark is reached, and the command may issue by R59 and R81: its tile runs, the mark is not
held by a cut, and the time base is aligned: from LOST on nothing launches by mark until it is aligned again (R45, R56). -/
def Chip.markReached (c : Chip) (t : Nat) (q : QCmd) : Bool :=
  (c.tile t).st == .running && c.runsOn t && decide (c.mark q.launch ≤ c.now) && !c.cutHolds (c.mark q.launch) &&
  c.timed

/-- What holds the head besides its own waits (item 5 of R578): R466 and R512. -/
def Chip.otherHold (c : Chip) (t : Nat) (q : QCmd) : Bool :=
  (c.tile t).watchHold || (match c.run with | some r => c.commitHold r (c.tile t) (c.mark q.launch) | none => true)

/-- The command at the head of a tile's queue, if it may issue in this arithmetic cycle: at most one a cycle. -/
def Chip.readyHead (c : Chip) (t : Nat) : Option QCmd :=
  match (c.tile t).queue with
  | [] => none
  | q :: _ => if c.markReached t q && !c.otherHold t q && decide ((c.tile t).lastIssueAc < c.nowAc) then some q else none

/-- A late launch (R61): counted at the tile and the module, shown, and raised once per run per tile. -/
def Chip.lateLaunch (c : Chip) (t : Nat) (id : W16) (by_ : Nat) : Chip :=
  let first := !(c.tile t).lateRaised
  let c := c.updTile t (fun x => { x with cnt := { x.cnt with late := x.cnt.late + 1 }, lateBit := true, lateRaised := true })
  let c := { c with tide := { c.tide with lateCnt := c.tide.lateCnt + 1, launchLate := true } }
  if first then c.evTile t 0x0104 (mkWord [(48, 16, id.toNat)]) (BitVec.ofNat 64 by_) else c

/-- Take the head out of the queue: the stream index and the expected SEQ advance (R122, R180). -/
def Tile.popHead (t : Tile) (ac : Nat) : Tile :=
  { t with queue := t.queue.drop 1, idx := t.idx + 1, nextSeq := t.nextSeq + 1, lastIssueAc := ac }

/-- A command issues: it leaves the queue and, after its mark, counts as late. -/
def Chip.issued (c : Chip) (t : Nat) (q : QCmd) : Chip :=
  let c := c.updTile t (fun x => x.popHead c.nowAc)
  if c.mark q.launch < c.now then c.lateLaunch t q.id (c.now - c.mark q.launch) else c

/-- A descriptor error at issue (R126). -/
def Chip.descError (c : Chip) (t : Nat) (q : QCmd) (cause : Byte) : Chip := c.tileViolation t cause q.id q.opB 0

/-- Record a command in the outbound ledger (R469): once, up to 65,536 entries. -/
def Chip.ledgerAdd (c : Chip) (t idx : Nat) : Chip :=
  if c.recov.ledger.contains (t, idx) || c.run.isNone then c
  else if 65536 ≤ c.recov.ledger.length then { c with recov := { c.recov with ledgerFull := true } }
  else { c with recov := { c.recov with ledger := c.recov.ledger ++ [(t, idx)] } }

/-- Record it if it goes to a tray slot outside the ring. -/
def Chip.ledgerTray (c : Chip) (slot t idx : Nat) : Chip := if c.recov.ringSlots.getLsbD slot then c else c.ledgerAdd t idx

/-- A command that the ledger holds completes at issue (R477): it sends nothing and advances DONE_SYNC as its completion would. -/
def Chip.ledgerDone (c : Chip) (t : Nat) (q : QCmd) : Chip :=
  if q.op = 0x02 then c
  else c.doneSync t q.id q.opB (fld (q.w 5) 5 0)
    ((if q.op = 0x41 then max 1 (fld (q.w 7) 12 0) else 1) * fld (q.w 4) 23 0 * 32) 1

/-- Issue the head of tile t if it is a command of these opcodes. A poisoned command and one whose opcode is not defined are
descriptor errors whichever issue step finds them (R118, R121; log 12). -/
def issueRow (i : Issue) (ops : Nat → Bool) (t : Nat) (c : Chip) : Chip :=
  match c.readyHead t with
  | none => c
  | some q =>
    if q.poisoned then c.descError t q 0x0A
    else if !opDefined q.op then c.descError t q 0x01
    else if !ops q.op then c
    else match (i.checks c t q).first (c.tile t) q with
      | some e => c.descError t q e
      | none =>
        if i.hold c t q ≠ Hold.none then c
        else match i.late c t q with
          | some e => c.descError t q e
          | none =>
            if c.recov.ledger.contains (t, q.idx) then (c.issued t q).ledgerDone t q else i.run (c.issued t q) t q

/-- A record of kind 0 (R496): the command reaches the head and issues. -/
def Chip.traceIssue (c : Chip) (t : Nat) (q : QCmd) : Chip :=
  let c := c.traceTile 0 t 0x01 0 false (q.w 0) (q.w 1) 0 0
  c.traceTile 0 t 0x02 0 false (q.w 0) (q.w 1) 0 (BitVec.ofNat 64 (c.now - c.mark q.launch))

/-! ### QUEUE_FETCH (R118, R123) -/

/-- Take the next command of a tile's stream, whose burst its channel has granted: the queue holds at most 1,024; the tile's generation replaces GEN. -/
def queueFetch (t : Nat) (c : Chip) : Chip :=
  let x := c.tile t
  Chip.when (x.st == .running && c.runsOn t && decide (x.fetched < x.streamLen) && decide (x.queue.length < 1024) && x.fetchGot)
    (fun c =>
      let r := c.fetch (x.streamAt + 64 * x.fetched) 64 (tileReader true)
      let ws := bytesWords 8 r.2.1
      let w0 := cmdWord ws 0
      let g := fld w0 47 44
      let w0' := w0 - BitVec.ofNat 64 (g * 2 ^ 44) + BitVec.ofNat 64 (x.gen.toNat * 2 ^ 44)
      let q : QCmd := ⟨w0' :: ws.drop 1, x.fetched, r.2.2, g != 0⟩
      r.1.updTile t (fun y => { y with fetched := y.fetched + 1, fetchGot := false, queue := y.queue ++ [q] })) c
/-- QUEUE_FETCH. -/
def execQueueFetch (t : TileId) (s : State) : Host.Outcome State Fault Refusal := onChip (queueFetch t.toNat) s

/-! ### What FENCE and SIGNAL wait for (R366, R367) -/

/-- The smallest scope that holds a transfer's destination (R361): its own tile, by whatever address, this module, the tray, a ring or the
domain. -/
def Chip.xferScope (c : Chip) (t : Nat) (q : QCmd) : Nat :=
  let route := fld (q.w 4) 55 53
  if q.op = 0x43 then 3
  else if route ≥ 6 then 4 else if route ≥ 4 then 3
  else
    let h := c.hnd t (fld (q.w 3) 46 41)
    if h.kind = 1 then 0
    else if h.kind = 2 then (if within (h.base + fld (q.w 3) 40 0) 1 (spdBase + t * 0x8_0000) 0x8_0000 then 0 else 1)
    else 2

/-- The transfers a stream holds. -/
def Stream.held (x : Stream) : List Xfer := x.active.toList ++ x.waiting.toList

/-- Whether an earlier transfer of the tile whose destination lies inside a scope is not complete, or an earlier push's source
not read. -/
def Chip.xferOpen (c : Chip) (t : Nat) (scope : Nat) : Bool :=
  let x := c.tile t
  x.streams.any (fun e => e.2.held.any (fun y => decide (c.xferScope t y.cmd ≤ scope))) ||
  (decide (3 ≤ scope) && (c.pushes.e ++ c.pushes.w).any (fun p => p.tile == t && !p.read))

/-- Whether any matrix command is in an array queue or has outputs to write. -/
def Tile.matrixOpen (t : Tile) : Bool := t.queues.any (fun q => !q.isEmpty)

/-- Whether FENCE's classes (its word 0x10's low four bits) hold it. -/
def Chip.fenceHolds (c : Chip) (t : Nat) (classes scope : Nat) : Bool :=
  let x := c.tile t
  (decide (classes % 2 = 1) && x.matrixOpen) || (decide (classes / 2 % 2 = 1) && x.vec.isSome) ||
  (decide (classes / 4 % 2 = 1) && c.xferOpen t scope) || (decide (classes / 8 % 2 = 1) && !x.attns.isEmpty)

/-! ### WAIT (R365, R375) -/

/-- WAIT's checks (R364, R365, R368). -/
def waitChecks (_c : Chip) (_t : Nat) (q : QCmd) : Checks :=
  { reserved := decide (q.flags ≠ 0) || q.resv 2 [(31, 16), (12, 10), (7, 6)] || q.resv 3 [(63, 0)] || q.resv 4 [(63, 0)] ||
      q.resv 5 [(63, 0)] || q.resv 6 [(63, 0)] || q.resv 7 [(63, 0)],
    narrow := false, flagErr := false,
    own := [(decide (48 ≤ fld (q.w 2) 5 0), 0x09),
            (decide (2 ≤ fld (q.w 2) 9 8) || decide (5 ≤ fld (q.w 2) 15 13), 0x0A)] }

/-- Whether a WAIT's condition holds in an ac, on what earlier ac left (R357, R359). -/
def waitMet (x : Tile) (ac : Nat) (q : QCmd) : Bool :=
  let n := ((x.sync (fld (q.w 2) 5 0)).seen ac).1
  let tgt := BitVec.ofNat 32 (fld (q.w 2) 63 32)
  if fld (q.w 2) 9 8 = 0 then reached n tgt else n == tgt

/-- A satisfied WAIT compares scopes (R375): the satisfying update's with its path's, and its own with the path's. -/
def Chip.scopeCheck (c : Chip) (t : Nat) (q : QCmd) : Chip :=
  let o := fld (q.w 2) 5 0
  let y := ((c.tile t).sync o).seen c.nowAc
  let scope := y.2.1
  let path := y.2.2
  let acq := fld (q.w 2) 15 13
  if scope.toNat < path.toNat ∨ acq < path.toNat then
    let raised := (c.tile t).scopeRaised.contains o
    let c := c.updTile t (fun x => { x with cnt := { x.cnt with scope := x.cnt.scope + 1 } })
    if c.visOpen && !raised then
      (c.updTile t (fun x => { x with scopeRaised := setAdd x.scopeRaised o })).evTile t 0x0206
        (mkWord [(48, 16, q.id.toNat), (42, 6, o), (39, 3, scope.toNat), (36, 3, acq), (33, 3, path.toNat)]) 0
    else c
  else c

/-- WAIT at issue. -/
def waitIssue : Issue :=
  { checks := waitChecks, hold := fun c t q => if waitMet (c.tile t) c.nowAc q then .none else .wait, late := fun _ _ _ => none,
    run := fun c t q => (c.scopeCheck t q).traceIssue t q }
/-- WAIT. -/
def execWait (t : TileId) (s : State) : Host.Outcome State Fault Refusal := onChip (issueRow waitIssue (· == 0x01) t.toNat) s

/-! ### FENCE (R366) -/

/-- FENCE's checks. -/
def fenceChecks (_c : Chip) (_t : Nat) (q : QCmd) : Checks :=
  { reserved := decide (q.flags ≠ 0) || q.resv 2 [(63, 8), (4, 4)] || q.resv 3 [(63, 0)] || q.resv 4 [(63, 0)] ||
      q.resv 5 [(63, 0)] || q.resv 6 [(63, 0)] || q.resv 7 [(63, 0)],
    narrow := false, flagErr := false,
    own := [(decide (5 ≤ fld (q.w 2) 7 5), 0x0A), (decide (fld (q.w 2) 3 0 = 0), 0x09)] }
/-- FENCE at issue. -/
def fenceIssue : Issue :=
  { checks := fenceChecks,
    hold := fun c t q => if c.fenceHolds t (fld (q.w 2) 3 0) (fld (q.w 2) 7 5) then .wait else .none,
    late := fun _ _ _ => none, run := fun c t q => c.traceIssue t q }
/-- FENCE. -/
def execFence (t : TileId) (s : State) : Host.Outcome State Fault Refusal := onChip (issueRow fenceIssue (· == 0x03) t.toNat) s

/-! ### SIGNAL (R367) -/

/-- The PCIe address of a local address of a tray slot (R347). -/
def Chip.trayPcie (c : Chip) (slot a : Nat) : W64 :=
  if inLp a then BitVec.ofNat 64 ((tblGet 0 c.tray.bar4 slot).toNat * 2 ^ 40 + (a - lpBase))
  else BitVec.ofNat 64 ((tblGet 0 c.tray.bar2 slot).toNat * 2 ^ 32 + a)

/-- Whether tray accesses to a slot are refused (R348). -/
def Chip.trayRefuses (c : Chip) (slot : Nat) : Bool := !c.tray.enable || !c.tray.valid.getLsbD slot

/-- The local address of a sync port (R337). -/
def portAddr (t o : Nat) : Nat := 0x6000_0000 + t * 0x200 + o * 8

/-- A sync port word (R360). -/
def portWord (op scope pkts val : Nat) : List Byte := leBytes 8 (mkWord [(62, 2, op), (59, 3, scope), (32, 16, pkts), (0, 32, val)]).toNat

/-- SIGNAL's checks. -/
def signalChecks (c : Chip) (_t : Nat) (q : QCmd) : Checks :=
  let route := fld (q.w 2) 63 61
  let op := fld (q.w 2) 31 30
  let o := fld (q.w 2) 5 0
  let tgt := fld (q.w 2) 43 32
  let m := ((c.tile tgt).sync o).mode
  { reserved := decide (q.flags ≠ 0) || q.resv 2 [(60, 52), (47, 44), (26, 6)] || q.resv 3 [(63, 32)] || q.resv 4 [(63, 0)] ||
      q.resv 5 [(63, 0)] || q.resv 6 [(63, 0)] || q.resv 7 [(63, 0)] || (decide (route ≠ 1) && decide (fld (q.w 2) 51 48 ≠ 0)),
    narrow := false, flagErr := false,
    own := [(decide (48 ≤ o), 0x09),
            (decide (2 ≤ op) || route == 2 || route == 3 || decide (5 ≤ fld (q.w 2) 29 27), 0x0A),
            (route == 1 && c.trayRefuses (fld (q.w 2) 51 48), 0x0A),
            (route == 0 && (if op = 0 then (m == 1 || m == 2) else m != 0), 0x0A)] }

/-- A SIGNAL transaction (R406). -/
def signalBytes (pver kind id tile scope obj val : Nat) : List Byte :=
  wordsBytes [txnHead 4 pver kind 0, mkWord [(48, 16, id), (36, 12, tile), (33, 3, scope), (0, 6, obj)], mkWord [(0, 32, val)], 0]

/-- Put a SIGNAL on a strait's VC-C. -/
def Chip.sendSignal (c : Chip) (st : Strait) (kind id tile scope obj val : Nat) (tag : TxTag) : Chip :=
  c.sendVc st 2 ⟨⟨signalBytes (c.str st).pver.toNat kind id tile scope obj val, []⟩, none, tag, 0, c.nowAc⟩

/-- The strait of a ROUTE code with its high bit set (R247, R367). -/
def routeStrait (route : Nat) : Strait := if route = 4 then .e else if route = 5 then .w else if route = 6 then .x0 else .x1

/-- Send the update: through the fabric, to a tray slot's sync port, or over a strait. -/
def signalRun (c : Chip) (t : Nat) (q : QCmd) : Chip :=
  let route := fld (q.w 2) 63 61
  let slot := fld (q.w 2) 51 48
  let tgt := fld (q.w 2) 43 32
  let op := fld (q.w 2) 31 30
  let scope := fld (q.w 2) 29 27
  let o := fld (q.w 2) 5 0
  let v := fld (q.w 3) 31 0
  let c := c.traceIssue t q
  if route = 0 ∨ (route = 1 ∧ slot = c.tray.self.toNat) then
    c.syncLocal t q.id q.opB tgt o (if op = 0 then .add (BitVec.ofNat 32 v) else .set (BitVec.ofNat 32 v)) (BitVec.ofNat 3 scope)
  else if route = 1 then
    (c.send (.trayWrite (BitVec.ofNat 4 slot) (c.trayPcie slot (portAddr tgt o)) (portWord op scope 0 v) false)).ledgerTray slot t q.idx
  else c.sendSignal (routeStrait route) op q.id.toNat tgt scope o v (.signal t q.idx)

/-- SIGNAL at issue. -/
def signalIssue : Issue :=
  { checks := signalChecks,
    hold := fun c t q => if c.fenceHolds t 15 (fld (q.w 2) 29 27) then .wait else .none,
    late := fun _ _ _ => none, run := signalRun }
/-- SIGNAL. -/
def execSignal (t : TileId) (s : State) : Host.Outcome State Fault Refusal := onChip (issueRow signalIssue (· == 0x02) t.toNat) s

end Sys2Proof.Machine
end

