-- ==== Sys2Proof/Machine/Matrix.lean ====
section
/-! DEFINITION. The matrix arrays (R128 to R154): MATMUL, LOADW, SWAPW and GANG at issue and in the array queues, current control,
checksums, and the arithmetic of an output row (R166 to R176). -/
namespace Sys2Proof.Machine

/-! ### Planes and queues -/

/-- Plane 0 or 1 of an array. -/
def Arr.plane (x : Arr) (p : Bool) : Plane := if p then x.p1 else x.p0
/-- Replace a plane. -/
def Arr.setPlane (x : Arr) (p : Bool) (y : Plane) : Arr := if p then { x with p1 := y } else { x with p0 := y }
/-- Change one array of a tile. -/
def Tile.updArr (t : Tile) (a : Nat) (f : Arr → Arr) : Tile := t.setArr a (f (t.arr a))
/-- Change the array queues of the arrays in a list. -/
def Tile.updQueues (t : Tile) (as : List Nat) (f : List MCmd → List MCmd) : Tile :=
  as.foldl (fun t a => t.updArr a (fun x => { x with queue := f x.queue })) t
/-- The arrays of a mask. -/
def maskArrays (m : BitVec 4) : List Nat := (List.range 4).filter (fun a => m.getLsbD a)

/-- The gang mode that the next matrix command to issue will run in: what the last GANG issued sets (log 14). -/
def Tile.issueMode (t : Tile) : BitVec 3 :=
  match (t.a0.queue.filter (fun m => m.cmd.op = 0x13)).getLast? with
  | some m => BitVec.ofNat 3 (fld (m.cmd.w 2) 2 0)
  | none => t.gang

/-- LENGTH of a MATMUL. -/
def QCmd.mmLen (q : QCmd) : Nat := fld (q.w 3) 39 32
/-- WFMT of a MATMUL. -/
def QCmd.mmWfmt (q : QCmd) : Nat := fld (q.w 4) 3 0
/-- AFMT of a MATMUL. -/
def QCmd.mmAfmt (q : QCmd) : Nat := fld (q.w 4) 7 4
/-- Elements of an activation vector (R148). -/
def vecElems (mode : Nat) (bothFp4 : Bool) : Nat := (if mode = 3 then 64 else if mode = 4 then 32 else 16) * (if bothFp4 then 2 else 1)
/-- Bytes of an activation vector (R148, R164). Of a reserved AFMT the spec gives no size: 16 elements then count as 64 B for 0x7 and
0x8 and 16 B above (DESIGN CHOICE, log 93). -/
def QCmd.mmVec (q : QCmd) (mode : Nat) : Nat := packedBytes q.mmAfmt (vecElems mode (q.mmAfmt == 4 && q.mmWfmt == 4))
/-- The vector interval in ac (R128). -/
def QCmd.mmInterval (q : QCmd) : Nat := if q.mmAfmt = 6 then 4 else 1
/-- Bytes that one step of r covers in a LOADW (R134, R151). Of a reserved WFMT the spec gives none: see log 93 (DESIGN CHOICE). -/
def rowBytes (fmt : Nat) : Nat := if fmt = 4 then 16 else packedBytes fmt 16
/-- WFMT of a LOADW. -/
def QCmd.lwFmt (q : QCmd) : Nat := fld (q.w 3) 43 40
/-- WSMODE of a LOADW. -/
def QCmd.lwMode (q : QCmd) : Nat := fld (q.w 3) 45 44
/-- Reads of a LOADW: 16 steps of r, and the scale bytes where it is scaled (R134). -/
def QCmd.lwReads (q : QCmd) : Nat := if q.lwMode = 0 then 16 else 17

/-- Whether every vector of a MATMUL has entered its arrays before an ac. -/
def MCmd.entered (m : MCmd) (now : Nat) : Bool := decide (m.cmd.mmLen ≤ m.fed) && m.feeds.all (fun f => decide (f.at_ < now))
/-- Whether a matrix command still holds a place of its queue (R137; DEDUCED: a MATMUL until its vectors have entered, log 15). -/
def MCmd.holdsPlace (now : Nat) (m : MCmd) : Bool := if m.cmd.op = 0x10 then !m.entered now else true
/-- Whether a queue has no place left. -/
def queueFull (now : Nat) (q : List MCmd) : Bool := decide (4 ≤ (q.filter (MCmd.holdsPlace now)).length)
/-- Whether the DMA engine holds an active or pending transfer (R236). -/
def Tile.dmaHolds (t : Tile) : Bool := t.streams.any (fun e => !e.2.held.isEmpty)
/-- Whether a matrix command still has vectors to feed or weight rows to write (R236). -/
def Tile.matrixFeeds (t : Tile) (now : Nat) : Bool :=
  t.queues.any (fun q => q.any (fun m => if m.cmd.op = 0x10 then !m.entered now else m.cmd.op == 0x11))

/-- A matrix command as it enters the queues. -/
def newMCmd (q : QCmd) (mask : BitVec 4) (mode : BitVec 3) (ac : Nat) : MCmd :=
  ⟨q, mask, mode, ac, false, false, 0, [], false, 0, [], 0, 0⟩
/-- Put a command into the queues it names. -/
def Tile.enqueue (t : Tile) (q : QCmd) (mask : BitVec 4) (ac : Nat) : Tile :=
  t.updQueues (maskArrays mask) (fun qs => qs ++ [newMCmd q mask t.issueMode ac])

/-! ### Current control (R143) -/

/-- The level the arrays have reached, in eighths. -/
def Tile.levelNow (t : Tile) (ac : Nat) : Nat :=
  match t.warm with
  | .idle => 0
  | .rampUp => min 8 (t.level.toNat + 1 + (ac - t.warmAc) / 4)
  | .warm => 8
  | .rampDown => 7 - (ac - t.warmAc) / 4
/-- The ac at which a ramp up ends. -/
def Tile.rampEnd (t : Tile) : Nat := if t.warm = .warm then 0 else t.warmAc + (8 - t.level.toNat) * 4
/-- Start ramping up from the level reached, if idle or ramping down. -/
def Tile.startRamp (t : Tile) (ac : Nat) : Tile :=
  match t.warm with
  | .idle => { t with warm := .rampUp, level := 0, warmAc := ac }
  | .rampDown => { t with warm := .rampUp, level := BitVec.ofNat 4 (t.levelNow ac), warmAc := ac }
  | _ => t

/-- The ramp up ends: warm. -/
def rampUpDone (t : Nat) (c : Chip) : Chip :=
  Chip.when ((c.tile t).warm == .rampUp && decide ((c.tile t).rampEnd ≤ c.nowAc))
    (fun c => c.updTile t (fun x => { x with warm := .warm, level := 8, lastUse := c.nowAc - 1 })) c
/-- RAMP_UP_DONE. -/
def execRampUpDone (t : TileId) (s : State) : Host.Outcome State Fault Refusal := onChip (rampUpDone t.toNat) s

/-- 64 ac without a valid vector or bubble and no MATMUL with vectors to enter: ramping down. -/
def warmIdleTimeout (t : Nat) (c : Chip) : Chip :=
  let x := c.tile t
  Chip.when (x.warm == .warm && decide (x.lastUse + 65 ≤ c.nowAc) &&
      !x.queues.any (fun q => q.any (fun m => m.cmd.op == 0x10 && !m.entered c.nowAc)))
    (fun c => c.updTile t (fun x => { x with warm := .rampDown, warmAc := c.nowAc })) c
/-- WARM_IDLE_TIMEOUT. -/
def execWarmIdleTimeout (t : TileId) (s : State) : Host.Outcome State Fault Refusal := onChip (warmIdleTimeout t.toNat) s

/-- Level 0 reached: idle. -/
def rampDownDone (t : Nat) (c : Chip) : Chip :=
  Chip.when ((c.tile t).warm == .rampDown && decide ((c.tile t).warmAc + 28 ≤ c.nowAc))
    (fun c => c.updTile t (fun x => { x with warm := .idle, level := 0 })) c
/-- RAMP_DOWN_DONE. -/
def execRampDownDone (t : TileId) (s : State) : Host.Outcome State Fault Refusal := onChip (rampDownDone t.toNat) s

/-! ### MATMUL at issue (R148, R149) -/

/-- Reads of a MATMUL: for each array that reads, its handle footprint as (offset, bytes), and its scale bytes'. -/
def mmReads (q : QCmd) (mode : Nat) : List (Nat × Nat) × List (Nat × Nat) :=
  let as := if mode < 2 then maskArrays (BitVec.ofNat 4 (fld (q.w 3) 43 40)) else [0]
  let n := q.mmLen
  (as.map (fun a => (fld (q.w 2) 19 0 + a * fld (q.w 3) 19 0, (n - 1) * fld (q.w 2) 51 32 + q.mmVec mode)),
   if fld (q.w 4) 11 10 = 0 then [] else as.map (fun a => (fld (q.w 4) 39 20 + a * 128, n)))

/-- The format pairs of R128. -/
def mmPair (w a : Nat) : Bool := (decide (w ≤ 4) && decide (a ≤ 4)) || (w == 5 && a == 5) || (w == 6 && a == 6)

/-- MATMUL's checks (R149, R168, R210, R139). -/
def matmulChecks (c : Chip) (t : Nat) (q : QCmd) : Checks :=
  let x := c.tile t
  let mode := x.issueMode.toNat
  let w := q.mmWfmt
  let a := q.mmAfmt
  let asm := fld (q.w 4) 11 10
  let wsm := fld (q.w 4) 9 8
  let vs := fld (q.w 2) 51 32
  let src := x.hnd (fld (q.w 2) 25 20)
  let sc := x.hnd (fld (q.w 4) 17 12)
  let rd := mmReads q mode
  let mask := fld (q.w 3) 43 40
  { reserved := q.resv 0 [(53, 49)] || q.resv 2 [(63, 52), (31, 26)] || q.resv 3 [(63, 57), (55, 55), (47, 44), (31, 20)] ||
      q.resv 4 [(63, 40), (19, 18)] || q.resv 5 [(63, 0)] || q.resv 6 [(63, 0)] || q.resv 7 [(63, 0)],
    narrow := false, flagErr := false,
    own := [(decide (q.mmLen = 0), 0x09), (decide (128 < fld (q.w 3) 54 48 + q.mmLen), 0x09),
            (decide (vs = 0) || decide (vs % q.mmVec mode ≠ 0), 0x09), (asm == 3 || wsm == 3, 0x04),
            (decide (7 ≤ w) || decide (7 ≤ a), 0x04), (!mmPair w a, 0x04),
            (q.flag 48 && (w != 4 || a == 4), 0x04),
            ((decide (5 ≤ w) && wsm != 0) || (decide (5 ≤ a) && asm != 0), 0x04),
            (src.kind != 1 || (asm != 0 && sc.kind != 1), 0x06),
            (rd.1.any (fun r => !src.fits r.1 r.2) || rd.2.any (fun r => !sc.fits r.1 r.2), 0x05),
            (mask == 0 || (decide (2 ≤ mode) && mask != 15), 0x08),
            (decide (2 ≤ mode) && fld (q.w 3) 19 0 != 0, 0x08)] }

/-- What a MATMUL waits for, in the order of R578: the scoreboard, the transfer class, rows that MATMULs in flight will write through
other arrays (R132), a queue place. -/
def matmulHold (c : Chip) (t : Nat) (q : QCmd) : Hold :=
  let x := c.tile t
  let mode := x.issueMode
  let src := x.hnd (fld (q.w 2) 25 20)
  let sc := x.hnd (fld (q.w 4) 17 12)
  let rd := mmReads q mode.toNat
  let mask := BitVec.ofNat 4 (fld (q.w 3) 43 40)
  if rd.1.any (fun r => x.sbHit (src.grans r.1 r.2)) || rd.2.any (fun r => x.sbHit (sc.grans r.1 r.2)) then .scoreboard
  else if x.dmaHolds then .cls
  else if (maskArrays mask).any (fun a => ((newMCmd q mask mode 0).accRows a).any (fun r =>
      x.accPending (fun m => feeders m.mode.toNat r.1 != feeders mode.toNat r.1) r.1 r.2.1 r.2.2)) then .cls
  else if (maskArrays mask).any (fun a => queueFull c.nowAc (x.arr a).queue) then .res else .none

/-- MATMUL at issue. -/
def matmulIssue : Issue :=
  { checks := matmulChecks, hold := matmulHold, late := fun _ _ _ => none,
    run := fun c t q => c.updTile t (fun x => (x.enqueue q (BitVec.ofNat 4 (fld (q.w 3) 43 40)) c.nowAc).startRamp c.nowAc) }
/-- MATMUL. -/
def execMatmul (t : TileId) (s : State) : Host.Outcome State Fault Refusal := onChip (issueRow matmulIssue (· == 0x10) t.toNat) s

/-! ### LOADW, SWAPW and GANG at issue (R151 to R153) -/

/-- Reads of a LOADW as (offset, bytes): weight rows and scale bytes. -/
def lwRanges (q : QCmd) (mode : Nat) : List (Nat × Nat) × List (Nat × Nat) :=
  let as := if mode = 1 then [0] else maskArrays (BitVec.ofNat 4 (fld (q.w 3) 35 32))
  (as.map (fun a => (fld (q.w 2) 19 0 + a * fld (q.w 3) 19 0, 15 * fld (q.w 2) 51 32 + rowBytes q.lwFmt)),
   if q.lwMode = 0 then [] else as.map (fun a => (fld (q.w 4) 19 0 + a * 16, 16)))

/-- LOADW's checks (R151, R210, R141). -/
def loadwChecks (c : Chip) (t : Nat) (q : QCmd) : Checks :=
  let x := c.tile t
  let mode := x.issueMode.toNat
  let f := q.lwFmt
  let src := x.hnd (fld (q.w 2) 25 20)
  let sc := x.hnd (fld (q.w 3) 53 48)
  let rd := lwRanges q mode
  let mask := fld (q.w 3) 35 32
  { reserved := decide (q.flags ≠ 0) || q.resv 2 [(63, 52), (31, 26)] || q.resv 3 [(63, 54), (47, 46), (39, 36), (31, 20)] ||
      q.resv 4 [(63, 20)] || q.resv 5 [(63, 0)] || q.resv 6 [(63, 0)] || q.resv 7 [(63, 0)],
    narrow := false, flagErr := false,
    own := [(mask == 0, 0x08), (decide (fld (q.w 2) 51 32 < rowBytes f), 0x09),
            (q.lwMode == 3 || decide (7 ≤ f), 0x04), (decide (5 ≤ f) && q.lwMode != 0, 0x04),
            (src.kind != 1 || (q.lwMode != 0 && sc.kind != 1), 0x06),
            (rd.1.any (fun r => !src.fits r.1 r.2) || rd.2.any (fun r => !sc.fits r.1 r.2), 0x05),
            (mode == 1 && (mask != 15 || fld (q.w 3) 19 0 != 0), 0x08)] }

/-- What a LOADW waits for. -/
def loadwHold (c : Chip) (t : Nat) (q : QCmd) : Hold :=
  let x := c.tile t
  let src := x.hnd (fld (q.w 2) 25 20)
  let sc := x.hnd (fld (q.w 3) 53 48)
  let rd := lwRanges q x.issueMode.toNat
  if rd.1.any (fun r => x.sbHit (src.grans r.1 r.2)) || rd.2.any (fun r => x.sbHit (sc.grans r.1 r.2)) then .scoreboard
  else if x.dmaHolds then .cls
  else if (maskArrays (BitVec.ofNat 4 (fld (q.w 3) 35 32))).any (fun a => queueFull c.nowAc (x.arr a).queue) then .res else .none

/-- LOADW at issue. -/
def loadwIssue : Issue :=
  { checks := loadwChecks, hold := loadwHold, late := fun _ _ _ => none,
    run := fun c t q => c.updTile t (fun x => (x.enqueue q (BitVec.ofNat 4 (fld (q.w 3) 35 32)) c.nowAc).startRamp c.nowAc) }
/-- LOADW. -/
def execLoadw (t : TileId) (s : State) : Host.Outcome State Fault Refusal := onChip (issueRow loadwIssue (· == 0x11) t.toNat) s

/-- SWAPW at issue (R152). -/
def swapwIssue : Issue :=
  { checks := fun _ _ q => { reserved := decide (q.flags ≠ 0) || q.resv 2 [(63, 4)] || q.resv 3 [(63, 0)] || q.resv 4 [(63, 0)] ||
                               q.resv 5 [(63, 0)] || q.resv 6 [(63, 0)] || q.resv 7 [(63, 0)],
                             narrow := false, flagErr := false, own := [(decide (fld (q.w 2) 3 0 = 0), 0x08)] },
    hold := fun c t q => if (c.tile t).dmaHolds then .cls
      else if (maskArrays (BitVec.ofNat 4 (fld (q.w 2) 3 0))).any (fun a => queueFull c.nowAc ((c.tile t).arr a).queue) then .res else .none,
    late := fun _ _ _ => none,
    run := fun c t q => c.updTile t (fun x => (x.enqueue q (BitVec.ofNat 4 (fld (q.w 2) 3 0)) c.nowAc).startRamp c.nowAc) }
/-- SWAPW. -/
def execSwapw (t : TileId) (s : State) : Host.Outcome State Fault Refusal := onChip (issueRow swapwIssue (· == 0x12) t.toNat) s

/-- GANG at issue (R153): it never starts a ramp when it issues. -/
def gangIssue : Issue :=
  { checks := fun _ _ q => { reserved := decide (q.flags ≠ 0) || q.resv 2 [(63, 9), (7, 3)] || q.resv 3 [(63, 0)] ||
                               q.resv 4 [(63, 0)] || q.resv 5 [(63, 0)] || q.resv 6 [(63, 0)] || q.resv 7 [(63, 0)],
                             narrow := false, flagErr := false, own := [(decide (5 ≤ fld (q.w 2) 2 0), 0x0A)] },
    hold := fun c t _ => if (c.tile t).dmaHolds then .cls else if (c.tile t).queues.any (queueFull c.nowAc) then .res else .none,
    late := fun _ _ _ => none,
    run := fun c t q => c.updTile t (fun x => x.enqueue q 15 c.nowAc) }
/-- GANG. -/
def execGang (t : TileId) (s : State) : Host.Outcome State Fault Refusal := onChip (issueRow gangIssue (· == 0x13) t.toNat) s

/-! ### In the array queues (R137, R138) -/

/-- The ac from which a LOADW's plane is VALID, once every read of it has been served (R134): seven ac after its last row, or six after
its scales; one more for BF16. -/
def MCmd.validAc (m : MCmd) : Option Nat :=
  if m.cmd.lwReads ≤ m.fed then some (m.lastAc + (if m.cmd.lwMode = 0 then 7 else 6) + (if m.cmd.lwFmt = 6 then 1 else 0)) else none

/-- What the commands ahead of a MATMUL leave it, one by one (R137): the earliest ac in which its first vector may enter, and the
boundary at which a SWAPW that comes next would take effect; none where either is not known yet. -/
def entryStep (z : Option (Nat × Option Nat)) (y : MCmd) : Option (Nat × Option Nat) :=
  z.bind (fun p =>
    if y.cmd.op = 0x10 then
      (if y.cmd.mmLen ≤ y.fed then some (max p.1 (y.lastAc + y.cmd.mmInterval), p.2.map (fun b => max b (y.lastAc + 1))) else none)
    else if y.cmd.op = 0x11 then some (p.1, p.2.bind (fun b => y.validAc.map (fun v => max b v)))
    else if y.cmd.op = 0x12 then p.2.map (fun b => (max p.1 b, some b))
    else none)

/-- The ac from which the next read of a matrix command may be made in an array, if what is ahead of it lets it start (R137). A LOADW
starts behind no LOADW, SWAPW or GANG. A MATMUL's reads start so that its first vector enters after the previous MATMUL's last, after
the swap ahead of it, and not before its issue + 6 or the end of a ramp (R143). -/
def Tile.readFrom (t : Tile) (a : Nat) (m : MCmd) : Option Nat :=
  let ahead := (t.arr a).queue.takeWhile (fun y => y.cmd.idx != m.cmd.idx)
  if m.cmd.op = 0x11 then (if ahead.any (fun y => y.cmd.op != 0x10) then none else some (max m.issueAc m.dueAc))
  else (ahead.foldl entryStep (some (0, some 0))).map (fun p =>
    if m.fed = 0 ∧ m.tried = false then max m.issueAc (max p.1 t.rampEnd - 6) else m.dueAc)

/-- The command at the head of an array queue that has not begun (R137, R138). A MATMUL is at the head once every MATMUL ahead of it has
entered and no SWAPW or GANG is ahead; a SWAPW once every MATMUL ahead of it has entered and every LOADW ahead of it has completed. -/
def queueNext (now : Nat) : List MCmd → List MCmd → Option MCmd
  | _, [] => none
  | ahead, m :: r =>
    if m.begun ∨ (m.cmd.op ≠ 0x10 ∧ m.cmd.op ≠ 0x12) then queueNext now (ahead ++ [m]) r
    else if ahead.all (fun y => if y.cmd.op = 0x10 then y.entered now else y.cmd.op == 0x11 && m.cmd.op == 0x10) then some m else none

/-- Change one command, by its stream index, in some queues. -/
def Tile.updMCmd (t : Tile) (as : List Nat) (idx : Nat) (f : MCmd → MCmd) : Tile :=
  t.updQueues as (fun q => q.map (fun m => if m.cmd.idx = idx then f m else m))
/-- Take one command out of some queues. -/
def Tile.dropMCmd (t : Tile) (as : List Nat) (idx : Nat) : Tile := t.updQueues as (fun q => q.filter (fun m => m.cmd.idx != idx))

/-- The plane that an array's copy of a matrix command uses (R130). -/
def Tile.planeFor (t : Tile) (m : MCmd) (b : Nat) : Plane :=
  let x := t.arr b
  x.plane ((x.queue.find? (fun y => y.cmd.idx == m.cmd.idx)).getD m).plane

/-- The arrays that move together for a command: all four for a ganged MATMUL and for a LOADW in SHARED mode (R139, R141). -/
def MCmd.together (m : MCmd) (a : Nat) : List Nat :=
  if (m.cmd.op = 0x10 ∧ 2 ≤ m.mode.toNat) ∨ (m.cmd.op = 0x11 ∧ m.mode = 1) then [0, 1, 2, 3] else [a]

/-- The cause of a plane check that fails at the head of a queue (R138). -/
def Tile.planeCause (t : Tile) (m : MCmd) (a : Nat) : Option Byte :=
  let x := t.arr a
  if m.cmd.op = 0x10 then
    let p := x.plane x.active
    if !p.valid then some 0x07 else if p.wsmode.toNat ≠ fld (m.cmd.w 4) 9 8 then some 0x04 else none
  else if m.cmd.op = 0x12 then (if (x.plane (!x.active)).valid then none else some 0x07)
  else none

/-- The cause of a plane check that fails in any of a command's arrays: 0x07 before 0x04 (R138). -/
def Tile.planeCauses (t : Tile) (m : MCmd) (as : List Nat) : Option Byte :=
  let es := as.filterMap (t.planeCause m)
  if es.contains 0x07 then some 0x07 else es.head?

/-- A command reaches the head of an array queue: its planes are checked, and it begins, using the plane that is active (R137, R138). -/
def arrayQueueHead (t a : Nat) (c : Chip) : Chip :=
  let x := c.tile t
  match queueNext c.nowAc [] (x.arr a).queue with
  | none => c
  | some m =>
    let as := m.together a
    if x.st ≠ TileState.running ∨ !(as.all (fun b => (queueNext c.nowAc [] (x.arr b).queue).map (fun y => y.cmd.idx) == some m.cmd.idx)) then c
    else match x.planeCauses m as with
      | some e => c.tileViolation t e m.cmd.id m.cmd.opB 0
      | none => c.updTile t (fun x => as.foldl (fun x b => x.updArr b (fun y => { y with queue := y.queue.map (fun z =>
          if z.cmd.idx = m.cmd.idx then { z with begun := true, plane := y.active } else z) })) x)
/-- ARRAY_QUEUE_HEAD. -/
def execArrayQueueHead (t : TileId) (a : ArrayId) (s : State) : Host.Outcome State Fault Refusal :=
  onChip (arrayQueueHead t.toNat a.toNat) s

/-- A SWAPW takes effect (R136, R137): at its array's head, begun, so everything it waits for is over. One that names several arrays
swaps each at its own array's boundary (DESIGN CHOICE, log 94). -/
def swapwEffect (t a : Nat) (c : Chip) : Chip :=
  match ((c.tile t).arr a).queue.find? (fun m => m.cmd.op = 0x12) with
  | some m => Chip.when (m.begun && (c.tile t).st == .running)
      (fun c =>
        let c := c.traceTile 1 t 0x01 a false (m.cmd.w 0) (m.cmd.w 1) 0 0
        let c := c.traceTile 1 t 0x02 a false (m.cmd.w 0) (m.cmd.w 1) 0 0
        c.updTile t (fun x => (x.dropMCmd [a] m.cmd.idx).updArr a (fun y => { y with active := !y.active }))) c
  | none => c
/-- SWAPW_EFFECT. -/
def execSwapwEffect (t : TileId) (a : ArrayId) (s : State) : Host.Outcome State Fault Refusal := onChip (swapwEffect t.toNat a.toNat) s

/-- A GANG takes effect (R137, R153): it is first in all four queues, so every output ahead of it is written. -/
def gangEffect (t : Nat) (c : Chip) : Chip :=
  let x := c.tile t
  match x.a0.queue.head? with
  | some m => Chip.when (m.cmd.op == 0x13 && x.st == .running && x.queues.all (fun q => q.head?.map (fun y => y.cmd.idx) == some m.cmd.idx))
      (fun c => c.updTile t (fun x =>
        let y := { x.dropMCmd [0, 1, 2, 3] m.cmd.idx with gang := BitVec.ofNat 3 (fld (m.cmd.w 2) 2 0) }
        if bit (m.cmd.w 2) 8 then y.startRamp c.nowAc else y)) c
  | none => c
/-- GANG_EFFECT. -/
def execGangEffect (t : TileId) (s : State) : Host.Outcome State Fault Refusal := onChip (gangEffect t.toNat) s

/-- The plane a LOADW's reads give: its K rows of codes, scales, format, mode, VALID and POISON (R133, R134, R151). -/
def planeOf (q : QCmd) (fs : List Feed) : Plane :=
  let f := q.lwFmt
  let row (bs : List Byte) (n : Nat) : List Nat := (List.range 16).map (fun j => elemAt f bs (n * 16 + j))
  { wts := (fs.take 16).flatMap (fun y => if f = 4 then [row y.bytes 0, row y.bytes 1] else [row y.bytes 0]),
    scales := if q.lwMode = 0 then [] else (fs.getD 16 ⟨0, [], 0, false⟩).bytes,
    fmt := BitVec.ofNat 4 f, wsmode := BitVec.ofNat 2 q.lwMode, valid := true, poison := fs.any (fun y => y.poison) }

/-- A LOADW's plane becomes VALID (R134). The outputs of earlier MATMULs that use the plane are written before, as they always are
(R129). -/
def loadwPlaneValid (t a : Nat) (c : Chip) : Chip :=
  match ((c.tile t).arr a).queue.find? (fun m => m.cmd.op = 0x11) with
  | some m =>
    Chip.when (m.validAc.any (fun v => decide (v ≤ c.nowAc)) && (c.tile t).st == .running &&
        !((c.tile t).arr a).queue.any (fun y => y.cmd.op == 0x10 && y.begun && y.plane != ((c.tile t).arr a).active))
      (fun c =>
        let p := planeOf m.cmd m.feeds
        let c := c.traceTile 1 t 0x02 a p.poison (m.cmd.w 0) (m.cmd.w 1) 0 0
        c.updTile t (fun x => (x.dropMCmd [a] m.cmd.idx).updArr a (fun y => y.setPlane (!y.active) p))) c
  | none => c
/-- LOADW_PLANE_VALID. -/
def execLoadwPlaneValid (t : TileId) (a : ArrayId) (s : State) : Host.Outcome State Fault Refusal :=
  onChip (loadwPlaneValid t.toNat a.toNat) s

/-! ### The arithmetic of an output vector (R144 to R147, R166 to R176) -/

/-- A scale byte's value (R166): mode 0 none, 1 standard E8M0, 2 fine E4M3. -/
def scaleVal (mode : Nat) (b : Byte) : Fv :=
  if mode = 0 then .fin false 1 0
  else if mode = 1 then (if b = 0xFF then .nan else .fin false 1 ((b.toNat : Int) - 127))
  else if b.toNat ≥ 128 ∨ b = 0x7F then .nan else decodeElem 0 b.toNat

/-- The exact sum of products of a column (R169, R173): NaN, then an infinity, then the exact value; a zero sum is −0 only
when every term is. -/
def exactSum (ts : List Fv) : Fv := ts.foldl addX (ts.foldl (fun z t => if t = fzero true then z else fzero false) (fzero true))

/-- The tree of R170 over sixteen rounded products. -/
def bf16Tree (ts : List Fv) : Fv := pairTree fadd (ts.map rne32)

/-- A column's sum, unscaled: exact for the narrow floats, the tree for BF16, an exact integer for INT8 (R169, R170, R172). -/
def columnSum (wf : Nat) (ts : List Fv) : Fv := if wf = 6 then bf16Tree ts else exactSum ts

/-- What one array makes of a vector: column sums before scaling, the check value y_c and the magnitude m. -/
structure ColSums where
  y : List Fv
  yc : Fv
  m : Fv
  skip : Bool

/-- Column sums, y_c and m of R144 (sums in index order, each FP32 for the float formats; log 16), for the weights of rows
lo to lo + n − 1; and whether R145 skips the check. -/
def arraySums (wf : Nat) (xs : List Fv) (rows : List (List Fv)) : ColSums :=
  let term (j : Nat) : List Fv := (List.range xs.length).map (fun i => mulX (xs.getD i (fzero false)) ((rows.getD i []).getD j (fzero false)))
  let add := if wf = 5 then addX else fadd
  let sum (l : List Fv) : Fv := l.foldl add (fzero false)
  let mul (a b : Fv) : Fv := if wf = 5 then mulX a b else fmul a b
  let cs := rows.map sum
  let as := rows.map (fun r => sum (r.map fabs))
  let dot (ks : List Fv) (f : Fv → Fv) : Fv := sum ((List.range xs.length).map (fun i => mul (f (xs.getD i (fzero false))) (ks.getD i (fzero false))))
  let m := dot as fabs
  { y := (List.range 16).map (fun j => columnSum wf (term j)), yc := dot cs id, m := m,
    skip := fspecial m || xs.any fspecial || rows.any (fun r => r.any fspecial) }

/-- Whether a check fails (R144, R146): |S − y_c| above 2⁻¹⁶ × m for the floats, S ≠ y_c modulo 2³² for INT8. -/
def checkFails (wf : Nat) (s yc m : Fv) : Bool :=
  if wf = 5 then (match subX s yc with | .fin _ d e => decide ((d * 2 ^ e.toNat) % 2 ^ 32 ≠ 0) | _ => true)
  else fltZ (fscale (-16) m) (fabs (subX s yc)) || fspecial (subX s yc)

/-- Put a faulty column sum in place of the true one. -/
def withFault (wf : Nat) (f : ArrayFault) (ys : List Fv) : List Fv :=
  match f with
  | .column col bits => ys.set col.toNat (if wf = 5 then ofInt (signed 32 bits.toNat) else of32 bits)
  | _ => ys

/-- An output word added to what a row holds, or alone (R171, R172). -/
def accumWord (int : Bool) (acc : Bool) (old : W32) (v : Fv) : W32 :=
  if int then
    let w := BitVec.ofNat 32 (intBits 32 (match v with | .fin n m e => (if n then -(m * 2 ^ e.toNat : Nat) else (m * 2 ^ e.toNat : Nat)) | _ => 0))
    if acc then old + w else w
  else to32 (if acc then fadd (of32 old) v else v)

/-- The elements of an activation vector that an array takes (R139). -/
def arrayElems (mode a k : Nat) (xs : List Fv) : List Fv :=
  let off := if mode = 3 then a * k else if mode = 4 then (a / 2) * k else 0
  (xs.drop off).take k

/-- One output of a vector (R139, R140, R171): its buffer, the arrays that feed it, its 16 words' values after scaling and before
accumulation, and the array whose check failed, if one did (R144, R146). -/
structure VecBuf where
  buf  : Nat
  as   : List Nat
  vals : List Fv
  bad  : Option Nat

/-- The outputs of one vector, and how many arrays made no check of it (R145). -/
structure VecOut where
  bufs  : List VecBuf
  skips : Nat

/-- Compute a vector's outputs, each array with the plane its own queue gives it. A summed vector is not checked where an array that
feeds it makes no check (DESIGN CHOICE, log 95). -/
def vectorOut (t : Tile) (m : MCmd) (a : Nat) (f : Feed) (flt : ArrayFault) : VecOut :=
  let q := m.cmd
  let mode := m.mode.toNat
  let wf := q.mmWfmt
  let both := wf == 4 && q.mmAfmt == 4
  let k := if both then 32 else 16
  let lo := if q.flag 48 then 16 else 0
  let xs := (List.range (vecElems mode both)).map (fun i => decodeElem q.mmAfmt (elemAt q.mmAfmt f.bytes i))
  let sa := scaleVal (fld (q.w 4) 11 10) f.scale
  let as := if mode < 2 then [a] else [0, 1, 2, 3]
  let sums (b : Nat) : ColSums :=
    let p := t.planeFor m b
    let s := arraySums wf (arrayElems mode b k xs) (((p.wts.drop lo).take k).map (fun r => r.map (decodeElem wf)))
    if b = a then { s with y := withFault wf flt s.y } else s
  let add := if wf = 5 then addX else fadd
  let total (l : List Fv) : Fv := l.foldl add (fzero false)
  let scaled (b : Nat) : List Fv :=
    let p := t.planeFor m b
    let ws := fld (q.w 4) 9 8
    (List.range 16).map (fun j =>
      let y := (sums b).y.getD j (fzero false)
      if 5 ≤ wf then y else rne32 (mulX (mulX y (scaleVal ws (p.scales.getD j 0))) sa))
  let own (b : Nat) : Bool := !(sums b).skip && checkFails wf (total (sums b).y) (sums b).yc (sums b).m
  let summed (g : List Nat) : Bool := g.all (fun b => !(sums b).skip) &&
    checkFails wf (total ((List.range 16).map (fun j => pairTree add (g.map (fun b => rne32 ((sums b).y.getD j (fzero false)))))))
      (total (g.map (fun b => (sums b).yc))) (total (g.map (fun b => (sums b).m)))
  let one (b : Nat) : VecBuf := ⟨b, [b], scaled b, if own b then some b else none⟩
  let sum (buf : Nat) : VecBuf :=
    let g := feeders mode buf
    ⟨buf, g, (List.range 16).map (fun j => pairTree add (g.map (fun b => (scaled b).getD j (fzero false)))),
     match g.find? own with
     | some b => some b
     | none => if summed g then g.head? else none⟩
  { bufs := if mode = 3 then [sum 0] else if mode = 4 then [sum 0, sum 1] else as.map one,
    skips := (as.filter (fun b => (sums b).skip)).length }

/-- The Keeper marks a tile suspect (R154): shown, logged in the NOR, raised. -/
def Chip.markSuspect (c : Chip) (t cause : Nat) : Chip :=
  if (c.tile t).suspect then c
  else
    let c := (c.updTile t (fun x => { x with suspect := true })).faultLog 2 t
    let c := { c with recov := { c.recov with suspect := true } }
    c.evTile t 0x0203 (mkWord [(56, 8, cause)]) (c.tile t).cnt.check

/-- A failed check (R147, R154, R461): counted, shown, raised; a recovery of class 0x01 starts; a recurrence in the replay of its
batch makes the tile suspect and freezes it, and so, without the freeze, does the fourth failure since boot. -/
def Chip.arrayCheckFailed (c : Chip) (t a : Nat) (m : MCmd) (dup : Bool) : Chip :=
  let again := (c.tile t).checkInBatch && decide (c.recov.replays ≠ 0)
  let c := c.updTile t (fun x => { x with cnt := { x.cnt with check := x.cnt.check + 1 }, arrayCheck := true, checkSeen := true })
  let c := c.evTile t 0x0202
    (mkWord [(48, 16, m.cmd.id.toNat), (46, 2, a), (39, 7, m.done), (38, 1, b2n dup)]) (c.tile t).cnt.check
  let c := c.detect 0x01 false
  if again then
    let c := c.markSuspect t 1
    let c := { c with recov := { c.recov with suspect := true } }
    c.freezeTile t 0x0B m.cmd.id m.cmd.opB false
  else if c.tile t |>.cnt.check |>.toNat |> (fun n => decide (4 ≤ n)) then c.markSuspect t 2 else c

/-- Latency from a vector's entry to its output (R129). -/
def modeLatency (mode : Nat) : Nat := if mode = 4 then 7 else if mode = 3 then 8 else 6

/-- Write a vector's outputs into their accumulator rows, each with its own poison (R131, R135, R147, R176). -/
def Tile.writeRows (t : Tile) (m : MCmd) (outs : List (Nat × List W32 × Bool)) : Tile :=
  let row := fld (m.cmd.w 3) 54 48 + m.done
  let acc := bit (m.cmd.w 3) 56
  outs.foldl (fun t o => t.updArr o.1 (fun x => x.setRow row o.2.1 (o.2.2 || (acc && x.rowPoison row)))) t

/-- An output vector reaches its accumulator row. In the ganged modes the whole vector's outputs are written at once, the array
named being the one that the fault fell on. Where a plane was loaded in another format than WFMT the spec states no result: free values. -/
def accumRowWrite (t a : Nat) (flt : ArrayFault) (c : Chip) : Chip :=
  let x := c.tile t
  match (x.arr a).queue.find? (fun m => m.cmd.op = 0x10 && !m.feeds.isEmpty) with
  | none => c
  | some m =>
    match m.feeds with
    | [] => c
    | f :: rest =>
      if c.nowAc < f.at_ + modeLatency m.mode.toNat then c
      else
        let as := m.together a
        let v := vectorOut x m a f flt
        let row := fld (m.cmd.w 3) 54 48 + m.done
        let accum := bit (m.cmd.w 3) 56
        let int := m.cmd.mmWfmt == 5
        let free (o : VecBuf) : Bool := o.as.any (fun b => (x.planeFor m b).fmt.toNat != m.cmd.mmWfmt)
        let dup := flt == .duplicate
        let bad (o : VecBuf) : Option Nat := if dup && o.as.contains a then some a else o.bad
        let outs := v.bufs.map (fun o => (o.buf, (List.range 16).map (fun j =>
          let old := ((x.arr o.buf).row row).getD j 0
          if free o then Config.freeWord (c.fresh.n + 16 * o.buf + j) else accumWord int accum old (o.vals.getD j (fzero false))),
          f.poison || o.as.any (fun b => (x.planeFor m b).poison) || (bad o).isSome))
        let c := c.updTile t (fun x =>
          let x := x.writeRows m outs
          let x := x.updMCmd as m.cmd.idx (fun y => { y with feeds := rest, done := y.done + 1 })
          let x := if m.cmd.mmLen ≤ m.done + 1 then x.dropMCmd as m.cmd.idx else x
          { x with cnt := { x.cnt with checkSkip := addN x.cnt.checkSkip v.skips } })
        let c := if v.bufs.any free then { c with fresh := ⟨c.fresh.n + 64⟩ } else c
        let c := if m.cmd.mmLen ≤ m.done + 1 then
            c.traceTile 1 t 0x02 a (outs.any (fun o => o.2.2)) (m.cmd.w 0) (m.cmd.w 1) (BitVec.ofNat 64 m.cmd.mmLen) 0 else c
        (v.bufs.filterMap bad).foldl (fun c b => c.arrayCheckFailed t b m dup) c
/-- ACCUM_ROW_WRITE. -/
def execAccumRowWrite (t : TileId) (a : ArrayId) (flt : ArrayFault) (s : State) : Host.Outcome State Fault Refusal :=
  onChip (accumRowWrite t.toNat a.toNat flt) s

end Sys2Proof.Machine
end

