-- ==== Sys2Proof/Machine/Vector.lean ====
section
/-! DEFINITION. The vector unit (R177 to R196, R203): its operands and checks, the results of each opcode, its uses of compute
slots, and completion. -/
namespace Sys2Proof.Machine

/-! ### Operands (R185) -/

/-- An operand word's fields. -/
structure Opnd where
  space  : Nat
  fmt    : Nat
  handle : Nat
  off    : Nat
deriving DecidableEq, Repr

/-- The operand of a word. -/
def opndOf (w : W64) : Opnd := ⟨fld w 31 30, fld w 29 26, fld w 25 20, fld w 19 0⟩
/-- A, B, D, S. -/
def QCmd.vA (q : QCmd) : Opnd := opndOf (q.w 2)
def QCmd.vB (q : QCmd) : Opnd := opndOf (q.w 3)
def QCmd.vD (q : QCmd) : Opnd := opndOf (q.w 4)
def QCmd.vS (q : QCmd) : Opnd := opndOf (q.w 6)
/-- IMM, AUX and LENGTH. -/
def QCmd.vImm (q : QCmd) : Fv := of32 (BitVec.ofNat 32 (fld (q.w 5) 63 32))
def QCmd.vAux (q : QCmd) : Nat := fld (q.w 5) 31 24
def QCmd.vLen (q : QCmd) : Nat := fld (q.w 5) 17 0

/-- Elements of a block: 32 in standard mode, 16 in fine mode (R165). -/
def blockOf (aux : Nat) : Nat := if aux = 2 then 16 else 32

/-- The elements of each operand that the command touches: A, B, D, S in scale bytes (R188 to R195). -/
def QCmd.nB (q : QCmd) : Nat :=
  if q.flag 48 then 1 else if q.op = 0x32 then 4 else if q.op = 0x36 then q.vAux else q.vLen
def QCmd.nD (q : QCmd) : Nat :=
  if q.op = 0x30 ∨ q.op = 0x31 then 1 else if q.op = 0x33 then q.vAux + 1 else if q.op = 0x36 then q.vAux else q.vLen
def QCmd.nS (q : QCmd) : Nat := cdiv q.vLen (blockOf q.vAux)

/-- Whether the opcode uses B, and S. -/
def QCmd.usesB (q : QCmd) : Bool := (decide (0x20 ≤ q.op) && decide (q.op ≤ 0x25) && !q.flag 49) || q.op == 0x32 || q.op == 0x36
def QCmd.usesS (q : QCmd) : Bool := q.op == 0x34 || q.op == 0x35

/-- The operands in use, each with its bytes, whether it is read and whether it is written. -/
def QCmd.vUses (q : QCmd) : List (Opnd × Nat × Bool × Bool) :=
  [(q.vA, packedBytes q.vA.fmt q.vLen, true, false)] ++
  (if q.usesB then [(q.vB, packedBytes q.vB.fmt q.nB, q.op != 0x36, q.op == 0x32 || q.op == 0x36)] else []) ++
  (if q.usesS then [(q.vS, q.nS, q.op == 0x35, q.op == 0x34)] else []) ++
  [(q.vD, packedBytes q.vD.fmt q.nD, q.op == 0x23, true)]

/-- Whether an operand range lies in its buffer. -/
def Tile.opndFits (t : Tile) (o : Opnd) (n : Nat) : Bool := if o.space = 1 then decide (o.off + n ≤ 8192) else (t.hnd o.handle).fits o.off n

/-- AUX values an opcode allows (R186, R192 to R195). -/
def auxOk (op aux len : Nat) : Bool :=
  if op = 0x34 ∨ op = 0x35 then aux == 1 || aux == 2
  else if op = 0x33 then aux == 0 || aux == 1
  else if op = 0x36 then decide (1 ≤ aux) && decide (aux ≤ 64) && decide (aux ≤ len)
  else aux == 0

/-- Whether an opcode allows its operands' formats (R161, R188, R191 to R195). -/
def fmtsOk (q : QCmd) : Bool :=
  q.vUses.all (fun u => decide (u.1.fmt ≤ 8)) &&
  (q.op != 0x23 || q.vD.fmt == 7) && (q.op != 0x32 || q.vB.fmt == 7) && (q.op != 0x33 || q.vD.fmt == 7) &&
  (q.op != 0x34 || ((q.vA.fmt == 7 || q.vA.fmt == 6) && decide (q.vD.fmt ≤ 4))) &&
  (q.op != 0x35 || (decide (q.vA.fmt ≤ 4) && (q.vD.fmt == 7 || q.vD.fmt == 6))) &&
  (q.op != 0x36 || (q.vD.fmt == 7 && q.vB.fmt == 8))

/-- The checks of every vector command (R185, R186, R210). -/
def vecChecks (c : Chip) (t : Nat) (q : QCmd) : Checks :=
  let x := c.tile t
  let us := q.vUses
  let low := decide (0x20 ≤ q.op) && decide (q.op ≤ 0x25)
  { reserved := q.resv 0 [(53, 50)] || q.resv 2 [(63, 32)] || q.resv 3 [(63, 32)] || q.resv 4 [(63, 32)] || q.resv 5 [(23, 18)] ||
      q.resv 6 [(63, 32)] || q.resv 7 [(63, 0)],
    narrow := true, flagErr := false,
    own := [(decide (q.vLen = 0) || decide (131072 < q.vLen), 0x09),
            (!auxOk q.op q.vAux q.vLen || (q.op == 0x34 && decide (q.vLen % blockOf q.vAux ≠ 0)), 0x09),
            (us.any (fun u => u.1.space == 2) || (!q.usesB && q.vB.space != 2) || (!q.usesS && q.vS.space != 2), 0x0A),
            (us.any (fun u => u.1.space == 1 && u.1.fmt != 7 && u.1.fmt != 8), 0x06),
            (us.any (fun u => u.1.space == 3 || (u.1.space == 1 && decide (4 ≤ u.1.handle))), 0x06),
            (us.any (fun u => !x.opndFits u.1 u.2.1), 0x05),
            ((q.sat || q.stoch) && (q.vD.fmt == 7 || q.vD.fmt == 8), 0x04),
            (!fmtsOk q, 0x04),
            (q.usesS && q.vS.fmt != 0, 0x04),
            ((q.flag 48 || q.flag 49) && (!low || (q.flag 48 && q.flag 49)), 0x0A),
            (us.any (fun u => u.1.space == 0 && (x.hnd u.1.handle).kind != 1), 0x06)] }

/-- The granules a command writes in scratchpad (R217). -/
def Tile.vWrites (t : Tile) (q : QCmd) : NatSet :=
  q.vUses.flatMap (fun u => if u.2.2.2 && u.1.space == 0 then (t.hnd u.1.handle).grans u.1.off u.2.1 else [])

/-- What a vector command waits for (R218, R236, R184, R132). -/
def vecHold (c : Chip) (t : Nat) (q : QCmd) : Hold :=
  let x := c.tile t
  let us := q.vUses
  if us.any (fun u => u.1.space == 0 && x.sbHit ((x.hnd u.1.handle).grans u.1.off u.2.1)) ||
     (!(x.vWrites q).isEmpty && x.sbFull) then .scoreboard
  else if x.dmaHolds || x.vec.isSome ||
     us.any (fun u => u.1.space == 1 && x.accBusy u.1.handle (u.1.off / 64) ((u.1.off + u.2.1 + 63) / 64 - u.1.off / 64)) then .cls
  else .none

/-! ### Reading operands -/

/-- Read n elements of an operand: their values widened to FP32 (an INT32 source rounds, R188), and whether each comes from a
poisoned granule or row. -/
def Chip.readOpnd (c : Chip) (t : Nat) (o : Opnd) (n : Nat) (block : Bool) : Chip × List Fv × List Bool :=
  let b := fmtBits o.fmt
  let nb := packedBytes o.fmt n
  let val (bs : List Byte) (i : Nat) : Fv := let v := decodeElem o.fmt (elemAt o.fmt bs i); if o.fmt = 8 ∧ !block then rne32 v else v
  if o.space = 1 then
    let x := (c.tile t).arr o.handle
    let bs := x.bytes o.off nb
    (c, (List.range n).map (val bs),
     (List.range n).map (fun i => (unitsOf 64 (o.off + i * b / 8) (cdiv (i * b % 8 + b) 8)).any (fun r => x.rowPoison r)))
  else
    let h := (c.tile t).hnd o.handle
    let r := c.fetchAll (tileReader true) (h.ranges t o.off nb)
    (r.1, (List.range n).map (val r.2.1),
     (List.range n).map (fun i => (h.ranges t (o.off + i * b / 8) (cdiv (i * b % 8 + b) 8)).any (fun p => r.1.poisoned p.1 p.2)))

/-- Read n scale bytes. -/
def Chip.readBytes (c : Chip) (t : Nat) (o : Opnd) (n : Nat) : Chip × List Byte × List Bool :=
  let h := (c.tile t).hnd o.handle
  let r := c.fetchAll (tileReader true) (h.ranges t o.off n)
  (r.1, r.2.1, (List.range n).map (fun i => (h.ranges t (o.off + i) 1).any (fun p => r.1.poisoned p.1 p.2)))

/-! ### Results -/

/-- An output of an operand. -/
def vout (o : Opnd) (vals : List Fv) (pz : List Bool) (satAll : Bool) : VOut :=
  { acc := if o.space = 1 then some (BitVec.ofNat 2 o.handle) else none, handle := o.handle, off := o.off, fmt := o.fmt, vals := vals,
    poison := pz, satAll := satAll }

/-- A quotient to 64 bits beyond FP32's precision, its lowest bit set where anything remains, so that one rounding of it is one
rounding of the exact quotient. -/
def divX (a b : Fv) : Fv :=
  match a, b with
  | .fin na ma ea, .fin nb mb eb =>
    if mb = 0 then .nan
    else
      let sh := 64 + bitLen mb
      let q := ma * 2 ^ sh / mb
      .fin (na != nb) (q * 2 + b2n (decide (ma * 2 ^ sh % mb ≠ 0))) (ea - eb - sh - 1)
  | _, _ => .nan

/-- RNE32 of 1 / n. -/
def recipNat (n : Nat) : Fv := rne32 (divX (.fin false 1 0) (.fin false n 0))

/-- Numeric order, the two zeros equal and NaN below everything (R195). -/
def topLess (a b : Fv) : Bool :=
  if a = .nan then decide (b ≠ .nan) else if b = .nan then false else if fisZero a && fisZero b then false else fltZ a b

/-- The index of the largest element not yet taken, the lowest among equals. -/
def topPick (xs : List Fv) (taken : List Nat) : Nat :=
  ((List.range xs.length).foldl (fun (best : Option Nat) i =>
    if taken.contains i then best
    else match best with
      | none => some i
      | some j => if topLess (xs.getD j .nan) (xs.getD i .nan) then some i else best) none).getD 0

/-- The indices that VEC.TOPK selects, in order. -/
def topk (k : Nat) (xs : List Fv) : List Nat := (List.range k).foldl (fun tk _ => tk ++ [topPick xs tk]) []

/-- ⌊log2⌋ of a finite non-zero magnitude. -/
def floorLog2 : Fv → Int
  | .fin _ m e => (bitLen m : Int) - 1 + e
  | _ => 0

/-- e_max of the element formats (R193). -/
def eMax (fmt : Nat) : Int := if fmt = 0 then 8 else if fmt = 1 then 15 else if fmt = 2 then 4 else 2

/-- The scale byte of a block with largest magnitude amax (R193). -/
def quantScale (fine : Bool) (fmt : Nat) (amax : Fv) : Nat :=
  if fine then
    if fisZero amax then 0
    else
      let mf : Fv := .fin false (maxFin fmt).1 (maxFin fmt).2
      ((List.range 0x7F).find? (fun k => decide (k ≠ 0) && !fltZ (mulX (decodeElem 0 k) mf) amax)).getD 0x7E
  else if fisZero amax then 0
  else (max (-127) (min 127 (floorLog2 amax - eMax fmt)) + 127).toNat

/-- A block quantised: its elements before rounding, and its scale byte (R193). -/
def quantBlock (fine : Bool) (fmt : Nat) (xs : List Fv) : List Fv × Nat :=
  if xs.any fspecial then (xs.map (fun _ => fzero false), if fine then 0x7F else 0xFF)
  else
    let amax := (xs.map fabs).foldl fmax (fzero false)
    let s := quantScale fine fmt amax
    let x := scaleVal (if fine then 2 else 1) (BitVec.ofNat 8 s)
    (xs.map (fun a => if fisZero x then fzero false else if fine then divX a x else fscale (127 - (s : Int)) a), s)

/-- A list cut into blocks of n. -/
def blocks {α : Type} (n : Nat) (xs : List α) : List (List α) := (List.range (cdiv xs.length n)).map (fun i => (xs.drop (i * n)).take n)

/-- Pairwise results of two operands, the second being one value or a list. -/
def zipB (f : Fv → Fv → Fv) (as bs : List Fv) : List Fv :=
  (List.range as.length).map (fun i => f (as.getD i .nan) (if bs.length = 1 then bs.getD 0 .nan else bs.getD i .nan))
/-- The poison of an elementwise result (R196). -/
def zipP (as bs : List Bool) : List Bool :=
  (List.range as.length).map (fun i => as.getD i false || (if bs.length = 1 then bs.getD 0 false else bs.getD i false))
/-- One poison bit for every result, from all inputs. -/
def allP (n : Nat) (ps : List Bool) : List Bool := List.replicate n (ps.any id)

/-- An elementwise operation of two operands, the second perhaps the immediate. -/
def vecZip (f : Fv → Fv → Fv) (c : Chip) (t : Nat) (q : QCmd) : Chip × List VOut :=
  let a := c.readOpnd t q.vA q.vLen false
  let b := if q.flag 49 then (a.1, [q.vImm], [false]) else a.1.readOpnd t q.vB q.nB false
  (b.1, [vout q.vD (zipB f a.2.1 b.2.1) (zipP a.2.2 b.2.2) false])

/-- A function of one operand. -/
def vecMap (f : Fv → Fv) (c : Chip) (t : Nat) (q : QCmd) : Chip × List VOut :=
  let a := c.readOpnd t q.vA q.vLen false
  (a.1, [vout q.vD (a.2.1.map f) a.2.2 false])

/-- VEC.FMA (R188): one rounding to FP32. -/
def vecFmaOut (c : Chip) (t : Nat) (q : QCmd) : Chip × List VOut :=
  let a := c.readOpnd t q.vA q.vLen false
  let b := if q.flag 49 then (a.1, [q.vImm], [false]) else a.1.readOpnd t q.vB q.nB false
  let d := b.1.readOpnd t q.vD q.vLen false
  (d.1, [vout q.vD (zipB (fun p x => rne32 (addX p x)) (zipB mulX a.2.1 b.2.1) d.2.1) (zipP (zipP a.2.2 b.2.2) d.2.2) false])

/-- A reduction to one value (R190). -/
def vecReduce (f : List Fv → Fv) (c : Chip) (t : Nat) (q : QCmd) : Chip × List VOut :=
  let a := c.readOpnd t q.vA q.vLen false
  (a.1, [vout q.vD [f a.2.1] (allP 1 a.2.2) false])

/-- VEC.SMSTEP (R191). -/
def vecSmstepOut (c : Chip) (t : Nat) (q : QCmd) : Chip × List VOut :=
  let a := c.readOpnd t q.vA q.vLen false
  let b := a.1.readOpnd t q.vB 4 false
  let m := b.2.1.getD 0 .nan
  let l := b.2.1.getD 1 .nan
  let as := a.2.1.map (fmul q.vImm)
  let m' := fmax m (rmax as)
  let none_ := decide (m' = .inf true)
  let ds := as.map (fun x => if none_ then fzero false else exp2 (fsub x m'))
  let cf := if none_ then .fin false 1 0 else exp2 (fsub m m')
  let l' := if none_ then l else rne32 (addX (mulX l cf) (rsum ds))
  let ps := a.2.2 ++ b.2.2
  (b.1, [vout q.vD ds (allP q.vLen ps) false, vout q.vB [m', l', cf, fzero false] (allP 4 ps) false])

/-- VEC.NORMSTAT (R192). -/
def vecNormstatOut (c : Chip) (t : Nat) (q : QCmd) : Chip × List VOut :=
  let a := c.readOpnd t q.vA q.vLen false
  let r := recipNat q.vLen
  let stat (xs : List Fv) : Fv := rsqrt (fadd (fmul (rsum (xs.map (fun x => fmul x x))) r) q.vImm)
  let mu := fmul (rsum a.2.1) r
  let vals := if q.vAux = 0 then [stat a.2.1] else [mu, stat (a.2.1.map (fun x => fsub x mu))]
  (a.1, [vout q.vD vals (allP vals.length a.2.2) false])

/-- VEC.QUANT (R193); the scale bytes are output format 9, which holds a byte as it is. -/
def vecQuantOut (c : Chip) (t : Nat) (q : QCmd) : Chip × List VOut :=
  let a := c.readOpnd t q.vA q.vLen false
  let n := blockOf q.vAux
  let fine := q.vAux == 2
  let bs := (blocks n a.2.1).map (quantBlock fine q.vD.fmt)
  let ps := blocks n a.2.2
  (a.1, [vout q.vD (bs.flatMap (fun b => b.1)) (ps.flatMap (fun p => allP p.length p)) true,
         { vout q.vS (bs.map (fun b => ofInt (b.2 : Int))) (ps.map (fun p => p.any id)) false with fmt := 9 }])

/-- VEC.DEQUANT (R194): the exact product, rounded once. -/
def vecDequantOut (c : Chip) (t : Nat) (q : QCmd) : Chip × List VOut :=
  let a := c.readOpnd t q.vA q.vLen true
  let s := a.1.readBytes t q.vS q.nS
  let n := blockOf q.vAux
  let val (i : Nat) : Fv := mulX (a.2.1.getD i .nan) (scaleVal q.vAux (s.2.1.getD (i / n) 0))
  let ps := (blocks n a.2.2).zipIdx.flatMap (fun p => allP p.1.length ((s.2.2.getD p.2 false) :: p.1))
  (s.1, [vout q.vD ((List.range q.vLen).map val) ps false])

/-- VEC.TOPK (R195). -/
def vecTopkOut (c : Chip) (t : Nat) (q : QCmd) : Chip × List VOut :=
  let a := c.readOpnd t q.vA q.vLen false
  let ix := topk q.vAux a.2.1
  (a.1, [vout q.vD (ix.map (fun i => a.2.1.getD i .nan)) (allP q.vAux a.2.2) false,
         vout q.vB (ix.map (fun (i : Nat) => ofInt (i : Int))) (allP q.vAux a.2.2) false])

/-! ### Compute slots and cycles (R187, R203) -/

/-- ⌈LENGTH / 64⌉. -/
def QCmd.n64 (q : QCmd) : Nat := cdiv q.vLen 64

/-- Cycles beyond issue + 12 (R187). -/
def vecCycles (q : QCmd) : Nat :=
  let n := q.n64
  if q.op ≤ 0x26 then n
  else if q.op ≤ 0x2B then 2 * n
  else if q.op ≤ 0x31 then n + 6
  else if q.op = 0x32 then 3 * n + 8
  else if q.op = 0x33 then (if q.vAux = 0 then n + 10 else 2 * n + 18)
  else if q.op = 0x34 then 2 * n + 6
  else if q.op = 0x35 then n
  else n + q.vAux + 6

/-- The words of elements lo to lo + n − 1 of a scratchpad operand, as word numbers of the window. -/
def Tile.opndWords (t : Tile) (tile : Nat) (o : Opnd) (bits lo n : Nat) : List Nat :=
  if o.space ≠ 0 ∨ n = 0 then []
  else (((t.hnd o.handle).ranges tile (o.off + lo * bits / 8) (cdiv (lo * bits % 8 + n * bits) 8)).flatMap
    (fun r => unitsOf 32 (r.1 - spdBase) r.2)).eraseDups

/-- Result words due in one ac and lying in one bank are written one per ac, ending in the due ac (R203). -/
def spreadWrites : List (Nat × Nat × Nat) → List (Nat × Nat × Nat)
  | [] => []
  | w :: ws =>
    let k := (ws.filter (fun x => decide (x.2.1 = w.2.1) && decide (x.2.2 % 32 = w.2.2 % 32))).length
    (w.2.1 - k, w.2.1 - k, w.2.2) :: spreadWrites ws

/-- A pass of a vector command over an operand (R203): whether it writes, the operand, its element's bits, its elements, the ac in
which chunk 0 is due, and the ac from chunk to chunk. -/
structure VPass where
  wr   : Bool
  o    : Opnd
  bits : Nat
  n    : Nat
  a0   : Nat
  p    : Nat

/-- All passes of a vector command, writes first. -/
def vecPasses (issue : Nat) (q : QCmd) : List VPass :=
  let fb (o : Opnd) := fmtBits o.fmt
  let last := issue + 12 + vecCycles q - 6
  let n := q.n64
  let p := if (0x28 ≤ q.op ∧ q.op ≤ 0x2B) ∨ q.op = 0x34 then 2 else 1
  let d (a0 p : Nat) : VPass := ⟨true, q.vD, fb q.vD, q.nD, a0, p⟩
  let wD := if q.op ≤ 0x26 ∨ q.op = 0x35 then d (issue + 7) 1
    else if q.op ≤ 0x2B ∨ q.op = 0x34 then d (issue + 8) 2
    else if q.op = 0x32 then d (issue + 14 + n) 2
    else d last 0
  let wB : List VPass := if q.op = 0x32 ∨ q.op = 0x36 then [⟨true, q.vB, fb q.vB, q.nB, last, 0⟩] else []
  let wS : List VPass := if q.op = 0x34 then [⟨true, q.vS, 8, q.nS, last, 0⟩] else []
  let rA (p0 p : Nat) : VPass := ⟨false, q.vA, fb q.vA, q.vLen, issue + 1 + p0, p⟩
  let second := if q.op = 0x32 then [rA (n + 6) 2] else if q.op = 0x33 ∧ q.vAux = 1 then [rA (n + 9) 1] else []
  let rB : List VPass := if q.usesB && q.op != 0x36 then [⟨false, q.vB, fb q.vB, q.nB, issue + 1, p⟩] else []
  let rS : List VPass := if q.op = 0x35 then [⟨false, q.vS, 8, q.nS, issue + 1, p⟩] else []
  let rD : List VPass := if q.op = 0x23 then [⟨false, q.vD, fb q.vD, q.nD, issue + 1, p⟩] else []
  [wD] ++ wB ++ wS ++ [rA 0 p] ++ second ++ rB ++ rS ++ rD

/-- The compute slots of a pass: for each word the ac from which it may be taken, three before it is due for a read, the ac it is
due, and the word. -/
def VPass.slots (x : VPass) (t : Tile) (tile issue : Nat) : List (Nat × Nat × Nat) :=
  (List.range (cdiv x.n 64)).flatMap (fun k =>
    let due := x.a0 + k * x.p
    (t.opndWords tile x.o x.bits (64 * k) (min 64 (x.n - 64 * k))).map
      (fun w => (if x.wr then due else max (issue + 1) (due - 3), due, w)))

/-- All uses of compute slots of a vector command (R203), writes first. -/
def vecSlots (t : Tile) (tile issue : Nat) (q : QCmd) : List (Nat × Nat × Nat) :=
  let ps := vecPasses issue q
  spreadWrites ((ps.filter (fun x => x.wr)).flatMap (fun x => x.slots t tile issue)) ++
    (ps.filter (fun x => !x.wr)).flatMap (fun x => x.slots t tile issue)

/-- The uses of accumulator buffers' ports by a vector command in progress (R142, R203): ac and buffer, each in the ac its chunk is
due (log 80). -/
def VecOp.ports (v : VecOp) : List (Nat × Nat) :=
  (vecPasses (v.dueAc - 12 - vecCycles v.cmd) v.cmd).flatMap (fun x =>
    if x.o.space = 1 then (List.range (cdiv x.n 64)).map (fun k => (x.a0 + k * x.p, x.o.handle)) else [])

/-! ### Issue and completion -/

/-- Issue a vector command: it takes a scoreboard entry for what it writes in scratchpad (R217) and the vector unit until its
issue plus 12 ac plus its cycles (R187). -/
def vecRun (f : Chip → Nat → QCmd → Chip × List VOut) (c : Chip) (t : Nat) (q : QCmd) : Chip :=
  let r := f c t q
  let c := r.1.traceTile 2 t 0x01 0 false (q.w 0) (q.w 1) 0 0
  c.updTile t (fun x =>
    let gs := x.vWrites q
    let x := if gs.isEmpty then x else x.sbTake gs q.idx
    { x with vec := some ⟨q, c.nowAc + 12 + vecCycles q, r.2, vecSlots x t c.nowAc q⟩ })

/-- A vector opcode at issue. -/
def vecIssue (f : Chip → Nat → QCmd → Chip × List VOut) : Issue :=
  { checks := vecChecks, hold := vecHold, late := fun _ _ _ => none, run := vecRun f }

/-- VEC.ADD. -/
def execVecAdd (t : TileId) (s : State) : Host.Outcome State Fault Refusal := onChip (issueRow (vecIssue (vecZip fadd)) (· == 0x20) t.toNat) s
/-- VEC.SUB. -/
def execVecSub (t : TileId) (s : State) : Host.Outcome State Fault Refusal := onChip (issueRow (vecIssue (vecZip fsub)) (· == 0x21) t.toNat) s
/-- VEC.MUL. -/
def execVecMul (t : TileId) (s : State) : Host.Outcome State Fault Refusal := onChip (issueRow (vecIssue (vecZip fmul)) (· == 0x22) t.toNat) s
/-- VEC.FMA. -/
def execVecFma (t : TileId) (s : State) : Host.Outcome State Fault Refusal := onChip (issueRow (vecIssue vecFmaOut) (· == 0x23) t.toNat) s
/-- VEC.MAX. -/
def execVecMax (t : TileId) (s : State) : Host.Outcome State Fault Refusal := onChip (issueRow (vecIssue (vecZip fmax)) (· == 0x24) t.toNat) s
/-- VEC.MIN. -/
def execVecMin (t : TileId) (s : State) : Host.Outcome State Fault Refusal := onChip (issueRow (vecIssue (vecZip fmin)) (· == 0x25) t.toNat) s
/-- VEC.CVT. -/
def execVecCvt (t : TileId) (s : State) : Host.Outcome State Fault Refusal := onChip (issueRow (vecIssue (vecMap id)) (· == 0x26) t.toNat) s
/-- VEC.EXP2. -/
def execVecExp2 (t : TileId) (s : State) : Host.Outcome State Fault Refusal := onChip (issueRow (vecIssue (vecMap exp2)) (· == 0x28) t.toNat) s
/-- VEC.LOG2. -/
def execVecLog2 (t : TileId) (s : State) : Host.Outcome State Fault Refusal := onChip (issueRow (vecIssue (vecMap log2)) (· == 0x29) t.toNat) s
/-- VEC.RCP. -/
def execVecRcp (t : TileId) (s : State) : Host.Outcome State Fault Refusal := onChip (issueRow (vecIssue (vecMap rcp)) (· == 0x2A) t.toNat) s
/-- VEC.RSQRT. -/
def execVecRsqrt (t : TileId) (s : State) : Host.Outcome State Fault Refusal := onChip (issueRow (vecIssue (vecMap rsqrt)) (· == 0x2B) t.toNat) s
/-- VEC.RSUM. -/
def execVecRsum (t : TileId) (s : State) : Host.Outcome State Fault Refusal := onChip (issueRow (vecIssue (vecReduce rsum)) (· == 0x30) t.toNat) s
/-- VEC.RMAX. -/
def execVecRmax (t : TileId) (s : State) : Host.Outcome State Fault Refusal := onChip (issueRow (vecIssue (vecReduce rmax)) (· == 0x31) t.toNat) s
/-- VEC.SMSTEP. -/
def execVecSmstep (t : TileId) (s : State) : Host.Outcome State Fault Refusal := onChip (issueRow (vecIssue vecSmstepOut) (· == 0x32) t.toNat) s
/-- VEC.NORMSTAT. -/
def execVecNormstat (t : TileId) (s : State) : Host.Outcome State Fault Refusal := onChip (issueRow (vecIssue vecNormstatOut) (· == 0x33) t.toNat) s
/-- VEC.QUANT. -/
def execVecQuant (t : TileId) (s : State) : Host.Outcome State Fault Refusal := onChip (issueRow (vecIssue vecQuantOut) (· == 0x34) t.toNat) s
/-- VEC.DEQUANT. -/
def execVecDequant (t : TileId) (s : State) : Host.Outcome State Fault Refusal := onChip (issueRow (vecIssue vecDequantOut) (· == 0x35) t.toNat) s
/-- VEC.TOPK. -/
def execVecTopk (t : TileId) (s : State) : Host.Outcome State Fault Refusal := onChip (issueRow (vecIssue vecTopkOut) (· == 0x36) t.toNat) s

/-- The codes an output rounds to (R177 to R179): format 9 holds bytes as they are. -/
def VOut.codes (o : VOut) (q : QCmd) (seed : W64) (t : Nat) : List Narrow :=
  o.vals.zipIdx.map (fun v =>
    if o.fmt = 9 then ⟨(match v.1 with | .fin _ m e => m * 2 ^ e.toNat | _ => 0), false, false⟩
    else
      let r := if q.stoch ∧ o.fmt ≠ 7 ∧ o.fmt ≠ 8 then some (stochRand seed t q.idx v.2) else none
      if o.satAll then narrowSat o.fmt r v.1 else narrow o.fmt q.sat r v.1)

/-- Codes packed (R164), the bits of the last byte that no element covers keeping what is stored there. -/
def packCodes (bits : Nat) (codes : List Nat) (last : Byte) : List Byte :=
  let n := cdiv (bits * codes.length) 8
  let used := bits * codes.length % 8
  let x := codes.foldr (fun k acc => k % 2 ^ bits + acc * 2 ^ bits) 0
  leBytes n (if used = 0 then x else x + last.toNat / 2 ^ used * 2 ^ used * 2 ^ (8 * (n - 1)))

/-- Write one output (R177, R196, R198): saturations and NaN poisonings are counted, and granules that hold a poisoned result are
marked. -/
def Chip.writeOut (c : Chip) (t : Nat) (q : QCmd) (seed : W64) (o : VOut) : Chip :=
  let b := if o.fmt = 9 then 8 else fmtBits o.fmt
  let cs := o.codes q seed t
  let pz := (List.range cs.length).map (fun i => (cs.getD i ⟨0, false, false⟩).nanp || o.poison.getD i false)
  let hit (i n : Nat) : Bool := (List.range cs.length).any (fun k => pz.getD k false && overlap (k * b) b (8 * i) (8 * n))
  let nb := cdiv (b * cs.length) 8
  let c := c.updTile t (fun x => { x with cnt := { x.cnt with
    sat := addN x.cnt.sat (cs.filter (fun k => k.sat)).length, nanp := addN x.cnt.nanp (cs.filter (fun k => k.nanp)).length } })
  match o.acc with
  | some a =>
    let old := ((c.tile t).arr a.toNat).bytes (o.off + nb - 1) 1
    let bs := packCodes b (cs.map (fun k => k.code)) (old.headD 0)
    c.updTile t (fun x => x.updArr a.toNat (fun y => y.writeBytes o.off bs (fun r =>
      (List.range cs.length).any (fun k => pz.getD k false && overlap (o.off * 8 + k * b) b (r * 512) 512))))
  | none =>
    let h := (c.tile t).hnd o.handle
    let old := c.bytes (h.addr t (o.off + nb - 1)) 1
    c.writeBy (tileReader true) (h.pieces t o.off (packCodes b (cs.map (fun k => k.code)) (old.headD 0)) hit)

/-- A vector command completes (R187), on a frozen tile too (R126). -/
def vectorComplete (t : Nat) (c : Chip) : Chip :=
  match (c.tile t).vec with
  | none => c
  | some v => Chip.when (decide (v.dueAc ≤ c.nowAc))
      (fun c =>
        let seed := match c.runs with | r :: _ => r.seed | [] => 0
        let c := v.outs.foldl (fun c o => c.writeOut t v.cmd seed o) c
        let c := c.traceTile 2 t 0x02 0 (v.outs.any (fun o => o.poison.any id)) (v.cmd.w 0) (v.cmd.w 1) 0 0
        c.updTile t (fun x => { x.sbFree v.cmd.idx with vec := none })) c
/-- VECTOR_COMPLETE. -/
def execVectorComplete (t : TileId) (s : State) : Host.Outcome State Fault Refusal := onChip (vectorComplete t.toNat) s

end Sys2Proof.Machine
end

