-- ==== Sys2Proof/Machine/Codec.lean ====
section
/-! DEFINITION. The codec (R307 to R328): encoding and decoding of groups under a level table, the checks of a coded block, and
the windows that make an access coded. -/
namespace Sys2Proof.Machine

/-- Code width in bits of a mode: 1 C8, 2 C6, 3 C4 (R307). -/
def cdcWidth (mode : Nat) : Nat := if mode = 1 then 8 else if mode = 2 then 6 else 4
/-- Code area of a block. -/
def cdcArea (mode : Nat) : Nat := if mode = 2 then 384 else 256
/-- Bytes of the coded part of a group (R308). -/
def cdcLen (mode : Nat) : Nat := 64 + 8 * cdcArea mode
/-- Raw element format of a mode (R307, R323). -/
def cdcRaw (mode : Nat) (f8 : Bool) : Nat := if mode = 1 then 6 else if f8 then 1 else 0
/-- Elements of a block. -/
def cdcElems (mode : Nat) : Nat := if mode = 1 then 256 else 512
/-- Levels that a mode uses. -/
def cdcLevels (mode : Nat) : Nat := if mode = 3 then 16 else 64

/-- MODE of a table (R313); an empty version has none. -/
def tabMode (tab : List Byte) : Nat := if tab = [] then 0 else fld (wordAt tab 0) 1 0
/-- Level i of a table. -/
def tabLevel (tab : List Byte) (i : Nat) : Fv := decodeElem 6 (leNat (slice tab (0x10 + 2 * i) 2))
/-- The levels that a table's mode uses. -/
def tabLevels (tab : List Byte) : List Fv := (List.range (cdcLevels (tabMode tab))).map (tabLevel tab)
/-- Lmax: the largest magnitude among them. -/
def tabMax (tab : List Byte) : Fv := ((tabLevels tab).map fabs).foldl fmax (fzero false)
/-- Whether a table meets R314. -/
def tabOk (tab : List Byte) : Bool :=
  decide (tab.length = 144) && tabMode tab != 0 && decide (fld (wordAt tab 0) 63 2 = 0) && decide (wordAt tab 8 = 0) &&
  (tabLevels tab).all (fun v => !fspecial v) && !fisZero (tabMax tab) &&
  (tabMode tab != 3 || (List.range 48).all (fun i => decide (leNat (slice tab (0x30 + 2 * i) 2) = 0)))

/-- A version of a slot. -/
def CSlot.tab (s : CSlot) (v : Bool) : List Byte := if v then s.tab1 else s.tab0

/-- The shared exponent X of a block (R316). -/
def cdcExp (lmax : Fv) (xs : List Fv) : Nat :=
  if xs.any fspecial then 0xFF
  else
    let amax := (xs.map fabs).foldl fmax (fzero false)
    if fisZero amax then 127
    else
      let d := floorLog2 amax - floorLog2 lmax
      let k := if fltZ (fscale d lmax) amax then d + 1 else d
      (max 0 (min 254 (127 + k))).toNat

/-- Index of the level nearest to q, the lower among equals (R317). -/
def nearest (levels : List Fv) (q : Fv) : Nat :=
  ((List.range levels.length).foldl (fun (best : Nat × Fv) i =>
    let d := fabs (subX q (levels.getD i .nan))
    if fltZ d best.2 then (i, d) else best) (0, fabs (subX q (levels.getD 0 .nan)))).1

/-- The code of an element (R317). -/
def cdcCode (mode : Nat) (levels : List Fv) (lmax : Fv) (x : Nat) (e : Fv) : Nat :=
  let q := fscale (127 - (x : Int)) e
  if mode = 1 then
    let k := ((List.range 4).filter (fun k => !fltZ lmax (fabs (fscale (4 * k : Nat) q)))).getLastD 0
    k * 64 + nearest levels (fscale (4 * k : Nat) q)
  else nearest levels q

/-- Encode one raw block: its header word and its code area (R311, R316 to R318). -/
def encodeBlock (mode : Nat) (f8 : Bool) (slot : Nat) (ver : Bool) (tab raw : List Byte) : Nat × List Byte :=
  let fmt := cdcRaw mode f8
  let xs := (List.range (cdcElems mode)).map (fun i => decodeElem fmt (elemAt fmt raw i))
  let lmax := tabMax tab
  let x := cdcExp lmax xs
  let codes := if x = 0xFF then xs.map (fun _ => 0) else xs.map (cdcCode mode (tabLevels tab) lmax x)
  let area := packCodes (cdcWidth mode) codes 0
  (crc16 area * 65536 + slot * 512 + b2n ver * 256 + x, area)

/-- Encode a group: headers, padding, code areas (R308). -/
def encodeGroup (mode : Nat) (f8 : Bool) (slot : Nat) (ver : Bool) (tab raw : List Byte) : List Byte :=
  let bs := (List.range 8).map (fun b => encodeBlock mode f8 slot ver tab (slice raw (512 * b) 512))
  (bs.flatMap (fun b => leBytes 4 b.1)) ++ zeros 32 ++ bs.flatMap (fun b => b.2)

/-- A decoded value in the raw format (R320): an FP8 overflow saturates. -/
def rawCode (fmt : Nat) (v : Fv) : Nat := (narrowSat fmt none v).code

/-- Decode a block's code area (R320). -/
def decodeBlock (mode : Nat) (f8 : Bool) (tab : List Byte) (x : Nat) (area : List Byte) : List Byte :=
  let fmt := cdcRaw mode f8
  let w := cdcWidth mode
  let codes := (List.range (cdcElems mode)).map (fun i =>
    leNat (slice area (w * i / 8) 2) / 2 ^ (w * i % 8) % 2 ^ w)
  let val (k : Nat) : Nat :=
    if x = 0xFF then nanCode fmt
    else if mode = 1 then rawCode fmt (fscale ((x : Int) - 127 - 4 * (k / 64 : Nat)) (tabLevel tab (k % 64)))
    else rawCode fmt (fscale ((x : Int) - 127) (tabLevel tab k))
  packCodes (fmtBits fmt) (codes.map val) 0

/-- Why a block decodes as poisoned (R321), in its order. -/
inductive CdcBad where
  | poison | format | check
deriving DecidableEq, Repr

/-- Record a failing block (R321, R322): its counter; for CHECK and FORMAT the address, and once per run and unit the status bit
and the event; a decode for the run starts a recovery of class 0x05 (R461). -/
def Chip.cdcFail (c : Chip) (unit : Nat) (bad : CdcBad) (addr hdr : Nat) (run : Bool) : Chip :=
  match bad with
  | .poison => c.updCdc unit (fun u => { u with poisonIn := u.poisonIn + 1 })
  | .check =>
    let first := !(c.cdc unit).raisedCheck
    let c := c.updCdc unit (fun u => { u with check := u.check + 1, lastFail := addr, raisedCheck := true, chkBit := u.chkBit || first })
    let c := if first then c.raise 0 0x0501 4 unit (BitVec.ofNat 64 addr) (BitVec.ofNat 64 hdr) else c
    if run then c.detect 0x05 (c.keptPlace addr) else c
  | .format =>
    let first := !(c.cdc unit).raisedFormat
    let c := c.updCdc unit (fun u => { u with format := u.format + 1, lastFail := addr, raisedFormat := true, fmtBit := u.fmtBit || first })
    let c := if first then c.raise 0 0x0502 4 unit (BitVec.ofNat 64 addr) (BitVec.ofNat 64 hdr) else c
    if run then c.detect 0x05 (c.keptPlace addr) else c

/-- n bytes whose values the manual leaves open. -/
def Chip.freeBytes (c : Chip) (n : Nat) : Chip × List Byte :=
  ({ c with fresh := ⟨c.fresh.n + n⟩ }, (List.range n).map (fun i => Config.freeByte (c.fresh.n + i)))

/-- Decode a coded group at an address in an access mode: 4 KiB of raw bytes and which blocks are poisoned. pz tells which
64 B granules of the coded part are poisoned. -/
def Chip.decodeGroup (c : Chip) (unit addr mode : Nat) (f8 : Bool) (coded : List Byte) (pz : Nat → Bool) (run : Bool) :
    Chip × List Byte × List Bool :=
  (List.range 8).foldl (fun acc b =>
    let hdr := leNat (slice coded (4 * b) 4)
    let a := cdcArea mode
    let area := slice coded (64 + b * a) a
    let tab := (acc.1.cslot (hdr / 512 % 128)).tab (decide (hdr / 256 % 2 = 1))
    let bad : Option CdcBad :=
      if pz 0 || (List.range (a / 64)).any (fun i => pz (1 + b * (a / 64) + i)) then some .poison
      else if (slice coded 32 32).any (fun x => x != 0) then some .format
      else if tabMode tab ≠ mode then some .format
      else if crc16 area ≠ hdr / 65536 then some .check else none
    let c := acc.1.updCdc unit (fun u => { u with dec := u.dec + 1 })
    match bad with
    | some k =>
      let r := (c.cdcFail unit k (addr + 512 * b) (if pz 0 then 0 else hdr) run).freeBytes 512
      (r.1, acc.2.1 ++ r.2, acc.2.2 ++ [true])
    | none => (c, acc.2.1 ++ decodeBlock mode f8 tab (hdr % 256) area, acc.2.2 ++ [false])) (c, [], [])

/-! ### Windows (R323, R325) -/

/-- The channel window that holds an address. -/
def Run.chanWin (r : Run) (a : Nat) : Option CodecWin := r.wins.find? (fun w => w.strait.isNone && within a 1 w.base w.size)
/-- The strait window that holds an address of the far module. -/
def Run.straitWin (r : Run) (st : Strait) (a : Nat) : Option CodecWin :=
  r.wins.find? (fun w => w.strait == some st && within a 1 w.base w.size)
/-- Whether a range meets a channel window. -/
def Run.meetsWin (r : Run) (a n : Nat) : Bool := r.wins.any (fun w => w.strait.isNone && overlap a n w.base w.size)
/-- Whether a range meets a window of a strait. -/
def Run.meetsStraitWin (r : Run) (st : Strait) (a n : Nat) : Bool := r.wins.any (fun w => w.strait == some st && overlap a n w.base w.size)

/-- Whether the coded side of a command is in order (R325): it lies in one window, on group boundaries, in whole groups. -/
def codedOk (w : CodecWin) (a n : Nat) : Bool := within a n w.base w.size && decide (a % 4096 = 0) && decide (n % 4096 = 0)

/-- Write one raw group through a channel window (R318, R319): the coded part only. pz: which raw blocks are poisoned. -/
def Chip.writeCoded (c : Chip) (by_ : Reader) (w : CodecWin) (a : Nat) (raw : List Byte) (pz : Nat → Bool) : Chip :=
  let mode := w.cmode.toNat
  let ver := decide (w.version = 1)
  let tab := (c.cslot w.cslot.toNat).tab ver
  let bs := encodeGroup mode w.f8 w.cslot.toNat ver tab raw
  let c := c.updCdc (chanOf a) (fun u => { u with enc := addN u.enc 8 })
  let ar := cdcArea mode
  c.writeBy by_ ((a, slice bs 0 64, false) ::
    (List.range 8).map (fun b => (a + 64 + b * ar, slice bs (64 + b * ar) ar, pz b)))

/-- Read one raw group through a channel window: raw bytes and which raw blocks are poisoned. -/
def Chip.readCoded (c : Chip) (mode : Nat) (f8 : Bool) (a : Nat) (by_ : Reader) : Chip × List Byte × List Bool :=
  let c := c.touch a (cdcLen mode) by_
  c.decodeGroup (chanOf a) a mode f8 (c.bytes a (cdcLen mode)) (fun g => c.poisoned (a + 64 * g) 64) by_.run

end Sys2Proof.Machine
end

