-- ==== Sys2Proof/Machine/Transfers.lean ====
section
/-! DEFINITION. Streams and transfers (R221 to R223, R236 to R263, R325, R370, R371): DMA, DMA2D and FERRY_PULL at issue, the
reservation directory, the movement of their units, accumulate-on-write, completion. -/
namespace Sys2Proof.Machine

/-! ### Fields (R247 to R251) -/

def QCmd.srcSpace (q : QCmd) : Nat := fld (q.w 2) 63 62
def QCmd.srcBerth (q : QCmd) : Nat := fld (q.w 2) 61 53
def QCmd.srcH (q : QCmd) : Nat := fld (q.w 2) 46 41
def QCmd.srcOff (q : QCmd) : Nat := fld (q.w 2) 40 0
def QCmd.dstH (q : QCmd) : Nat := fld (q.w 3) 46 41
def QCmd.dstOff (q : QCmd) : Nat := fld (q.w 3) 40 0
def QCmd.contrib (q : QCmd) : Nat := fld (q.w 4) 59 56
def QCmd.route (q : QCmd) : Nat := fld (q.w 4) 55 53
def QCmd.streamNo (q : QCmd) : Nat := fld (q.w 4) 50 48
def QCmd.lenG (q : QCmd) : Nat := fld (q.w 4) 23 0
def QCmd.ddl (q : QCmd) : Nat := fld (q.w 5) 63 32
def QCmd.dstTile (q : QCmd) : Nat := fld (q.w 5) 29 18
def QCmd.dstSyncNo (q : QCmd) : Nat := fld (q.w 5) 17 12
def QCmd.doneSyncNo (q : QCmd) : Nat := fld (q.w 5) 5 0
def QCmd.dstPitch (q : QCmd) : Nat := fld (q.w 6) 63 32
def QCmd.srcPitch (q : QCmd) : Nat := fld (q.w 6) 31 0
def QCmd.twidth (q : QCmd) : Nat := fld (q.w 7) 15 14
def QCmd.rows (q : QCmd) : Nat := fld (q.w 7) 12 0
def QCmd.stepIx (q : QCmd) : Nat := fld (q.w 6) 31 0

/-- Whether a sync field names no object and is not 63 (R252). -/
def syncBad (o : Nat) : Bool := decide (48 ≤ o) && decide (o ≤ 62)

/-- Words that a transposed read writes: one for each element of a word (R215). -/
def twWords (tw : Nat) : Nat := if tw = 1 then 32 else if tw = 2 then 16 else 8

/-- Bytes of a command's own length (R248 to R250). -/
def QCmd.bytes (q : QCmd) : Nat :=
  if q.op = 0x41 then (if q.twidth = 0 then q.rows * q.lenG * 32 else twWords q.twidth * 32) else q.lenG * 32

/-- The source footprint in bytes from SRC.OFF (R210). -/
def QCmd.srcSpan (q : QCmd) (h : Hnd) : Nat :=
  if q.op = 0x41 then (if q.twidth = 0 then (q.rows - 1) * q.srcPitch + q.lenG * 32 else (q.rows - 1) * 1024 * h.pitch + 32)
  else q.lenG * 32
/-- The destination footprint in bytes from DST.OFF. -/
def QCmd.dstSpan (q : QCmd) : Nat :=
  if q.op = 0x41 then (if q.twidth = 0 then (q.rows - 1) * q.dstPitch + q.lenG * 32 else (twWords q.twidth - 1) * q.dstPitch + 32)
  else q.lenG * 32

/-- The region of the running image with a number, if its reservation for a step index is live. -/
def Chip.liveBerth (c : Chip) (n step : Nat) : Option Berth :=
  match c.run with
  | none => none
  | some r => match r.berths[n]? with
    | some b => if b.st = .live ∧ b.tagIx = step then some b else none
    | none => none

/-- The size of a berth region, 0 where the image has none. -/
def Chip.berthSize (c : Chip) (n : Nat) : Nat := match c.run with | some r => (match r.berths[n]? with | some b => b.size | none => 0) | none => 0

/-- Whether the region number is in the image's list. -/
def Chip.hasBerth (c : Chip) (n : Nat) : Bool := match c.run with | some r => decide (n < r.berths.length) | none => false

/-- Change one berth region of the active run. -/
def Chip.updBerth (c : Chip) (n : Nat) (f : Berth → Berth) : Chip := c.updRun (fun r => { r with berths := r.berths.modify n f })

/-! ### Checks at issue (R252, R325, R348) -/

/-- A step index minus one, as R251 names a forwarded half's reservation. -/
def QCmd.srcStep (q : QCmd) : Nat := if q.op = 0x43 then q.stepIx - 1 else q.stepIx

/-- The local address ranges of a transfer's source, a berth's region or a handle's. -/
def Chip.srcRanges (c : Chip) (t : Nat) (q : QCmd) (o n : Nat) : List (Nat × Nat) :=
  if q.srcSpace = 2 then (match c.liveBerth q.srcBerth q.srcStep with | some b => [(b.base + o, n)] | none => [])
  else if q.srcSpace = 1 ∨ (c.hnd t q.srcH).kind = 3 then [] else (c.hnd t q.srcH).ranges t o n

/-- Whether coding rules refuse a command (R325). -/
def Chip.codingBad (c : Chip) (t : Nat) (q : QCmd) : Bool :=
  match c.run with
  | none => false
  | some r =>
    let d2 := q.op == 0x41
    let rows := if d2 then q.rows else 1
    let h := c.hnd t q.dstH
    -- a footprint of n bytes from a, of rows so many bytes apart, against the window its first byte lies in
    let bad (meets : Bool) (w : Option CodecWin) (a n pitch : Nat) : Bool := meets && (match w with
      | some w => !within a n w.base w.size || decide (a % 4096 ≠ 0) || decide (q.lenG % 128 ≠ 0) ||
          (decide (1 < rows) && decide (pitch % 4096 ≠ 0)) || (d2 && q.twidth != 0)
      | none => true)
    let chan (pitch : Nat) (p : Nat × Nat) : Bool := bad (r.meetsWin p.1 p.2) (r.chanWin p.1) p.1 p.2 pitch
    let tee := match c.liveBerth (fld (q.w 3) 61 53) q.stepIx with | some b => b.base + q.dstOff | none => 0
    (c.srcRanges t q q.srcOff (q.srcSpan (c.hnd t q.srcH))).any (chan q.srcPitch) ||
    (if q.op = 0x43 then q.flag 52 && chan 0 (tee, q.lenG * 32)
     else if q.route = 0 then decide (h.kind = 2) && chan q.dstPitch (h.base + q.dstOff, q.dstSpan)
     else
      let a := h.base + q.dstOff
      bad (r.meetsStraitWin (routeStrait q.route) a q.dstSpan) (r.straitWin (routeStrait q.route) a) a q.dstSpan 0)

/-- Whether a range given by handle lies in its buffer, its accumulator buffer or its berth region. -/
def Chip.srcFits (c : Chip) (t : Nat) (q : QCmd) : Bool :=
  let n := q.srcSpan (c.hnd t q.srcH)
  if q.srcSpace = 1 then decide (q.srcOff + n ≤ 8192)
  else if q.srcSpace = 2 then !c.hasBerth q.srcBerth || decide (q.srcOff + n ≤ c.berthSize q.srcBerth)
  else (c.hnd t q.srcH).fits q.srcOff n

/-- The checks of DMA, DMA2D and FERRY_PULL. -/
def xferChecks (c : Chip) (t : Nat) (q : QCmd) : Checks :=
  let h := c.hnd t q.dstH
  let s := c.hnd t q.srcH
  let raw := (c.tile t).hnd q.dstH
  let dma := q.op == 0x40
  let d2 := q.op == 0x41
  let pull := q.op == 0x42
  let acc := q.flag 51
  let tr := d2 && q.twidth != 0
  { reserved := q.resv 2 [(52, 47)] || q.resv 3 [(63, 47)] || q.resv 4 [(63, 60), (52, 51), (47, 24)] || q.resv 5 [(31, 30), (11, 6)] ||
      (dma && (q.resv 6 [(63, 0)] || q.resv 7 [(63, 0)])) || (d2 && q.resv 7 [(63, 16), (13, 13)]) ||
      (pull && (q.resv 6 [(63, 32)] || q.resv 7 [(63, 0)])) || (!acc && q.contrib != 0) ||
      (q.srcSpace != 2 && q.srcBerth != 0) || (q.srcSpace == 2 && q.srcH != 0),
    narrow := false,
    flagErr := q.flag 52 || q.flag 53 || (acc && !dma),
    own := [(q.lenG == 0, 0x09),
            (d2 && (q.rows == 0 || decide (4096 < q.rows) || decide (0xFF_FFFF < q.rows * q.lenG) || decide (q.dstPitch < q.lenG * 32)), 0x09),
            (syncBad q.dstSyncNo || syncBad q.doneSyncNo, 0x09),
            (q.flag 50 && q.ddl == 0, 0x09),
            (!c.srcFits t q || !h.fits q.dstOff q.dstSpan, 0x05),
            ((q.srcSpace == 0 && s.kind == 0) || (q.srcSpace == 1 && decide (4 ≤ q.srcH)) || h.kind == 0 ||
              (q.route != 0 && raw.kind != 2), 0x06),
            (tr && (s.kind != 1 || s.map != 1 || q.lenG != 1 || decide (32 < q.rows) || q.srcPitch != 0), 0x04),
            (decide (q.srcOff % 32 ≠ 0) || decide (q.dstOff % 32 ≠ 0) ||
              (d2 && (decide (q.srcPitch % 32 ≠ 0) || decide (q.dstPitch % 32 ≠ 0))), 0x0A),
            (acc && (decide (q.dstOff % 64 ≠ 0) || decide (q.bytes % 64 ≠ 0)), 0x0A),
            (if dma then decide (2 ≤ q.srcSpace) || (decide (0 < q.route) && decide (q.route < 4))
             else if d2 then q.srcSpace != 0 || q.route != 0 else q.srcSpace != 2 || q.route != 0, 0x0A),
            (q.srcSpace == 2 && (c.liveBerth q.srcBerth q.srcStep).isNone, 0x0A),
            ((s.kind == 3 && q.srcSpace == 0 && c.trayRefuses s.slot) || (h.kind == 3 && c.trayRefuses h.slot), 0x0A),
            (c.codingBad t q, 0x0A)] }

/-! ### Streams (R238, R243 to R245) -/

/-- How many streams hold an active transfer. -/
def Tile.actives (t : Tile) : Nat := (t.streams.filter (fun e => e.2.active.isSome)).length

/-- Granules of a tile's own scratchpad that a footprint covers (R218), also one that a handle or a berth names by local address. -/
def Hnd.ownGrans (h : Hnd) (t o n : Nat) : NatSet :=
  if h.kind = 2 ∧ n ≠ 0 then
    let lo := spdBase + t * 0x8_0000
    let a := max lo (h.base + o)
    let b := min (lo + 0x8_0000) (h.base + o + n)
    if a < b then unitsOf 64 (a - lo) (b - a) else []
  else h.grans o n

/-- Scratchpad granules of its tile that a transfer writes (R217). -/
def Chip.xferWrites (c : Chip) (t : Nat) (q : QCmd) : NatSet :=
  if q.route = 0 then (c.hnd t q.dstH).ownGrans t q.dstOff q.dstSpan else []
/-- Whether a transfer writes this tile's scratchpad (R217). -/
def Chip.writesOwn (c : Chip) (t : Nat) (q : QCmd) : Bool := !(c.xferWrites t q).isEmpty
/-- Scratchpad granules it reads. -/
def Chip.xferReads (c : Chip) (t : Nat) (q : QCmd) : NatSet :=
  if q.srcSpace = 0 then (c.hnd t q.srcH).ownGrans t q.srcOff (q.srcSpan (c.hnd t q.srcH))
  else if q.srcSpace = 2 then
    match c.liveBerth q.srcBerth q.srcStep with
    | some b => ({ kind := 2, map := 0, aow := false, int32 := false, ncon := 0, hold := 0, base := b.base, pitch := 0, slot := 0, size := b.size } : Hnd).ownGrans t q.srcOff (q.lenG * 32)
    | none => []
  else []

/-- What a transfer waits for (R218, R236, R132, R243). -/
def xferHold (c : Chip) (t : Nat) (q : QCmd) : Hold :=
  let x := c.tile t
  if x.sbHit (c.xferReads t q) || x.sbHit (c.xferWrites t q) || (c.writesOwn t q && x.sbFull) then .scoreboard
  else if x.matrixFeeds c.nowAc || x.vec.isSome ||
    (q.srcSpace == 1 && x.accBusy q.srcH (q.srcOff / 64) ((q.srcOff + q.lenG * 32 + 63) / 64 - q.srcOff / 64)) then .cls
  else if (x.stream q.streamNo).active.isNone && decide (6 ≤ x.actives) then .res else .none

/-- Whether a re-arm merges into a held transfer (R245); total is the number of units it moves. -/
def mergeOk (held : Xfer) (q : QCmd) (ddl : Option Nat) (total : Nat) : Bool :=
  let p := held.cmd
  p.op == 0x40 && q.op == 0x40 && !p.flag 51 && !q.flag 51 && !held.close &&
  p.srcH == q.srcH && p.srcSpace == q.srcSpace && p.dstH == q.dstH && p.route == q.route && p.flag 50 == q.flag 50 &&
  p.doneSyncNo == q.doneSyncNo && p.dstTile == q.dstTile && p.dstSyncNo == q.dstSyncNo && decide (held.deadline = ddl) &&
  decide (q.srcOff = p.srcOff + held.length) && decide (q.dstOff = p.dstOff + held.length) &&
  decide (q.srcOff % 64 = 0) && decide (q.dstOff % 64 = 0) && decide (held.asked < total) &&
  decide (held.length / 32 + q.lenG ≤ 0xFF_FFFF)

/-! ### Units of movement -/

/-- Whether a local address range at the start of a side is coded, its window. -/
def Chip.srcWin (c : Chip) (t : Nat) (q : QCmd) : Option CodecWin :=
  match c.run, c.srcRanges t q q.srcOff 32 with
  | some r, (a, _) :: _ => r.chanWin a
  | _, _ => none
/-- The destination's window: of this module's channels, or of the strait it leaves on. -/
def Chip.dstWin (c : Chip) (t : Nat) (q : QCmd) : Option CodecWin :=
  match c.run with
  | none => none
  | some r =>
    let h := c.hnd t q.dstH
    if 4 ≤ q.route then r.straitWin (routeStrait q.route) (h.base + q.dstOff)
    else if h.kind = 3 then none else r.chanWin (h.addr t q.dstOff)

/-- Where a transfer's source bytes are: an accumulator or scratchpad (no channel), a channel, or a tray slot. -/
inductive SrcAt where
  | near | chan | tray
deriving DecidableEq, Repr

/-- Where a transfer reads from. -/
def Chip.srcAt (c : Chip) (t : Nat) (q : QCmd) : SrcAt :=
  if q.srcSpace = 1 then .near
  else if q.srcSpace = 0 ∧ (c.hnd t q.srcH).kind = 3 then .tray
  else match c.srcRanges t q q.srcOff 32 with
    | (a, _) :: _ => if inLp a then .chan else .near
    | [] => .near

/-- Whether it leaves the module: over a strait or to another tray slot. -/
def Chip.leaves (c : Chip) (t : Nat) (q : QCmd) : Bool := decide (4 ≤ q.route) || (c.hnd t q.dstH).kind == 3

/-- Whether its destination is in LPDDR5X of this module. -/
def Chip.dstChan (c : Chip) (t : Nat) (q : QCmd) : Bool :=
  !c.leaves t q && inLp ((c.hnd t q.dstH).addr t q.dstOff)

/-- The grain of a transfer's units and the place from which it counts for the first row: whole groups where a side is coded, one source
granule where a channel is read, one destination granule where it accumulates, else as much as one RWRITE, one posted write or one read
request carries. -/
def Chip.grain (c : Chip) (t : Nat) (q : QCmd) : Nat × Nat :=
  let dst := (c.hnd t q.dstH).base + q.dstOff
  if (c.srcWin t q).isSome || (c.dstWin t q).isSome then (4096, 0)
  else match c.srcAt t q with
    | .tray => (4096, (c.hnd t q.srcH).base + q.srcOff)
    | .chan => if 4 ≤ q.route ∧ (q.srcOff % 64 ≠ dst % 64) then (32, q.srcOff) else if q.flag 51 then (64, dst)
        else ((64, ((c.srcRanges t q q.srcOff 32).headD (0, 0)).1))
    | .near => if 4 ≤ q.route then (4096, dst) else if (c.hnd t q.dstH).kind = 3 then (512, dst) else if q.flag 51 then (64, dst) else (64, q.srcOff)

/-- Rows of a transfer: those of a DMA2D, one for any other. -/
def QCmd.rowCount (q : QCmd) : Nat := if q.op = 0x41 ∧ q.twidth = 0 then q.rows else 1

/-- The place from which the grain counts in a row. -/
def Chip.rowOrg (c : Chip) (t : Nat) (q : QCmd) (r : Nat) : Nat :=
  (c.grain t q).2 + (if q.op = 0x41 ∧ q.twidth = 0 then
    r * (if c.srcAt t q = .near ∧ (c.hnd t q.dstH).kind = 3 then q.dstPitch else q.srcPitch) else 0)

/-- Bytes of one row of a transfer. -/
def Xfer.rowLen (x : Xfer) : Nat :=
  if x.cmd.op = 0x41 then (if x.cmd.twidth = 0 then x.cmd.lenG * 32 else twWords x.cmd.twidth * 32) else x.length

/-- Units of one row. -/
def Chip.rowUnits (c : Chip) (t : Nat) (x : Xfer) (r : Nat) : Nat :=
  if x.cmd.op = 0x41 ∧ x.cmd.twidth ≠ 0 then 1
  else
    let g := (c.grain t x.cmd).1
    let o := c.rowOrg t x.cmd r
    (o + x.rowLen - 1) / g - o / g + 1

/-- How many units a transfer moves. -/
def Chip.unitCount (c : Chip) (t : Nat) (x : Xfer) : Nat :=
  (List.range x.cmd.rowCount).foldl (fun n r => n + c.rowUnits t x r) 0

/-- The row of unit k, and its number within the row. -/
def Chip.unitRow (c : Chip) (t : Nat) (x : Xfer) : Nat → Nat → Nat → Nat × Nat
  | 0, r, k => (r, k)
  | n + 1, r, k =>
    let u := c.rowUnits t x r
    if k < u ∨ n = 0 then (r, k) else c.unitRow t x n (r + 1) (k - u)

/-- Unit k: its offset from SRC.OFF, its offset from DST.OFF and its bytes. -/
def Chip.unitOf (c : Chip) (t : Nat) (x : Xfer) (k : Nat) : Nat × Nat × Nat :=
  if x.cmd.op = 0x41 ∧ x.cmd.twidth ≠ 0 then (0, 0, x.rowLen)
  else
    let p := c.unitRow t x x.cmd.rowCount 0 k
    let g := (c.grain t x.cmd).1
    let o := c.rowOrg t x.cmd p.1
    let lo := max o ((o / g + p.2) * g)
    let hi := min (o + x.rowLen) ((o / g + p.2 + 1) * g)
    if x.cmd.op = 0x41 then (p.1 * x.cmd.srcPitch + (lo - o), p.1 * x.cmd.dstPitch + (lo - o), hi - lo) else (lo - o, lo - o, hi - lo)

/-- The granules that one side of a unit reads or writes in channels: of a coded side the coded part of each group. -/
def burstsOf (w : Option CodecWin) (rs : List (Nat × Nat)) : List Nat :=
  (rs.filter (fun p => inLp p.1)).flatMap (fun p => match w with
    | some w => (cutRange 4096 p.1 p.2).flatMap (fun g => unitsOf 64 g.1 (cdcLen w.cmode.toNat))
    | none => unitsOf 64 p.1 p.2)

/-- The bursts that a unit takes of channels, in order: those of its source, then those of its destination (R255). -/
def Chip.unitBursts (c : Chip) (t : Nat) (x : Xfer) (k : Nat) : List Nat :=
  let u := c.unitOf t x k
  let q := x.cmd
  (if c.srcAt t q = .chan then burstsOf (c.srcWin t q) (c.srcRanges t q (q.srcOff + u.1) u.2.2) else []) ++
  (if c.dstChan t q then burstsOf (c.dstWin t q) [((c.hnd t q.dstH).addr t (q.dstOff + u.2.1), u.2.2)] else [])

/-! ### Reading a unit -/

/-- Pieces of data, each with its poison, that come from one source granule, row or decoded block. -/
abbrev Pieces := List (List Byte × Bool)

/-- The bytes of pieces in order. -/
def Pieces.bytes (ps : Pieces) : List Byte := ps.flatMap (fun p => p.1)
/-- Whether any of bytes i to i + n − 1 comes from a poisoned piece. -/
def Pieces.bad (ps : Pieces) (i n : Nat) : Bool :=
  (ps.foldl (fun (acc : Nat × Bool) p => (acc.1 + p.1.length, acc.2 || (p.2 && overlap acc.1 p.1.length i n))) (0, false)).2

/-- Read ranges granule by granule. -/
def Chip.readRanges (c : Chip) (by_ : Reader) (rs : List (Nat × Nat)) : Chip × Pieces :=
  (rs.flatMap (fun r => cutRange 64 r.1 r.2)).foldl (fun (acc : Chip × Pieces) p =>
    let f := acc.1.fetch p.1 p.2 by_
    (f.1, acc.2 ++ [(f.2.1, f.2.2)])) (c, [])

/-- The transposed block of R215, R249: output word j, of 32 B, holds element j of each input word, and zeros beyond. Where the elements of
all rows do not fit a word, it holds those of the first rows (DEDUCED, log 98). -/
def transposeWords (tw : Nat) (rows : Pieces) : Pieces :=
  let e := if tw = 1 then 1 else if tw = 2 then 2 else 4
  (List.range (twWords tw)).map (fun j =>
    (let d := (rows.flatMap (fun r => slice r.1 (j * e) e)).take 32; d ++ zeros (32 - d.length), rows.any (fun r => r.2)))

/-- Read a unit's source (R247 to R250, R259, R325). -/
def Chip.readUnit (c : Chip) (t : Nat) (x : Xfer) (o n : Nat) : Chip × Pieces :=
  let q := x.cmd
  let rd := tileReader x.deadline.isSome
  if q.srcSpace = 1 then
    let a := (c.tile t).arr q.srcH
    (c, (cutRange 64 (q.srcOff + o) n).map (fun p => (a.bytes p.1 p.2, a.rowPoison (p.1 / 64))))
  else if q.op = 0x41 ∧ q.twidth ≠ 0 then
    let h := c.hnd t q.srcH
    let r := c.readRanges rd ((List.range q.rows).map (fun i => (h.addr t (q.srcOff + i * 1024 * h.pitch), 32)))
    (r.1, transposeWords q.twidth r.2)
  else match c.srcWin t q with
    | some w =>
      ((c.srcRanges t q (q.srcOff + o) n).flatMap (fun p => cutRange 4096 p.1 p.2)).foldl (fun (acc : Chip × Pieces) p =>
        let g := acc.1.readCoded w.cmode.toNat w.f8 p.1 rd
        (g.1, acc.2 ++ (List.range 8).map (fun b => (slice g.2.1 (512 * b) 512, g.2.2.getD b false)))) (c, [])
    | none => c.readRanges rd (c.srcRanges t q (q.srcOff + o) n)

/-! ### Accumulate-on-write (R221 to R223) -/

/-- The key of a tile's command, by its stream index. -/
def readKey (t idx : Nat) : Nat := t * 2 ^ 32 + idx

/-- Each 4 B element added in a handle's accumulation format. -/
def accumBytes (int : Bool) (old new : List Byte) : List Byte :=
  (List.range (new.length / 4)).flatMap (fun i =>
    let a := BitVec.ofNat 32 (leNat (slice old (4 * i) 4))
    let b := BitVec.ofNat 32 (leNat (slice new (4 * i) 4))
    leBytes 4 (if int then a + b else to32 (fadd (of32 a) (of32 b))).toNat)

/-- Add bytes at a scratchpad address: the sum lands, poisoned if either addend is. -/
def Chip.accumAt (c : Chip) (int : Bool) (a : Nat) (bs : List Byte) (pz : Nat → Nat → Bool) : Chip :=
  (cutRange 64 a bs.length).foldl (fun c p =>
    let f := c.fetch p.1 p.2 (tileReader true)
    f.1.write p.1 (accumBytes int f.2.1 (slice bs (p.1 - a) p.2)) (f.2.2 || pz (p.1 - a) p.2)) c

/-- Pay what a drained contribution that came over a strait owes: its count, then its acknowledgement. -/
def Chip.payDebt (c : Chip) (d : AowDebt) : Chip :=
  let sc : BitVec 3 := if straitMain d.strait then 3 else 4
  let c := if d.sync = 63 then c else (c.syncApply (rankStrait d.strait) d.tile d.sync (.count d.bytes d.pkts) sc sc).getD c
  if d.ack then c.sendSignal d.strait 2 d.cmdId.toNat d.srcTile 0 0 0 .plain else c

/-- Change one accumulate-on-write round of a tile. -/
def Tile.updAow (t : Tile) (h : Nat) (f : Aow → Aow) : Tile :=
  { t with aows := t.aows.map (fun a => if a.handle = h then f a else a) }

/-- Drain every slot that NEXT has reached and that is full (R223), at most n of them. -/
def Chip.drainAow (c : Chip) (tr h : Nat) : Nat → Chip
  | 0 => c
  | n + 1 =>
    let hd := (c.tile tr).hnd h
    match (c.tile tr).aows.find? (fun a => a.handle = h) with
    | none => c
    | some a =>
      match a.held.find? (fun s => decide (s.c = a.next) && decide (s.left = 0)) with
      | none => c
      | some s =>
        let hold := (c.tile tr).hnd hd.hold
        let src := spdBase + tr * 0x8_0000 + hold.base + (s.c - 1) * hd.size
        let dst := spdBase + tr * 0x8_0000 + hd.base
        let r := c.readRanges (tileReader true) [(src, hd.size)]
        let c := (((r.1.accumAt hd.int32 dst r.2.bytes r.2.bad).takePort 1 [(src, hd.size)]).takePort 1 [(dst, hd.size)]).takePort 1 [(dst, hd.size)]
        let c := c.updTile tr (fun x => x.updAow h (fun y =>
          { y with next := if hd.ncon ≤ y.next then 0 else y.next + 1, held := y.held.filter (fun z => z.c != s.c) }))
        let c := match s.debt with | some d => c.payDebt d | none => c
        c.drainAow tr h n

/-- An accumulating part of an arrival at a scratchpad address (R221, R223). `whole` is the arrival's own range and `total` the length of
the contribution of transfer `who`, 0 where it is not known yet: none where it is a violation, else the chip and whether the contribution
is held and still owes its count. -/
def Chip.aowArrive (c : Chip) (whole : Nat × Nat) (a : Nat) (bs : List Byte) (pz : Nat → Nat → Bool) (contrib who total : Nat) (debt : Option AowDebt) :
    Option (Chip × Bool) :=
  let tr := spdTile a
  let off := (a - spdBase) % 0x8_0000
  let x := c.tile tr
  let det := match c.run with | some r => r.det | none => false
  match (List.range 64).find? (fun n => let h := x.hnd n; h.kind == 1 && h.aow && within off bs.length h.base h.size &&
      within ((whole.1 - spdBase) % 0x8_0000) whole.2 h.base h.size) with
  | none => none
  | some n =>
    let h := x.hnd n
    if !inSpd a || !decide (a % 64 = 0) || !decide (bs.length % 64 = 0) || !decide (whole.1 % 64 = 0) || !decide (whole.2 % 64 = 0) || !x.poweredRange off bs.length then none
    else if !det || h.ncon = 0 then some (c.accumAt h.int32 a bs pz, false)
    else
      match x.aows.find? (fun y => y.handle = n) with
      | none => none
      | some y =>
        let slot := y.held.find? (fun s => s.c = contrib)
        if (total ≠ 0 ∧ total ≠ h.size) ∨ h.ncon < contrib ∨ contrib < y.next then none
        else if contrib = y.next ∧ slot.isNone then
          let c := c.accumAt h.int32 a bs pz
          let full := decide (h.size ≤ y.landed + bs.length)
          let c := c.updTile tr (fun x => x.updAow n (fun y =>
            if full then { y with landed := 0, next := if h.ncon ≤ y.next then 0 else y.next + 1 }
            else { y with landed := y.landed + bs.length }))
          some (c.drainAow tr n 16, false)
        else if (match slot with | some s => decide (s.left < bs.length) || s.who != who | none => false) then none
        else
          let hold := x.hnd h.hold
          let at_ := spdBase + tr * 0x8_0000 + hold.base + (contrib - 1) * h.size + (off - h.base)
          let c := c.writePieces ((cutRange 64 at_ bs.length).map (fun p => (p.1, slice bs (p.1 - at_) p.2, pz (p.1 - at_) p.2)))
          let upd (hs : List AowSlot) : List AowSlot := match slot with
            | some s => hs.map (fun z => if z.c = contrib then { z with left := s.left - bs.length, debt := if debt.isSome then debt else z.debt } else z)
            | none => hs ++ [⟨contrib, who, h.size - bs.length, debt⟩]
          let c := c.updTile tr (fun x =>
            let x := x.updAow n (fun y => { y with held := upd y.held })
            if slot.isNone then { x with spd := { x.spd with aowHold := x.spd.aowHold + 1 } } else x)
          let c := c.drainAow tr n 16
          some (c, ((c.tile tr).aows.any (fun y => y.handle == n && y.held.any (fun s => s.c == contrib))))

end Sys2Proof.Machine
end

