-- ==== Sys2Proof/Machine/Movement.lean ====
section
/-! DEFINITION. The movement of transfers (R204, R205, R236 to R263, R580): router ports, units put at their destinations, DMA, DMA2D and
FERRY_PULL at issue, the requests of the DMA engine, the reservation directory, and completion. -/
namespace Sys2Proof.Machine

/-! ### Paths (R580) -/

/-- Row of a tile on its die. -/
def tileRow (t : Nat) : Nat := t % 2048 / 64
/-- Cycles from a tile to the hub die or back without contention. -/
def hubAc (t : Nat) : Nat := tileRow t + 20
/-- Cycles from one tile to another without contention. -/
def meshAc (t u : Nat) : Nat :=
  let gap (a b : Nat) : Nat := max a b - min a b
  if t / 2048 = u / 2048 then gap (tileRow t) (tileRow u) + gap (t % 64) (u % 64) else tileRow t + 20 + 8 + 20 + tileRow u

/-! ### Router ports (R201, R204, R205) -/

/-- One job's words in one ac: those whose bank's slot is free are served, the others lose, which counts once for each. -/
def portGrant (used : List Nat) : List (Nat × Bool) → List Nat × List (Nat × Bool) × Nat
  | [] => (used, [], 0)
  | (w, lost) :: ws =>
    if used.contains (w % 32) then
      let r := portGrant used ws
      (r.1, (w, true) :: r.2.1, r.2.2 + (if lost then 0 else 1))
    else portGrant (w % 32 :: used) ws

/-- One class's accesses at a port in one ac, in order of arrival. -/
def portClass (now cls : Nat) : List PortJob → List Nat → List PortJob × List Nat × Nat
  | [], used => ([], used, 0)
  | j :: js, used =>
    if j.cls ≠ cls ∨ now < j.from_ ∨ j.words.isEmpty then
      let r := portClass now cls js used
      (j :: r.1, r.2)
    else
      let g := portGrant used j.words
      let r := portClass now cls js g.1
      ({ j with words := g.2.1, served := now } :: r.1, r.2.1, g.2.2 + r.2.2)

/-- The port slots of one ac (R204): the tile's own DMA engine, then accumulate-on-write, then the others, one word for each bank. -/
def Tile.portSlots (x : Tile) (now : Nat) : Tile :=
  let a := portClass now 0 x.port []
  let b := portClass now 1 a.1 a.2.1
  let d := portClass now 2 b.1 b.2.1
  { x with port := d.1, spd := { x.spd with portWait := addN x.spd.portWait (a.2.2 + b.2.2 + d.2.2) } }

/-- Change the transfer that a stream holds as active for a command. -/
def Chip.updXfer (c : Chip) (t k idx : Nat) (f : Xfer → Xfer) : Chip :=
  match ((c.tile t).stream k).active with
  | some y => if y.cmd.idx = idx then c.updTile t (fun x => x.setStream k { x.stream k with active := some (f y) }) else c
  | none => c

/-! ### Writing a unit -/

/-- A strait RWRITE's bytes (R402). -/
def rwriteBytes (pver : Nat) (last ack accum : Bool) (contrib cmode addr id srcTile dstTile dstSync pkts total : Nat) (data : List Byte) :
    List Byte :=
  wordsBytes [txnHead 2 pver (b2n last + 2 * b2n ack + 4 * b2n accum) data.length,
    mkWord [(60, 4, contrib), (58, 2, cmode), (0, 48, addr)],
    mkWord [(48, 16, id), (36, 12, srcTile), (18, 12, dstTile), (12, 6, dstSync)],
    mkWord [(48, 16, if last then pkts else 0), (0, 32, if last then total else 0)]] ++ data

/-- Whether scratchpad addresses are powered (R234); LPDDR5X always is. -/
def Chip.reachable (c : Chip) (a n : Nat) : Bool :=
  if inSpd a then
    (unitsOf 0x1_0000 (a - spdBase) n).all (fun g => decide (g < 0x8000) && (c.tile (g / 8)).spd.powered.getLsbD (g % 8))
  else true

/-- The pieces of a unit at its local destination: row by row of a transposed block, else as the bytes lie (R248, R249). -/
def Chip.dstPieces (c : Chip) (t : Nat) (q : QCmd) (o : Nat) (ps : Pieces) : List (Nat × List Byte × Bool) :=
  let h := c.hnd t q.dstH
  if q.op = 0x41 ∧ q.twidth ≠ 0 then
    ps.zipIdx.flatMap (fun p => h.pieces t (q.dstOff + p.2 * q.dstPitch) p.1.1 (fun _ _ => p.1.2))
  else h.pieces t (q.dstOff + o) ps.bytes ps.bad

/-- Count the destination granules that a unit marks, each once for its transfer (R259). -/
def Chip.countPoison (c : Chip) (t k idx : Nat) (ps : List (Nat × List Byte × Bool)) : Chip :=
  let gs := ((ps.filter (fun p => p.2.2)).flatMap (fun p => unitsOf 64 p.1 p.2.1.length)).eraseDups
  let last := match ((c.tile t).stream k).active with | some x => x.pzAt | none => 0
  let n := (gs.filter (fun g => g + 1 ≠ last)).length
  if gs.isEmpty then c
  else (c.updTile t (fun y => { y with cnt := { y.cnt with poison := addN y.cnt.poison n } })).updXfer t k idx
    (fun x => { x with pzAt := gs.getLast?.getD 0 + 1 })

/-- Memory writes to a tray slot, each within 512 B and a 4 KiB page (R342). A memory write carries no accumulate attribute (DESIGN CHOICE,
log 99). -/
def Chip.sendTray (c : Chip) (slot addr : Nat) (bs : List Byte) (bad : Nat → Nat → Bool) : Chip :=
  (cutRange 512 addr bs.length).foldl (fun c p =>
    c.send (.trayWrite (BitVec.ofNat 4 slot) (c.trayPcie slot p.1) (slice bs (p.1 - addr) p.2) (bad (p.1 - addr) p.2))) c

/-- Whether the whole destination of an accumulating transfer may take it, as far as its first unit tells (R221, R223). -/
def Chip.aowMay (c : Chip) (t : Nat) (x : Xfer) : Bool :=
  let q := x.cmd
  let a := (c.hnd t q.dstH).addr t q.dstOff
  (c.aowArrive (a, x.length) a (zeros 64) (fun _ _ => false) q.contrib (readKey t q.idx) x.length none).isSome && c.reachable a x.length

/-- Put one unit's data at its destination, by route, accumulation, coding or plain write (R248, R252, R259, R319). What goes to
scratchpad reaches the port of its tile at `from_`. -/
def Chip.putUnit (c : Chip) (t k : Nat) (x : Xfer) (ix o n from_ : Nat) (ps : Pieces) : Chip :=
  let q := x.cmd
  let h := c.hnd t q.dstH
  let bs := ps.bytes
  let last := decide (c.unitCount t x ≤ ix + 1)
  let c := c.updXfer t k q.idx (fun y => { y with moved := ix + 1, got := 0, buf := none, sentAll := y.sentAll || (last && c.leaves t q) })
  if 4 ≤ q.route then
    let st := routeStrait q.route
    let pv := (c.str st).pver.toNat
    let addr := h.base + q.dstOff + o
    let mk (cmode : Nat) (data : List Byte) : List Byte :=
      rwriteBytes pv last last (q.flag 51) q.contrib cmode addr q.id.toNat t q.dstTile q.dstSyncNo x.parts.length x.length data
    let tag : TxTag := if last then .dmaLast t q.idx else .dmaData t
    let c := if last then { c with acks := c.acks ++ [⟨straitNum st, t, q.idx, q.id⟩] } else c
    let c := c.countPoison t k q.idx ((cutRange 64 addr n).map (fun p => (p.1, slice bs (p.1 - addr) p.2, ps.bad (p.1 - addr) p.2)))
    match c.dstWin t q with
    | some w =>
      let mode := w.cmode.toNat
      let ver := decide (w.version = 1)
      let data := encodeGroup mode w.f8 w.cslot.toNat ver ((c.cslot w.cslot.toNat).tab ver) bs
      let c := c.updCdc (64 + straitNum st) (fun u => { u with enc := addN u.enc 8, encFree := max u.encFree (2 * c.tide.acs.toNat) + 64 })
      let ar := cdcArea mode / 32
      let pz := (List.range 8).flatMap (fun b => if ps.bad (512 * b) 512 then (List.range ar).map (fun i => 2 + b * ar + i) else [])
      c.sendVc st 1 ⟨⟨mk mode data, pz⟩, x.deadline, tag, 0, c.nowAc⟩
    | none =>
      let pz := (List.range (n / 32)).filter (fun i => ps.bad (32 * i) 32)
      c.sendVc st 1 ⟨⟨mk 0 bs, pz⟩, x.deadline, tag, 0, c.nowAc⟩
  else if h.kind = 3 then
    let dp := c.dstPieces t q o ps
    let c := c.countPoison t k q.idx dp
    let c := if q.op = 0x41 ∧ q.twidth ≠ 0 then
        dp.foldl (fun c p => c.sendTray h.slot p.1 p.2.1 (fun _ _ => p.2.2)) c
      else c.sendTray h.slot (h.base + q.dstOff + o) bs ps.bad
    if last then
      let port := portAddr q.dstTile (if q.dstSyncNo = 63 then 0 else q.dstSyncNo)
      let c := if q.dstSyncNo = 63 then c
        else c.send (.trayWrite (BitVec.ofNat 4 h.slot) (c.trayPcie h.slot port) (portWord 2 2 x.parts.length x.length) false)
      (c.send (.trayRead (BitVec.ofNat 4 h.slot) (c.trayPcie h.slot port) 8 (BitVec.ofNat 12 t) (BitVec.ofNat 3 k))).ledgerTray
        h.slot t q.idx
    else c
  else
    let dp := c.dstPieces t q o ps
    let a := h.addr t (q.dstOff + o)
    if dp.any (fun p => !c.reachable p.1 p.2.1.length) || (q.flag 51 && ix == 0 && !c.aowMay t x) then c.tileViolation t 0x0E q.id q.opB a
    else
      let c := c.countPoison t k q.idx dp
      match c.dstWin t q with
      | some w =>
        ((dp.map (fun p => (p.1, p.2.1.length))).headD (0, 0)).1 |> (fun a0 =>
          (List.range (n / 4096)).foldl (fun c i =>
            c.writeCoded (tileReader x.deadline.isSome) w (a0 + 4096 * i) (slice bs (4096 * i) 4096) (fun b => ps.bad (4096 * i + 512 * b) 512)) c)
      | none =>
        let own (u : Nat) : Nat := if u = t then 0 else 2
        let c := c.writeBy (tileReader x.deadline.isSome) (dp.filter (fun p => !inSpd p.1))
        let add (c : Chip) (u : Nat) (ws : List (Nat × Bool)) (act : PortAct) : Chip :=
          (c.addPort u ⟨own u, from_, ws, 0, act⟩).updXfer t k q.idx (fun y => { y with out := o :: y.out })
        if q.flag 51 then
          let bad := (List.range (n / 32)).filter (fun i => ps.bad (32 * i) 32)
          if inSpd a then add c (spdTile a) (portWords [(a, n)]) (.accum t k q o (h.addr t q.dstOff) x.length a bs bad false) else c
        else
          (byTile (dp.map (fun p => (p.1, p.2.1.length)))).foldl (fun c p =>
            add c p.1 (portWords p.2) (.write t k q.idx o (dp.filter (fun y => inSpd y.1 && decide (spdTile y.1 = p.1))))) c

/-- The pieces of a unit whose source is at hand or in a channel. -/
def Chip.unitData (c : Chip) (t : Nat) (x : Xfer) (ix : Nat) : Chip × Pieces :=
  let u := c.unitOf t x ix
  match x.buf with
  | some ps => (c, ps)
  | none => c.readUnit t x u.1 u.2.2

/-- Put the next unit of an active transfer, its bursts granted and its source in a channel or in hand. -/
def Chip.moveUnit (c : Chip) (t k : Nat) (x : Xfer) : Chip :=
  let u := c.unitOf t x x.moved
  let r := c.unitData t x x.moved
  r.1.putUnit t k x x.moved u.2.1 u.2.2 (c.nowAc + hubAc t) r.2

/-- A unit read from scratchpad or an accumulator has its data at `at_`: it goes on to scratchpad or a tray slot, or waits in hand for its
channel or strait. -/
def Chip.unitRead (c : Chip) (t k : Nat) (x : Xfer) (ix at_ : Nat) (ps : Pieces) : Chip :=
  let u := c.unitOf t x ix
  if 4 ≤ x.cmd.route ∨ c.dstChan t x.cmd = true then
    c.updXfer t k x.cmd.idx (fun y => { y with buf := some ps, readyAc := max y.readyAc (at_ + hubAc t) })
  else
    let d := (c.hnd t x.cmd.dstH).addr t (x.cmd.dstOff + u.2.1)
    c.putUnit t k x ix u.2.1 u.2.2 (at_ + (if inSpd d then meshAc t (spdTile d) else 0)) ps

/-! ### The rate of a strait's codec unit (R329, R330) -/

/-- Whether a strait codec unit's input is full: it has more than its input holds still to encode, at 64 B of raw data a fabric
cycle. -/
def Chip.codecFull (c : Chip) (st : Strait) : Bool :=
  decide (2 * c.tide.acs.toNat + Config.codecInput < (c.cdc (64 + straitNum st)).encFree)

/-- Whether a transfer's flits are coded on a strait. -/
def Chip.codedOn (c : Chip) (st : Strait) (t : Nat) (x : Xfer) : Bool :=
  decide (4 ≤ x.cmd.route) && (routeStrait x.cmd.route == st) && (c.dstWin t x.cmd).isSome

/-- Whether a transfer's next unit is held because the codec unit of its strait is full. -/
def Chip.codecHolds (c : Chip) (t : Nat) (x : Xfer) : Bool :=
  c.codedOn (routeStrait x.cmd.route) t x && c.codecFull (routeStrait x.cmd.route)

/-! ### Requests of the DMA engine (R243) -/

/-- Whether a transfer reads what it writes, so that a unit is read only when the one before it has landed (R248). -/
def Chip.selfOverlap (c : Chip) (t : Nat) (q : QCmd) : Bool :=
  !c.leaves t q && (c.srcRanges t q q.srcOff (q.srcSpan (c.hnd t q.srcH))).any (fun a =>
    ((c.hnd t q.dstH).ranges t q.dstOff q.dstSpan).any (fun b => overlap a.1 a.2 b.1 b.2))

/-- Whether the engine may make a transfer's next request now: one at a time where the unit waits in hand, comes from a tray slot, or may
be written over. -/
def Chip.mayAsk (c : Chip) (t : Nat) (s : Stream) (x : Xfer) : Bool :=
  !s.checking && decide (x.readyAc ≤ c.nowAc) && decide (x.asked < c.unitCount t x) && !c.codecHolds t x &&
  (decide (0 < x.askG) || (match c.srcAt t x.cmd with
    | .chan => true
    | .tray => decide (x.asked = x.moved) && x.out.isEmpty
    | .near => if decide (4 ≤ x.cmd.route) || c.dstChan t x.cmd || c.selfOverlap t x.cmd then decide (x.asked = x.moved) && x.out.isEmpty
               else true))

/-- Whether request a of the engine goes before request b (R243): scheduled first, by deadline; unscheduled by the ac in which they became
active; then by stream. -/
def askBefore (a b : Nat × Xfer) : Bool :=
  match a.2.deadline, b.2.deadline with
  | some x, some y => decide (x < y) || (decide (x = y) && decide (a.1 ≤ b.1))
  | some _, none => true
  | none, some _ => false
  | none, none => decide (a.2.activeAc < b.2.activeAc) || (decide (a.2.activeAc = b.2.activeAc) && decide (a.1 ≤ b.1))

/-- The first of some requests. -/
def askFirst : List (Nat × Xfer) → Option (Nat × Xfer)
  | [] => none
  | a :: r => match askFirst r with
    | none => some a
    | some b => some (if askBefore a b then a else b)

/-- A unit is requested whole. A tray source is asked for it; scratchpad is read through its tile's port; an accumulator is read at once,
six ac before its data is delivered (R248); a channel's arbiter serves the rest. A source in a group that is not powered is a violation. -/
def Chip.startUnit (c : Chip) (t k : Nat) (x : Xfer) (ix : Nat) : Chip :=
  let u := c.unitOf t x ix
  let q := x.cmd
  let rs := c.srcRanges t q (q.srcOff + u.1) (if q.op = 0x41 ∧ q.twidth ≠ 0 then 32 else u.2.2)
  let rs := if q.op = 0x41 ∧ q.twidth ≠ 0 then
      (List.range q.rows).map (fun i => ((c.hnd t q.srcH).addr t (q.srcOff + i * 1024 * (c.hnd t q.srcH).pitch), 32)) else rs
  if rs.any (fun p => !c.reachable p.1 p.2) then c.tileViolation t 0x0E q.id q.opB (rs.headD (0, 0)).1
  else match c.srcAt t q with
    | .tray =>
      let h := c.hnd t q.srcH
      c.send (.trayRead (BitVec.ofNat 4 h.slot) (c.trayPcie h.slot (h.base + q.srcOff + u.1)) u.2.2 (BitVec.ofNat 12 t) (BitVec.ofNat 3 k))
    | .chan => c
    | .near =>
      if q.srcSpace = 1 then
        let r := c.readUnit t x u.1 u.2.2
        r.1.unitRead t k x ix (c.nowAc + 6) r.2
      else
        let v := spdTile (rs.headD (spdBase + t * 0x8_0000, 0)).1
        c.addPort v ⟨if v = t then 0 else 2, c.nowAc + meshAc t v, portWords rs, 0, .read t k q.idx ix⟩

/-- One fabric cycle of a tile's DMA engine: at most one request, of one granule; an accumulator gives one row an ac (R248). -/
def Chip.engineAsk (c : Chip) (t fab : Nat) : Chip :=
  let x := c.tile t
  if x.st ≠ .running then c
  else
    let cand := x.streams.filterMap (fun e => match e.2.active with
      | some y => if c.mayAsk t e.2 y && (fab == 0 || y.cmd.srcSpace != 1) then some (e.1, y) else none
      | none => none)
    match askFirst cand with
    | none => c
    | some (k, y) =>
      let n := if c.srcAt t y.cmd = .tray then 1 else cdiv (c.unitOf t y y.asked).2.2 64
      if y.askG + 1 < n then c.updXfer t k y.cmd.idx (fun z => { z with askG := y.askG + 1 })
      else (c.updXfer t k y.cmd.idx (fun z => { z with askG := 0, asked := y.asked + 1 })).startUnit t k y y.asked

/-! ### What a served access does -/

/-- Commands merged into a transfer whose own last byte has landed give their scoreboard entries back (R217, R245). -/
def Chip.freeParts (c : Chip) (t k idx : Nat) : Chip :=
  match ((c.tile t).stream k).active with
  | some x =>
    if x.cmd.idx ≠ idx ∨ x.parts.length ≤ 1 then c
    else
      let at_ := if x.moved < c.unitCount t x then (c.unitOf t x x.moved).2.1 else x.length
      let done := x.out.foldl min at_
      (x.parts.foldl (fun (z : Chip × Nat) p =>
        let e := z.2 + p.bytes
        (if e ≤ done then z.1.updTile t (fun y => y.sbFree p.idx) else z.1, e)) (c, 0)).1
  | none => c

/-- A unit's access has landed. -/
def Chip.unitLanded (c : Chip) (t k idx o : Nat) : Chip :=
  (c.updXfer t k idx (fun y => { y with out := y.out.erase o })).freeParts t k idx

/-- What an access at a port does when it lands, six ac after its last slot (R205): a transfer's pieces land, or are added. -/
def Chip.portLand (c : Chip) (act : PortAct) : Chip :=
  match act with
  | .slots => c
  | .read _ _ _ _ => c
  | .write t k idx o ps => (c.writeBy (tileReader true) ps).unitLanded t k idx o
  | .accum t k q o wholeAt wholeLen a bs bad _ =>
    let pz (i n : Nat) : Bool := bad.any (fun w => overlap i n (32 * w) 32)
    match c.aowArrive (wholeAt, wholeLen) a bs pz q.contrib (readKey t q.idx) wholeLen none with
    | some r => r.1.unitLanded t k q.idx o
    | none => c.tileViolation t 0x0E q.id q.opB a

/-- What an access does when its last word has been served: a read's data goes on, delivered six ac later, and an accumulation that has
read its target writes back from four ac later (R205). -/
def Chip.portServed (c : Chip) (v now : Nat) (act : PortAct) : Chip :=
  match act with
  | .read t k idx ix =>
    match ((c.tile t).stream k).active with
    | some x =>
      if x.cmd.idx = idx then
        let u := c.unitOf t x ix
        let r := c.readUnit t x u.1 u.2.2
        r.1.unitRead t k x ix (now + 6 + meshAc v t) r.2
      else c
    | none => c
  | .accum t k q o wa wl a bs bad false => c.addPort v ⟨1, now + 4, portWords [(a, bs.length)], 0, .accum t k q o wa wl a bs bad true⟩
  | _ => c

/-- Whether an access at a port is over in an ac: a read, slots only, and the first half of an accumulation, once its words are served; a
write six ac later, and a sum two ac after its write-back (R205). -/
def PortJob.over (j : PortJob) (now : Nat) : Bool :=
  j.words.isEmpty && (match j.act with
    | .slots => true
    | .read _ _ _ _ => true
    | .write _ _ _ _ _ => decide (j.served + 6 ≤ now)
    | .accum _ _ _ _ _ _ _ _ _ back => !back || decide (j.served + 2 ≤ now))

/-- What lands at a tile's port in an ac, in order of arrival. -/
def Chip.portLandings (c : Chip) (v now : Nat) : Chip :=
  let js := (c.tile v).port
  let due := js.filter (fun j => j.over now)
  if due.isEmpty then c
  else due.foldl (fun c j => c.portLand j.act) (c.updTile v (fun x => { x with port := js.filter (fun j => !j.over now) }))

/-- The port slots of a tile in an ac, and the reads that they complete. -/
def Chip.portAc (c : Chip) (v now : Nat) : Chip :=
  let c := if (c.tile v).port.isEmpty then c else c.updTile v (fun x => x.portSlots now)
  ((c.tile v).port.filter (fun j => j.words.isEmpty && decide (j.served = now))).foldl (fun c j => c.portServed v now j.act) c

/-! ### Issue of DMA, DMA2D and FERRY_PULL -/

/-- A transfer as it issues. -/
def Chip.newXfer (c : Chip) (q : QCmd) : Xfer :=
  let m := c.mark q.launch
  { cmd := q, parts := [⟨q.idx, q.id, q.bytes⟩], length := q.bytes, launch := m,
    deadline := if q.ddl = 0 then none else some (m + q.ddl), readyAc := c.nowAc, asked := 0, askG := 0,
    moved := 0, got := 0, buf := none, out := [], pzAt := 0, acked := false, sentAll := false,
    activeAc := c.nowAc, close := q.flag 49 }

/-- Errors that depend on the stream (R252): OPEN on an open stream, no OPEN on a closed one, another DST handle, a second
re-arm. -/
def xferLate (c : Chip) (t : Nat) (q : QCmd) : Option Byte :=
  let s := (c.tile t).stream q.streamNo
  let x := c.newXfer q
  let bad := if q.flag 48 then s.opened else !s.opened || s.dst.toNat != q.dstH
  let second := match s.waiting with | some w => !mergeOk w q x.deadline (c.unitCount t w) | none => false
  if bad || second then some 0x0A else none

/-- The receive space that an opening transfer registers, if any (R239, R241). -/
def Chip.openSpace (c : Chip) (t : Nat) (q : QCmd) : Option (Nat × Nat) :=
  let h := c.hnd t q.dstH
  if q.route ≠ 0 ∨ h.kind = 3 then none
  else some (if h.kind = 1 then spdBase + t * 0x8_0000 + h.base else h.base, h.size)

/-- Register a transfer's reads of berths (R102, R250): a FERRY_PULL's of its region, any other's of each live berth region that
its source lies in. -/
def Chip.registerReads (c : Chip) (t : Nat) (q : QCmd) : Chip :=
  if q.srcSpace = 2 then c.updBerth q.srcBerth (fun b => { b with reads := setAdd b.reads (readKey t q.idx) })
  else
    let rs := c.srcRanges t q q.srcOff (q.srcSpan (c.hnd t q.srcH))
    c.updRun (fun r => { r with berths := r.berths.map (fun b =>
      if b.st == .live && rs.any (fun p => overlap p.1 p.2 b.base b.size) then { b with reads := setAdd b.reads (readKey t q.idx) } else b) })

/-- A read registered under a key ends. -/
def Chip.endRead (c : Chip) (key : Nat) : Chip :=
  c.updRun (fun r => { r with berths := r.berths.map (fun b => { b with reads := setDel b.reads key }) })

/-- The trace record of a transfer that becomes active. -/
def Chip.traceXfer (c : Chip) (t k : Nat) (x : Xfer) : Chip :=
  c.traceTile 3 t 0x01 k false (x.cmd.w 0) (x.cmd.w 1) (BitVec.ofNat 64 x.length) 0

/-- A transfer issues: it opens its stream, merges, waits behind the active one, or becomes active (R238, R239, R243 to R245). -/
def xferRun (c : Chip) (t : Nat) (q : QCmd) : Chip :=
  let k := q.streamNo
  let x := c.newXfer q
  let c := c.registerReads t q
  let c := c.updTile t (fun y => if c.writesOwn t q then y.sbTake (c.xferWrites t q) q.idx else y)
  let grow (h : Xfer) : Xfer := { h with parts := h.parts ++ x.parts, length := h.length + x.length, close := x.close }
  let s := (c.tile t).stream k
  let s := if q.flag 48 then { s with opened := true, dst := BitVec.ofNat 6 q.dstH, accum := q.flag 51, space := c.openSpace t q,
                                      checking := (c.openSpace t q).isSome, closing := false } else s
  let merged := match s.waiting, s.active with
    | some w, _ => mergeOk w q x.deadline (c.unitCount t w)
    | none, some a => mergeOk a q x.deadline (c.unitCount t a)
    | none, none => false
  let bump (y : Tile) : Tile := if merged then { y with cnt := { y.cnt with merge := y.cnt.merge + 1 } } else y
  let s' : Stream := match s.waiting, s.active with
    | some w, _ => { s with waiting := some (grow w) }
    | none, some a => if merged then { s with active := some (grow a) } else { s with waiting := some x }
    | none, none => { s with active := some { x with readyAc := if s.checking then c.nowAc + 16 else c.nowAc } }
  let c := c.updTile t (fun y => (bump y).setStream k s')
  if s.active.isNone then c.traceXfer t k x else c

/-- DMA, DMA2D and FERRY_PULL at issue. -/
def xferIssue : Issue := { checks := xferChecks, hold := xferHold, late := xferLate, run := xferRun }
/-- DMA. -/
def execDma (t : TileId) (s : State) : Host.Outcome State Fault Refusal := onChip (issueRow xferIssue (· == 0x40) t.toNat) s
/-- DMA2D. -/
def execDma2d (t : TileId) (s : State) : Host.Outcome State Fault Refusal := onChip (issueRow xferIssue (· == 0x41) t.toNat) s
/-- FERRY_PULL. -/
def execFerryPull (t : TileId) (s : State) : Host.Outcome State Fault Refusal := onChip (issueRow xferIssue (· == 0x42) t.toNat) s

/-! ### The reservation directory (R239) -/

/-- Whether two reservations share a 64 B granule (R239). -/
def granClash (a n b m : Nat) : Bool := decide (0 < n) && decide (0 < m) && overlap (a / 64) ((a + n + 63) / 64 - a / 64) (b / 64) ((b + m + 63) / 64 - b / 64)

/-- Whether a stream's receive space overlaps another live reservation: a berth region of the running image, a WRITE export
(R351), or another open stream's space, unless both accumulate on one range. A stream whose own check ends later does not count. -/
def Chip.spaceClash (c : Chip) (t k : Nat) (a n : Nat) (accum : Bool) (ready : Nat) : Bool :=
  (match c.run with
    | none => false
    | some r => r.berths.any (fun b => granClash a n b.base b.size) ||
        r.exports.any (fun e => e.write && !inPorts e.base && granClash a n e.base e.size &&
          !(accum && e.accum && e.base == a && e.size == n))) ||
  c.tiles.any (fun e => e.2.streams.any (fun y =>
    !(e.1 == t && y.1 == k) && y.2.opened && (match y.2.space with
      | none => false
      | some sp => granClash a n sp.1 sp.2 && !(accum && y.2.accum && sp == (a, n)) &&
          !(y.2.checking && (match y.2.active with
            | some x => decide (ready < x.readyAc) || (decide (x.readyAc = ready) && decide (t * 8 + k < e.1 * 8 + y.1))
            | none => false)))))

/-- The comparison ends, 16 ac after issue: the transfer may request, or its tile freezes with cause 0x0D. -/
def reservationCheckDone (t k : Nat) (c : Chip) : Chip :=
  let s := (c.tile t).stream k
  match s.active, s.space with
  | some x, some sp =>
    Chip.when (s.checking && decide (x.readyAc ≤ c.nowAc) && (c.tile t).st == .running)
      (fun c =>
        if c.spaceClash t k sp.1 sp.2 s.accum x.readyAc then c.tileViolation t 0x0D x.cmd.id x.cmd.opB sp.1
        else c.updTile t (fun y => y.setStream k { s with checking := false })) c
  | _, _ => c
/-- RESERVATION_CHECK_DONE. -/
def execReservationCheckDone (t : TileId) (k : StreamId) (s : State) : Host.Outcome State Fault Refusal :=
  onChip (reservationCheckDone t.toNat k.toNat) s

/-! ### Completion (R253, R258) -/

/-- The number of the current step within the run, for events raised once a step. -/
def Chip.stepNo (c : Chip) : Nat := match c.run with | some r => r.step + 1 | none => 0

/-- A scheduled command completed after its deadline (R258): counted for each command, and with RT shown and raised. -/
def Chip.deadlineMiss (c : Chip) (t : Nat) (id : W16) (n ddl strm : Nat) (rt fresh : Bool) : Chip :=
  let c := c.updTile t (fun x => { x with cnt := { x.cnt with dlmiss := addN x.cnt.dlmiss n }, dlmiss := x.dlmiss || rt })
  if rt && fresh then c.evTile t 0x0205 (mkWord [(48, 16, id.toNat), (44, 4, strm)]) (BitVec.ofNat 64 (c.now - ddl)) else c

/-- Whether everything that the transfer moves has landed or been acknowledged; an accumulating contribution that is held has not. -/
def Chip.xferDone (c : Chip) (t : Nat) (x : Xfer) : Bool :=
  if c.leaves t x.cmd then x.acked
  else decide (c.unitCount t x ≤ x.moved) && x.out.isEmpty &&
    !(x.cmd.flag 51 && (let a := (c.hnd t x.cmd.dstH).addr t x.cmd.dstOff
      (c.tile (spdTile a)).aows.any (fun y =>
        let h := (c.tile (spdTile a)).hnd y.handle
        within ((a - spdBase) % 0x8_0000) 64 h.base h.size && y.held.any (fun s => s.c == x.cmd.contrib))))

/-- The stream after its active transfer completed (R238, R242, R244): one kept open behind a CLOSE closes now, and a further transfer that
waits then moves without a reservation (DEDUCED, log 100). A pending transfer becomes active in the next ac. -/
def Stream.next (s : Stream) (x : Xfer) (ac : Nat) : Stream :=
  let w := s.waiting.map (fun w => { w with activeAc := ac + 1, readyAc := ac + 1 })
  if s.closing ∨ (x.close = true ∧ w.isNone = true) then { Stream.init with dst := s.dst, missAt := s.missAt, active := w }
  else { s with active := w, waiting := none, closing := x.close }

/-- A transfer completes: its count, its misses, DONE_SYNC, its scoreboard entries and berth reads, and its place. -/
def transferComplete (t k : Nat) (c : Chip) : Chip :=
  let s := (c.tile t).stream k
  match s.active with
  | none => c
  | some x =>
    if s.checking || (c.tile t).st != .running || !c.xferDone t x then c
    else
      let q := x.cmd
      let c := if c.leaves t q then c else c.dstSync t q.id q.opB q.dstTile q.dstSyncNo x.length x.parts.length
      if (c.tile t).st != .running then c
      else
        let late := match x.deadline with | some d => decide (d < c.now) | none => false
        let ddl := x.deadline.getD 0
        let raises := q.flag 50 && decide (s.missAt ≠ c.stepNo + 1)
        let c := if late then
            let c := c.deadlineMiss t q.id x.parts.length ddl k (q.flag 50) raises
            if raises then c.updTile t (fun y => y.setStream k { y.stream k with missAt := c.stepNo + 1 }) else c
          else c
        let c := c.traceTile 3 t 0x02 k false (q.w 0) (q.w 1) (BitVec.ofNat 64 x.length) (BitVec.ofNat 64 (if late then c.now - ddl else 0))
        let c := x.parts.foldl (fun c p => (c.updTile t (fun y => y.sbFree p.idx)).endRead (readKey t p.idx)) c
        let c := c.updTile t (fun y => y.setStream k ((y.stream k).next x c.nowAc))
        let c := c.doneSync t q.id q.opB q.doneSyncNo x.length x.parts.length
        match ((c.tile t).stream k).active with
        | some w => c.traceXfer t k w
        | none => c
/-- TRANSFER_COMPLETE. -/
def execTransferComplete (t : TileId) (k : StreamId) (s : State) : Host.Outcome State Fault Refusal :=
  onChip (transferComplete t.toNat k.toNat) s

/-- The completion of a tray read arrives (R345, R371): data of a tray source lands, also when the tile has frozen meanwhile (R262), or waits
in hand for its channel; the closing read confirms the transfer. -/
def trayReadCompletion (t k : Nat) (data : List Byte) (ep : Bool) (c : Chip) : Chip :=
  match ((c.tile t).stream k).active with
  | none => c
  | some x =>
    if c.srcAt t x.cmd == .tray && decide (x.moved < x.asked) && x.buf.isNone then
      let u := c.unitOf t x x.moved
      if data.length ≠ u.2.2 then c
      else if c.dstChan t x.cmd then c.updXfer t k x.cmd.idx (fun y => { y with buf := some [(data, ep)] })
      else c.putUnit t k x x.moved u.2.1 u.2.2 (c.nowAc + hubAc t) [(data, ep)]
    else if x.sentAll && x.cmd.route == 0 && (c.tile t).st == .running then
      transferComplete t k (c.updXfer t k x.cmd.idx (fun y => { y with acked := true }))
    else c
/-- TRAY_READ_COMPLETION. -/
def execTrayReadCompletion (t : TileId) (k : StreamId) (data : List Byte) (ep : Bool) (s : State) : Host.Outcome State Fault Refusal :=
  onChip (trayReadCompletion t.toNat k.toNat data ep) s

/-! ### Arbitration (R255, R256) -/

/-- Who makes a request at an arbiter: a tile's fetcher, a transfer by tile and stream, a push by strait and number, a channel engine, or an
access whose own step has moved its data. -/
inductive ChWho where
  | fetch (tile : Nat)
  | xfer (tile k : Nat)
  | push (st : Strait) (num : Nat)
  | engine (ch : Nat)
  | step
deriving DecidableEq, Repr

/-- A request at an arbiter: its deadline, its class and index in the order of equal deadlines, when it was made, and by whom. -/
structure ChReq where
  ddl : Option Nat
  cls : Nat
  idx : Nat
  ac  : Nat
  who : ChWho
deriving DecidableEq, Repr

/-- The better of two requests under an order. -/
def bestOf (le : ChReq → ChReq → Bool) : List ChReq → Option ChReq
  | [] => none
  | r :: rs => match bestOf le rs with
    | none => some r
    | some b => some (if le r b then r else b)

/-- Earliest deadline, then queue fetches, tiles in ascending index, channel engines in ascending channel, then earlier issue. -/
def ddlLe (a b : ChReq) : Bool :=
  let key (r : ChReq) : List Nat := [r.ddl.getD 0, r.cls, r.idx, r.ac]
  let rec go : List Nat → List Nat → Bool
    | x :: xs, y :: ys => decide (x < y) || (decide (x = y) && go xs ys)
    | _, _ => true
  go (key a) (key b)
/-- Oldest first. -/
def oldLe (a b : ChReq) : Bool := decide (a.ac ≤ b.ac)

/-- Which request a slot serves, and the new count of scheduled slots since an unscheduled one: one slot in 16 goes to the oldest
unscheduled request while both can be served. -/
def arbitrate (rs : List ChReq) (slots : Nat) : Option ChReq × Nat :=
  let sch := bestOf ddlLe (rs.filter (fun r => r.ddl.isSome))
  let un := bestOf oldLe (rs.filter (fun r => r.ddl.isNone))
  match sch, un with
  | some a, some b => if 15 ≤ slots then (some b, 0) else (some a, slots + 1)
  | some a, none => (some a, slots)
  | none, some b => (some b, 0)
  | none, none => (none, slots)

/-! ### Raw data that lands (R72, R234, R326) -/

/-- Whether any channel that a range lies in is held by a refresh window. -/
def Chip.shutRange (c : Chip) (a n : Nat) : Bool := inLp a && (unitsOf 0x1_0000 (a - lpBase) n).any (fun k => c.shut (k % 64))

/-- Land raw data for a request, encoded where it lies in a channel window; what lies in scratchpad takes its words'
port slots. -/
def Chip.landRaw (c : Chip) (by_ : Reader) (a : Nat) (bs : List Byte) (pz : Nat → Nat → Bool) : Chip :=
  match (match c.run with | some r => r.chanWin a | none => none) with
  | some w => (List.range (bs.length / 4096)).foldl (fun c i =>
      c.writeCoded by_ w (a + 4096 * i) (slice bs (4096 * i) 4096) (fun b => pz (4096 * i + 512 * b) 512)) c
  | none => (c.writeBy by_ ((cutRange 64 a bs.length).map (fun p => (p.1, slice bs (p.1 - a) p.2, pz (p.1 - a) p.2)))).takePort 2 [(a, bs.length)]

end Sys2Proof.Machine
end

