-- ==== Sys2Proof/Machine/Ferries.lean ====
section
/-! DEFINITION. Ferries at the sender (R62, R91, R95 to R98, R251 to R253) and the egress of a strait (R255 to R258, R389, R390,
R396). -/
namespace Sys2Proof.Machine

/-! ### FERRY_PUSH (R251, R252) -/

def QCmd.teeSpace (q : QCmd) : Nat := fld (q.w 3) 63 62
def QCmd.teeBerth (q : QCmd) : Nat := fld (q.w 3) 61 53
def QCmd.teeOff (q : QCmd) : Nat := fld (q.w 3) 40 0
def QCmd.pushStrait (q : QCmd) : Nat := fld (q.w 4) 63 62
def QCmd.index (q : QCmd) : Nat := fld (q.w 4) 55 44
def QCmd.gateTarget (q : QCmd) : W32 := BitVec.ofNat 32 (fld (q.w 6) 63 32)
def QCmd.inject (q : QCmd) : Nat := fld (q.w 7) 63 32
def QCmd.teeTile (q : QCmd) : Nat := fld (q.w 7) 29 18
def QCmd.teeSync (q : QCmd) : Nat := fld (q.w 7) 17 12
def QCmd.gateSync (q : QCmd) : Nat := fld (q.w 7) 5 0
/-- TEE. -/
def QCmd.tee (q : QCmd) : Bool := q.flag 52
/-- GATE. -/
def QCmd.gate (q : QCmd) : Bool := q.flag 53

/-- FERRY_PUSH's checks. -/
def pushChecks (c : Chip) (t : Nat) (q : QCmd) : Checks :=
  let s := (c.tile t).hnd q.srcH
  let n := q.lenG * 32
  { reserved := q.resv 2 [(52, 47)] || q.resv 4 [(61, 56), (43, 24)] || q.resv 5 [(31, 30), (11, 6)] || q.resv 7 [(31, 30), (11, 6)] ||
      (if q.tee then q.resv 3 [(52, 41)] else q.resv 3 [(63, 0)]) ||
      (q.srcSpace != 2 && q.srcBerth != 0) || (q.srcSpace == 2 && q.srcH != 0),
    narrow := false,
    flagErr := q.flag 48 || q.flag 49 || q.flag 51,
    own := [(q.lenG == 0, 0x09),
            (decide (q.lenG % 2 = 1) || decide (2048 < q.lenG), 0x09),
            (syncBad q.dstSyncNo || syncBad q.doneSyncNo || syncBad q.teeSync || syncBad q.gateSync ||
              (q.gate && q.gateSync == 63), 0x09),
            (q.flag 50 && q.ddl == 0, 0x09),
            (!c.srcFits t q || (q.tee && c.hasBerth q.teeBerth && decide (c.berthSize q.teeBerth < q.teeOff + n)), 0x05),
            (q.srcSpace == 0 && s.kind != 1 && s.kind != 2, 0x06),
            (decide (q.srcOff % 32 ≠ 0) || (q.tee && decide (q.teeOff % 32 ≠ 0)), 0x0A),
            ((q.srcSpace != 0 && q.srcSpace != 2) || (q.tee && q.teeSpace != 2) || decide (2 ≤ q.pushStrait), 0x0A),
            (q.srcSpace == 2 && (decide (q.stepIx = 0) || (c.liveBerth q.srcBerth q.srcStep).isNone), 0x0A),
            (q.tee && (c.liveBerth q.teeBerth q.stepIx).isNone, 0x0A),
            (c.codingBad t q, 0x0A)] }

/-- A push's egress queue. -/
def Chip.pushQ (c : Chip) (st : Strait) : List Push := c.pushes.get st
/-- Replace a push queue. -/
def Chip.setPushQ (c : Chip) (st : Strait) (q : List Push) : Chip := { c with pushes := c.pushes.set st q }
/-- The strait a FERRY_PUSH names. -/
def QCmd.pushOn (q : QCmd) : Strait := if q.pushStrait = 0 then .e else .w

/-- What a push waits for at issue: its source under R218, and a place among the 256 of its egress queue. -/
def pushHold (c : Chip) (t : Nat) (q : QCmd) : Hold :=
  if (c.tile t).sbHit (c.xferReads t q) then .scoreboard
  else if 256 ≤ ((c.pushQ q.pushOn).filter (fun p => !p.started)).length then .res else .none

/-- The key of a push's berth read. -/
def pushKey (num : Nat) : Nat := 2 ^ 44 + num

/-- Whether push a leaves before push b (R96): by injection mark, then tile, then queue order. -/
def pushBefore (a b : Push) : Bool :=
  decide (a.cmd.inject < b.cmd.inject) || (decide (a.cmd.inject = b.cmd.inject) &&
    (decide (a.tile < b.tile) || (decide (a.tile = b.tile) && decide (a.num < b.num))))

/-- Put a push in its place: behind every push that has started and every one that leaves before it. -/
def pushInsert (p : Push) : List Push → List Push
  | [] => [p]
  | x :: xs => if x.started || pushBefore x p then x :: pushInsert p xs else p :: x :: xs

/-- FERRY_PUSH enters the queue; a berth source is a read registered against its reservation (R102). -/
def pushRun (c : Chip) (t : Nat) (q : QCmd) : Chip :=
  let p : Push := { num := c.nextPush, tile := t, cmd := q, got := 0, have_ := false, read := false, started := false, sent := false,
                    data := [], poison := [] }
  let c := { c with nextPush := c.nextPush + 1 }
  let c := c.setPushQ q.pushOn (pushInsert p (c.pushQ q.pushOn))
  if q.srcSpace = 2 then c.updBerth q.srcBerth (fun b => { b with reads := setAdd b.reads (pushKey p.num) }) else c

/-- FERRY_PUSH at issue. -/
def pushIssue : Issue := { checks := pushChecks, hold := pushHold, late := fun _ _ _ => none, run := pushRun }
/-- FERRY_PUSH. -/
def execFerryPush (t : TileId) (s : State) : Host.Outcome State Fault Refusal := onChip (issueRow pushIssue (· == 0x43) t.toNat) s

/-! ### The source and the start of a ferry (R62, R98, R251, R253) -/

/-- The planned indices of a berth region's reservation (R99). -/
def Berth.planned (b : Berth) : List Nat := List.range (cdiv b.size (b.flen * 64))
/-- Whether every planned ferry of the reservation has been written. -/
def Berth.complete (b : Berth) : Bool := b.planned.all (fun i => b.got.contains i)

/-- Whether a push's source may be read: a shard always, a half when its arrival is complete (R98). -/
def Chip.pushReady (c : Chip) (p : Push) : Bool :=
  p.have_ || p.cmd.srcSpace != 2 || (match c.liveBerth p.cmd.srcBerth p.cmd.srcStep with | some b => b.complete | none => false)

/-- Change the push of a number. -/
def Chip.updPush (c : Chip) (st : Strait) (num : Nat) (f : Push → Push) : Chip :=
  c.setPushQ st ((c.pushQ st).map (fun p => if p.num = num then f p else p))

/-- The bursts that reading a push's source takes of channels (R255). -/
def Chip.pushBursts (c : Chip) (p : Push) : List Nat :=
  burstsOf (c.srcWin p.tile p.cmd) (c.srcRanges p.tile p.cmd p.cmd.srcOff (p.cmd.lenG * 32))

/-- Read a push's source once (R91), decoded where it lies in a channel window (R326): its bytes and the pieces that come from a
poisoned granule (R259). A source in a group that is not powered is a violation of its tile, and reads as zeros (R234, R263, R338). -/
def Chip.readPush (c : Chip) (st : Strait) (p : Push) : Chip × Push :=
  if p.have_ then (c, p)
  else
    let n := p.cmd.lenG * 32
    let rs := c.srcRanges p.tile p.cmd p.cmd.srcOff n
    let r := if rs.any (fun x => !c.reachable x.1 x.2) then
        (c.tileViolation p.tile 0x0E p.cmd.id p.cmd.opB (rs.headD (0, 0)).1, [(zeros n, false)])
      else (c.takePort 2 rs).readUnit p.tile (c.newXfer p.cmd) 0 n
    let p := { p with have_ := true, data := Pieces.bytes r.2,
                      poison := (List.range (n / 32)).filter (fun k => Pieces.bad r.2 (32 * k) 32) }
    (r.1.updPush st p.num (fun y => { p with got := y.got }), p)

/-- The deadline of a push: DEADLINE after its injection mark (R254). -/
def Chip.pushDdl (c : Chip) (p : Push) : Option Nat := if p.cmd.ddl = 0 then none else some (c.mark p.cmd.inject + p.cmd.ddl)

/-- A FERRY's bytes (R401): the step tag, the direction, the bound weight set, the index and the target. -/
def Chip.ferryBytes (c : Chip) (st : Strait) (p : Push) : List Byte :=
  let r := c.run
  let first := match r with | some r => r.first.toNat | none => 0
  let set := match r with | some r => (match r.set with | some n => n.toNat | none => 0) | none => 0
  let q := p.cmd
  wordsBytes [txnHead 1 (c.str st).pver.toNat (b2n (st == .w)) p.data.length,
    mkWord [(32, 32, first + q.stepIx), (16, 16, set), (4, 12, q.index)],
    mkWord [(18, 12, q.dstTile), (12, 6, q.dstSyncNo)], 0] ++ p.data

/-- Whether GATE lets a push go: an update of an ac counts from the next (R251, R359). -/
def Chip.gateOpen (c : Chip) (p : Push) : Bool :=
  !p.cmd.gate || reached (((c.tile p.tile).sync p.cmd.gateSync).seen c.nowAc).1 p.cmd.gateTarget

/-- Flits of a transaction of n bytes. -/
def flitsOf (n : Nat) : Nat := cdiv n 240

/-- Whether a strait's egress may start a transaction of a data VC: up, neither frozen (R421) nor isolated (R416), nothing to
repeat. -/
def Str.mayStart (x : Str) : Bool := x.train == .up && !x.frozen && !x.isolated && x.resend.isEmpty

/-- Drop the pushes that are read and sent. -/
def Chip.dropPushes (c : Chip) (st : Strait) : Chip := c.setPushQ st ((c.pushQ st).filter (fun p => !(p.read && p.sent)))

/-- FERRY_INJECT: the ferry at the head starts once its mark has passed and is not held by a cut, its gate is met, its half is
complete and its VC can take it; after the tick of its mark it is late. -/
def ferryInject (st : Strait) (c : Chip) : Chip :=
  match (c.pushQ st).find? (fun p => !p.started) with
  | none => c
  | some p =>
    let m := c.mark p.cmd.inject
    Chip.when (c.run.isSome && decide (m ≤ c.now) && !c.cutHolds m && c.timed && c.gateOpen p && c.pushReady p &&
        (c.str st).mayStart && (c.str st).egrF.isEmpty && decide (flitsOf (32 + p.cmd.lenG * 32) ≤ (c.str st).credit.f))
      (fun c =>
        let r := c.readPush st p
        let c := r.1.updPush st p.num (fun y => { y with started := true })
        let c := c.sendVc st 0 ⟨⟨c.ferryBytes st r.2, r.2.poison⟩, c.pushDdl p, .push p.num, 0, c.nowAc⟩
        if m < c.now then c.lateLaunch p.tile p.cmd.id (c.now - m) else c) c
/-- FERRY_INJECT. -/
def execFerryInject (st : Strait) (s : State) : Host.Outcome State Fault Refusal := onChip (ferryInject st) s

/-- Where the TEE copy of a push goes, if its berth's reservation is live. -/
def Chip.teeAt (c : Chip) (p : Push) : Option Nat :=
  if p.cmd.tee then (c.liveBerth p.cmd.teeBerth p.cmd.stepIx).map (fun b => b.base + p.cmd.teeOff) else none

/-- The TEE copy of a ferry (R91, R251): the same bytes land in the own-pair berth, encoded where it is coded (R326), its marked granules
are counted (R259), and TEE_SYNC counts its bytes. A berth in a group that is not powered is a violation (R234). -/
def Chip.teeWrite (c : Chip) (p : Push) (a : Nat) : Chip :=
  let q := p.cmd
  if !c.reachable a p.data.length then c.tileViolation p.tile 0x0E q.id q.opB a
  else
    let bad (i n : Nat) : Bool := (unitsOf 32 i n).any (fun k => p.poison.contains k)
    let marked := ((cutRange 64 a p.data.length).filter (fun x => bad (x.1 - a) x.2)).length
    let c := (c.landRaw (tileReader (q.ddl != 0)) a p.data bad).updTile p.tile (fun y => { y with cnt := { y.cnt with poison := addN y.cnt.poison marked } })
    let c := c.updBerth q.teeBerth (fun b => { b with got := setAdd b.got q.index })
    if q.teeSync = 63 then c
    else c.syncBy rankEgress p.tile q.id q.opB q.teeTile q.teeSync (.count p.data.length 1) (pathScope p.tile q.teeTile) (pathScope p.tile q.teeTile)

/-- The first push of a strait whose source is not read to its end and may be read (R98). -/
def Chip.pushReading (c : Chip) (st : Strait) : Option Push := (c.pushQ st).find? (fun p => !p.read && c.pushReady p)

/-- Whether a push's source has bursts still to be granted, or the channels of its TEE berth are held by a refresh window (R72, R255). -/
def Chip.pushWaits (c : Chip) (p : Push) : Bool :=
  decide (p.got < (c.pushBursts p).length) ||
  (match c.teeAt p with | some a => c.shutRange a (p.cmd.lenG * 32) | none => false)

/-- A push's DONE_SYNC, which its egress advances (R253, R359), unless its tile is frozen (R262). -/
def Chip.pushDone (c : Chip) (p : Push) : Chip :=
  let q := p.cmd
  if (c.tile p.tile).st != .running || q.doneSyncNo == 63 then c
  else c.syncBy rankEgress p.tile q.id q.opB p.tile q.doneSyncNo (.count (q.lenG * 32) 1) 0 0

/-- FERRY_SOURCE_READ_DONE: the channels have granted every burst of the source that is read next: the TEE copy is written,
the berth read ends, and DONE_SYNC advances unless the tile is frozen (R253, R262). -/
def ferrySourceReadDone (st : Strait) (c : Chip) : Chip :=
  match c.pushReading st with
  | none => c
  | some p =>
    if c.run.isNone || c.pushWaits p then c
    else
      let r := c.readPush st p
      let c := r.1.updPush st p.num (fun y => { y with read := true })
      let c := match c.teeAt p with | some a => c.teeWrite r.2 a | none => c
      let c := if p.cmd.srcSpace = 2 then c.endRead (pushKey p.num) else c
      (c.pushDone p).dropPushes st
/-- FERRY_SOURCE_READ_DONE. -/
def execFerrySourceReadDone (st : Strait) (s : State) : Host.Outcome State Fault Refusal := onChip (ferrySourceReadDone st) s

/-! ### The egress of a strait -/

/-- A push's last flit left (R258): past its deadline it is a miss, raised once per step for all of a tile's pushes. -/
def Chip.pushSent (c : Chip) (st : Strait) (num : Nat) : Chip :=
  match (c.pushQ st).find? (fun p => p.num = num) with
  | none => c
  | some p =>
    let c := c.updPush st num (fun y => { y with sent := true })
    let c := match c.pushDdl p with
      | some d => if d < c.now then
          let fresh := decide ((c.tile p.tile).pushMissAt ≠ c.stepNo + 1)
          let c := c.deadlineMiss p.tile p.cmd.id 1 d 0xF (p.cmd.flag 50) fresh
          if p.cmd.flag 50 then c.updTile p.tile (fun y => { y with pushMissAt := c.stepNo + 1 }) else c
        else c
      | none => c
    c.dropPushes st

/-- A TIME transaction gets its stamp as its flit is sent (R408): T1 in a request, T3 in a reply. -/
def Chip.stampTime (c : Chip) (t : TxTxn) (frac : BitVec 9) : TxTxn :=
  if txnType t.txn.bytes = 7 then
    let at_ := if txnFlags t.txn.bytes % 2 = 1 then 32 else 16
    let bs := t.txn.bytes.take at_ ++ leBytes 8 (c.stamp frac).toNat ++ t.txn.bytes.drop (at_ + 8)
    { t with txn := { t.txn with bytes := bs } }
  else t

/-- The records of a FERRY's or RWRITE's first and last flit (R496 kind 5; each transaction is traced, log 17). -/
def Chip.traceFlit (c : Chip) (st : Strait) (vc : Nat) (t : TxTxn) (ev : Nat) : Chip :=
  let ty := txnType t.txn.bytes
  let len := BitVec.ofNat 64 (txnLen t.txn.bytes)
  let late := BitVec.ofNat 64 (match t.deadline with | some d => if d < c.now ∧ ev = 2 then c.now - d else 0 | none => 0)
  if ty = 1 then
    match t.tag with
    | .push k => match (c.pushQ st).find? (fun p => p.num = k) with
      | some p => c.traceCmd 5 (straitNum st) ev vc p.cmd.id.toNat (fld (p.cmd.w 1) 31 16) (fld (p.cmd.w 1) 15 0) len late
      | none => c
    | _ => c
  else if ty = 2 then c.traceCmd 5 (straitNum st) ev vc (fld (wordAt t.txn.bytes 16) 63 48) 0 0 len late
  else c

/-- Send the next flit of the transaction at the head of a VC: it is kept for replay and takes a credit (a CREDIT takes none,
log 8). -/
def Chip.sendFlit (c : Chip) (st : Strait) (vc : BitVec 2) (t : TxTxn) (frac : BitVec 9) : Chip :=
  let t := c.stampTime t frac
  let n := t.nextFlit
  let x := c.str st
  let pz := flitPoison t.txn.poison t.sent n.2.2.length
  let f : TxFlit := { seq := x.nextSeq, vc := vc, start := n.1, fin := n.2.1, fill := BitVec.ofNat 8 n.2.2.length, poison := pz,
                      data := n.2.2, tag := t.tag }
  let rest := if n.2.1 then (x.egr vc).drop 1 else { t with sent := t.sent + 240 } :: (x.egr vc).drop 1
  let cost := if txnType t.txn.bytes = 5 then 0 else 1
  let x := { (x.setEgr vc rest) with nextSeq := x.nextSeq + 1, replay := x.replay ++ [f],
                                     credit := x.credit.set vc (x.credit.get vc - cost) }
  let c := (c.setStr st (x.noteCredits c.up)).emitKept st f
  let c := if n.1 then c.traceFlit st vc.toNat t 1 else c
  let c := if n.2.1 then c.traceFlit st vc.toNat t 2 else c
  match n.2.1, t.tag with
  | true, .push k => c.pushSent st k
  | _, _ => c

/-- The VC-M transaction that may be sent now, if any: in ALIGN the CREDIT, in IDENTIFY CREDIT and PROBE, on an isolated strait
those and TIME. -/
def Str.readyM (x : Str) : Option TxTxn :=
  match x.egrM with
  | [] => none
  | t :: _ =>
    let ty := txnType t.txn.bytes
    let ok := if x.train = .align then ty == 5 else if x.train = .identify then ty == 5 || ty == 6
      else !x.isolated || ty == 5 || ty == 6 || ty == 7
    if ok ∧ (ty = 5 ∨ 0 < x.credit.m) then some t else none

/-- The transaction of a data VC that may have a slot: one partly sent, or one that may start with credits for all its flits. -/
def Str.readyVc (x : Str) (vc : BitVec 2) : Option TxTxn :=
  match x.egr vc with
  | [] => none
  | t :: _ => if 0 < t.sent ∨ (x.mayStart = true ∧ flitsOf t.txn.bytes.length ≤ x.credit.get vc) then some t else none

/-- The place of a waiting transaction among those of equal deadline (R255): its tile's, or behind all tiles. -/
def Chip.txTile (c : Chip) (st : Strait) (t : TxTxn) : Nat := match t.tag with
  | .signal k _ => k
  | .dmaLast k _ => k
  | .dmaData k => k
  | .push n => match (c.pushQ st).find? (fun p => p.num = n) with | some p => p.tile | none => 4096
  | _ => 4096

/-- The better of two heads: the earlier deadline, then the lower tile, then the earlier arrival, which alone counts where neither has a
deadline. -/
def betterHead (place : TxTxn → Nat) (a b : BitVec 2 × TxTxn) : BitVec 2 × TxTxn :=
  let before := match a.2.deadline, b.2.deadline with
    | some x, some y => decide (y < x) || (decide (y = x) && (decide (place b.2 < place a.2) || (decide (place b.2 = place a.2) && decide (b.2.born < a.2.born))))
    | _, _ => decide (b.2.born < a.2.born)
  if before then b else a

/-- The best of some heads. -/
def bestHead (place : TxTxn → Nat) : List (BitVec 2 × TxTxn) → Option (BitVec 2 × TxTxn)
  | [] => none
  | h :: r => match bestHead place r with
    | none => some h
    | some b => some (betterHead place h b)

/-- Which data VC a slot serves, and the scheduled slots since an unscheduled one (R255, R256). -/
def Str.pickVc (x : Str) (place : TxTxn → Nat) : Option (BitVec 2 × TxTxn) × Nat :=
  let hs := ([0, 1, 2] : List (BitVec 2)).filterMap (fun vc => (x.readyVc vc).map (fun t => (vc, t)))
  match bestHead place (hs.filter (fun h => h.2.deadline.isSome)), bestHead place (hs.filter (fun h => h.2.deadline.isNone)) with
  | some a, some b => if 15 ≤ x.schedRun then (some b, 0) else (some a, x.schedRun + 1)
  | some a, none => (some a, x.schedRun)
  | none, some b => (some b, 0)
  | none, none => (none, x.schedRun)

/-- The transfers that leave on a strait from sources beside the egress, and have a unit in hand to send; a coded one that the codec unit
holds waits (R330). -/
def Chip.straitReqs (c : Chip) (st : Strait) : List ChReq :=
  c.tiles.flatMap (fun e => if e.2.st ≠ TileState.running then [] else e.2.streams.filterMap (fun y =>
    match y.2.active with
    | some x => if decide (x.readyAc ≤ c.nowAc) && decide (4 ≤ x.cmd.route) && (routeStrait x.cmd.route == st) && x.buf.isSome &&
        !c.codecHolds e.1 x then some ⟨x.deadline, 1, e.1, x.activeAc, .xfer e.1 y.1⟩ else none
    | none => none))

/-- Form the next RWRITE of a strait, when none waits and the egress may start one. -/
def Chip.formRwrite (c : Chip) (st : Strait) : Chip :=
  if (c.str st).egrW.isEmpty && (c.str st).mayStart then
    match (arbitrate (c.straitReqs st) (c.str st).schedRun).1 with
    | some ⟨_, _, _, _, .xfer t k⟩ => match ((c.tile t).stream k).active with
      | some x => c.moveUnit t k x
      | none => c
    | _ => c
  else c

/-- Count a slot: the slots until VC-M may be granted again, and those since the last null flit. -/
def Str.slot (x : Str) : Str := { x with slotNo := x.slotNo - 1, nullNo := x.nullNo + 1 }

/-- One flit slot: the null flit that is due (R389), then repeats, VC-M at most once in 64 slots (R257), and the data VCs. -/
def egressServiceSlot (st : Strait) (frac : BitVec 9) (c : Chip) : Chip :=
  let x := c.str st
  if x.train = .align ∨ x.train = .identify ∨ x.train = .up then
    if x.slotNo = 0 ∧ 1984 ≤ x.nullNo then (c.emitNull st).updStr st (fun x => { x with slotNo := 63 })
    else match x.resend with
    | f :: rest => (c.updStr st (fun x => { x with resend := rest })).emitKept st f |>.updStr st Str.slot
    | [] =>
      if 64 ≤ x.replay.length then (c.emitNull st).updStr st (fun x => { x with slotNo := x.slotNo - 1 })
      else match (if x.slotNo = 0 then x.readyM else none) with
        | some t => (c.sendFlit st 3 t frac).updStr st (fun x => { x.slot with slotNo := 63 })
        | none =>
          let c := if x.train = .up then c.formRwrite st else c
          let p := if x.train = .up then (c.str st).pickVc (c.txTile st) else (none, x.schedRun)
          match p.1 with
          | some h => (c.sendFlit st h.1 h.2 frac).updStr st (fun x => { x.slot with schedRun := p.2 })
          | none => (c.emitNull st).updStr st (fun x => { x with slotNo := x.slotNo - 1 })
  else c
/-- EGRESS_SERVICE_SLOT. -/
def execEgressServiceSlot (st : Strait) (frac : BitVec 9) (s : State) : Host.Outcome State Fault Refusal :=
  onChip (egressServiceSlot st frac) s

end Sys2Proof.Machine
end

