-- ==== Sys2Proof/Machine/Attention.lean ====
section
/-! DEFINITION. Attention beside memory (R289 to R305, R328, R431): ATTN_Q at issue, the dispatcher, the channel engines, their
records and completion. -/
namespace Sys2Proof.Machine

/-! ### Fields (R292, R293) -/

def QCmd.qH (q : QCmd) : Nat := fld (q.w 2) 46 41
def QCmd.qOff (q : QCmd) : Nat := fld (q.w 2) 40 0
def QCmd.listH (q : QCmd) : Nat := fld (q.w 3) 46 41
def QCmd.listOff (q : QCmd) : Nat := fld (q.w 3) 40 0
def QCmd.recH (q : QCmd) : Nat := fld (q.w 6) 46 41
def QCmd.recOff (q : QCmd) : Nat := fld (q.w 6) 40 0
/-- KVFMT. -/
def attFmt (p : W64) : Nat := fld p 60 59
/-- COMBINE. -/
def attCombine (p : W64) : Bool := bit p 58
/-- LAYER. -/
def attLayer (p : W64) : Nat := fld p 57 55
/-- Query heads. -/
def attHeads (p : W64) : Nat := fld p 54 51 + 1
/-- List entries. -/
def attPages (p : W64) : Nat := fld p 41 32 + 1
/-- ALPHA. -/
def attAlpha (p : W64) : Fv := of32 (BitVec.ofNat 32 (fld p 31 0))
/-- Valid tokens of an entry. -/
def entTokens (e : W64) : Nat := fld e 58 54 + 1
/-- CODED. -/
def entCoded (e : W64) : Nat := fld e 53 52
/-- The page's local address. -/
def entPage (e : W64) : Nat := fld e 47 16 * 0x1_0000

/-- Bytes of one record (R300). -/
def recBytes : Nat := 576
/-- Most bytes a request writes (R294). -/
def attDstBytes (p : W64) : Nat := attHeads p * (if attCombine p then 1 else min (attPages p) 64) * recBytes

/-! ### Issue (R294, R296) -/

/-- ATTN_Q's checks. -/
def attnChecks (c : Chip) (t : Nat) (q : QCmd) : Checks :=
  let x := c.tile t
  let p := q.w 4
  let route := attRoute p
  { reserved := q.flag 48 || q.flag 49 || q.flag 51 || q.flag 52 || q.flag 53 || q.resv 2 [(63, 47)] || q.resv 3 [(63, 47)] ||
      q.resv 4 [(50, 42)] || q.resv 5 [(31, 18), (11, 6)] || q.resv 6 [(63, 47)] || q.resv 7 [(63, 0)],
    narrow := false, flagErr := false,
    own := [((x.hnd q.qH).kind != 1 || (x.hnd q.listH).kind != 1 || (x.hnd q.recH).kind != 1, 0x06),
            (!(x.hnd q.qH).fits q.qOff (attHeads p * 512) || !(x.hnd q.listH).fits q.listOff (attPages p * 8) ||
              !(x.hnd q.recH).fits q.recOff (attDstBytes p), 0x05),
            (attFmt p == 3, 0x04),
            ((route != 0 && route != 6 && route != 7) || decide (q.qOff % 64 ≠ 0) || decide (q.listOff % 64 ≠ 0) ||
              decide (q.recOff % 64 ≠ 0), 0x0A),
            ((q.flag 50 && q.ddl == 0) || syncBad q.dstSyncNo || syncBad q.doneSyncNo, 0x09)] }

/-- What an ATTN_Q waits for: the scoreboard and the limit of 4 in flight. -/
def attnHold (c : Chip) (t : Nat) (q : QCmd) : Hold :=
  let x := c.tile t
  let ws := (x.hnd q.recH).grans q.recOff (attDstBytes (q.w 4))
  if x.sbHit ((x.hnd q.qH).grans q.qOff (attHeads (q.w 4) * 512)) || x.sbHit ((x.hnd q.listH).grans q.listOff (attPages (q.w 4) * 8)) ||
    x.sbHit ws || x.sbFull then .scoreboard
  else if 4 ≤ x.attns.length then .res else .none

/-- ATTN_Q issues: it takes its scoreboard entry and waits at the dispatcher. -/
def attnRun (c : Chip) (t : Nat) (q : QCmd) : Chip :=
  let m := c.mark q.launch
  let ddl := if q.ddl = 0 then none else some (m + q.ddl)
  let k := c.disp.nextNum
  let r : AttnReq := { num := k, tile := t, cmdId := q.id, cmd := some q, from_ := none, slot := 0, params := q.w 4,
                       dstSync := q.dstSyncNo, dst := ((c.tile t).hnd q.recH).addr t q.recOff, deadline := ddl, born := c.nowAc, admitted := false,
                       query := [], qPoison := [], chans := [], recs := [], landed := 0 }
  let c := c.updTile t (fun x => { x.sbTake ((x.hnd q.recH).grans q.recOff (attDstBytes (q.w 4))) q.idx with
    attns := x.attns ++ [⟨q, k, m, ddl, none, 0⟩] })
  { c with disp := { c.disp with reqs := c.disp.reqs ++ [r], nextNum := k + 1 } }

/-- ATTN_Q at issue. -/
def attnIssue : Issue := { checks := attnChecks, hold := attnHold, late := fun _ _ _ => none, run := attnRun }
/-- ATTN_Q. -/
def execAttnQ (t : TileId) (s : State) : Host.Outcome State Fault Refusal := onChip (issueRow attnIssue (· == 0x50) t.toNat) s

/-! ### Admission (R295, R297, R303) -/

/-- Change the request of a number. -/
def Chip.updReq (c : Chip) (num : Nat) (f : AttnReq → AttnReq) : Chip :=
  { c with disp := { c.disp with reqs := c.disp.reqs.map (fun r => if r.num = num then f r else r) } }
/-- Take a request away from the dispatcher. -/
def Chip.dropReq (c : Chip) (num : Nat) : Chip :=
  { c with disp := { c.disp with reqs := c.disp.reqs.filter (fun r => r.num != num) },
           engines := c.engines.map (fun e => (e.1, { e.2 with subs := e.2.subs.filter (fun x => x.req != num), wait := e.2.wait.filter (fun x => x.req != num) })) }

/-- Window slots in use toward a cross strait. -/
def Chip.slotsUsed (c : Chip) (st : Strait) : NatSet := if st = Strait.x0 then c.disp.useX0 else c.disp.useX1
/-- Replace them. -/
def Chip.setSlots (c : Chip) (st : Strait) (s : NatSet) : Chip :=
  if st = Strait.x0 then { c with disp := { c.disp with useX0 := s } } else { c with disp := { c.disp with useX1 := s } }

/-- Whether a waiting request can take its place: one of 64, or one of the 32 window slots of its cross strait. -/
def Chip.canAdmit (c : Chip) (r : AttnReq) : Bool :=
  !r.admitted && (r.from_.isSome || (c.tile r.tile).st == .running) &&
  (match r.away with
    | some st => decide ((c.slotsUsed st).length < 32)
    | none => decide ((c.disp.reqs.filter (fun x => x.admitted && x.away.isNone)).length < 64))

/-- Scheduled before unscheduled, earliest deadline first, then oldest. -/
def reqBefore (a b : AttnReq) : Bool :=
  match a.deadline, b.deadline with
  | some x, some y => decide (x < y) || (decide (x = y) && decide (a.num ≤ b.num))
  | some _, none => true
  | none, some _ => false
  | none, none => decide (a.num ≤ b.num)

/-- The first request in that order. -/
def firstReq : List AttnReq → Option AttnReq
  | [] => none
  | r :: rs => match firstReq rs with
    | none => some r
    | some b => some (if reqBefore r b then r else b)

/-- Whether a list entry breaks a rule of its format (R295). -/
def entBad (fmt : Nat) (e : W64) : Bool :=
  decide (fld e 63 59 ≠ 0) || decide (fld e 51 48 ≠ 0) || decide (fld e 15 0 ≠ 0) ||
  decide ((if fmt = 0 then 16 else 32) < entTokens e) || !(entCoded e == 0 || (entCoded e == 1 && fmt == 0) || (decide (2 ≤ entCoded e) && fmt != 0))

/-- Whether a coded entry's page lies in a sealed region (R328). -/
def Chip.codedSealed (c : Chip) (e : W64) : Bool :=
  entCoded e != 0 && c.regions.any (fun g => g.sealedR && overlap (entPage e) 0x1_0000 g.base g.size)

/-- Whether a page lies in a region that the launching context maps (R295), its own regions among them (R443), and none of it sealed where it
is coded (R328). -/
def Chip.pageOk (c : Chip) (e : W64) : Bool :=
  (match c.run with
    | some r => (c.ctx r.ctx).maps.any (fun m => inLp m.1 && within (entPage e) 0x1_0000 m.1 m.2) ||
        c.regions.any (fun g => g.ctx == r.ctx && within (entPage e) 0x1_0000 g.base g.size)
    | none => false) && !c.codedSealed e

/-- The distinct channels of a list, ascending. -/
def listChans (es : List W64) : List Nat := es.foldl (fun s e => setAdd s (chanOf (entPage e))) []

/-- A head before its first block. -/
def headInit : Head := ⟨0xFF80_0000, 0, List.replicate 128 0⟩

/-- Whether a sub-request comes before another, in the order of the dispatcher (R297). -/
def subBefore (a b : SubReq) : Bool :=
  match a.ddl, b.ddl with
  | some x, some y => decide (x < y) || (decide (x = y) && decide (a.req ≤ b.req))
  | some _, none => true
  | none, some _ => false
  | none, none => decide (a.req ≤ b.req)

/-- Put a sub-request in its place; one that has started goes on. -/
def subInsert (x : SubReq) : List SubReq → List SubReq
  | [] => [x]
  | y :: ys => if !y.started && subBefore x y then x :: y :: ys else y :: subInsert x ys

/-- The engine takes what waits for it, up to 8 sub-requests held (R297). -/
def Engine.take (g : Engine) : Nat → Engine
  | 0 => g
  | n + 1 => match g.wait with
    | [] => g
    | x :: rest => if g.subs.length < 8 then ({ g with subs := subInsert x g.subs, wait := rest } : Engine).take n else g

/-- A sub-request reaches an engine; one that finds the engine empty has 40 ac before its first block (R305). -/
def Engine.give (g : Engine) (acs : Nat) (x : SubReq) : Engine :=
  let h := ({ g with wait := subInsert x g.wait } : Engine).take 8
  if g.subs.isEmpty then { h with since := max h.since (acs + 40) } else h

/-- Split an admitted request into one sub-request for each channel, each with that channel's entries in list order. -/
def Chip.splitReq (c : Chip) (r : AttnReq) (es : List W64) : Chip :=
  let chans := listChans es
  let c := c.updReq r.num (fun y => { y with admitted := true, query := r.query, qPoison := r.qPoison, chans := chans })
  chans.foldl (fun c ch => c.updEngine ch (fun g => g.give c.tide.acs.toNat
    ⟨r.num, r.deadline, es.filter (fun e => chanOf (entPage e) == ch), 0, 0, [], 0, List.replicate (attHeads r.params) headInit, false, false⟩)) c

/-- RWRITEs of n bytes to an address of the far module, cut at 4 KiB (R402); the last carries LAST and the count. -/
def Chip.sendRwrites (c : Chip) (st : Strait) (addr : Nat) (bs : List Byte) (pz : Nat → Nat → Bool) (id srcTile dstTile dstSync : Nat)
    (ddl : Option Nat) : Chip :=
  (cutRange 4096 addr bs.length).foldl (fun c p =>
    let last := decide (p.1 + p.2 = addr + bs.length)
    let d := slice bs (p.1 - addr) p.2
    c.sendVc st 1 ⟨⟨rwriteBytes (c.str st).pver.toNat last false false 0 0 p.1 id srcTile dstTile dstSync 1 bs.length d,
      (List.range (p.2 / 32)).filter (fun k => pz (p.1 - addr + 32 * k) 32)⟩, ddl, .plain, 0, c.nowAc⟩) c

/-- The first free window slot. -/
def freeSlot (used : NatSet) : Nat := ((List.range 32).find? (fun k => !used.contains k)).getD 0

/-- The far window's address of a slot: a request sent on X0 arrives by the far module's cross strait of the name it has there
(R431). -/
def winAddr (st : Strait) (slot : Nat) : Nat := 0x0100_0000 + (if st = Strait.x1 then 0x10_0000 else 0) + slot * 0x8000

/-- Send a request over its cross strait as one request record (R303, R431), filled to whole 32 B pieces. The slot's address is
that of the strait as the far module names it. -/
def Chip.sendReq (c : Chip) (st : Strait) (r : AttnReq) (list : List Byte) : Chip :=
  let k := freeSlot (c.slotsUsed st)
  let c := c.setSlots st (setAdd (c.slotsUsed st) k)
  let params := r.params - BitVec.ofNat 64 (attRoute r.params * 2 ^ 61)
  let rec_ := wordsBytes [params, mkWord [(48, 16, r.cmdId.toNat), (36, 12, r.tile), (24, 6, r.dstSync)], mkWord [(0, 48, r.dst)], 0, 0, 0, 0, 0]
    ++ r.query ++ list
  let rec_ := rec_ ++ zeros (32 * cdiv rec_.length 32 - rec_.length)
  let far : Strait := if (c.str st).far.logical = 3 then .x1 else .x0
  let c := c.updReq r.num (fun y => { y with admitted := true, slot := k, chans := listChans (bytesWords (attPages r.params) list) })
  c.sendRwrites st (winAddr far k) rec_ (fun i n => r.qPoison.any (fun g => overlap i n (64 + 64 * g) 64)) r.cmdId.toNat r.tile 0 63 r.deadline

/-- A descriptor error that the dispatcher finds (R295): the request goes and the tile freezes. -/
def Chip.attnError (c : Chip) (r : AttnReq) (q : QCmd) : Chip := (c.dropReq r.num).tileViolation r.tile 0x0A q.id q.opB 0

/-- Set the records that an ATTN_Q waits for. -/
def Chip.setWant (c : Chip) (r : AttnReq) (chans : Nat) : Chip :=
  let n := attHeads r.params * (if attCombine r.params then 1 else chans)
  c.updTile r.tile (fun x => { x with attns := x.attns.map (fun a => if a.num = r.num then { a with want := some n } else a) })

/-- ATTN_ADMIT: the first request that can is admitted. A local one's query and list are read through its tile, checked, and split
or sent; a remote one was read from the window as it arrived. -/
def attnAdmit (c : Chip) : Chip :=
  match firstReq (c.disp.reqs.filter c.canAdmit) with
  | none => c
  | some r =>
    match r.cmd with
    | none => c.splitReq r (bytesWords (attPages r.params) (r.query.drop (attHeads r.params * 512)))
    | some q =>
      let x := c.tile r.tile
      let qs := (x.hnd q.qH).ranges r.tile q.qOff (attHeads r.params * 512)
      let ls := (x.hnd q.listH).ranges r.tile q.listOff (attPages r.params * 8)
      let a := c.readRanges (tileReader true) qs
      let b := a.1.readRanges (tileReader true) ls
      let es := bytesWords (attPages r.params) b.2.bytes
      let r := { r with query := a.2.bytes, qPoison := (List.range (attHeads r.params * 8)).filter (fun g => a.2.bad (64 * g) 64) }
      let c := b.1.takePort 2 (qs ++ ls)
      if es.any (entBad (attFmt r.params)) then c.attnError r q
      else match r.away with
        | some st => (c.sendReq st r b.2.bytes).setWant r (listChans es).length
        | none => if es.any (fun e => !c.pageOk e) then c.attnError r q else (c.splitReq r es).setWant r (listChans es).length
/-- ATTN_ADMIT. -/
def execAttnAdmit (s : State) : Host.Outcome State Fault Refusal := onChip attnAdmit s

/-! ### The engines (R289, R299, R305, R328) -/

/-- A token's 128 elements from its bytes. -/
def kvElems (fmt : Nat) (bs : List Byte) : List Fv :=
  (List.range 128).map (fun d =>
    if fmt = 0 then decodeElem 6 (leNat (slice bs (2 * d) 2)) else decodeElem (fmt - 1) (leNat (slice bs d 1)))

/-- DOT: lane i adds the products of dimensions i, i + 32, i + 64 and i + 96; the lanes combine in the pair tree. -/
def dot128 (q k : List Fv) : Fv :=
  let p (i : Nat) : Fv := fmul (q.getD i .nan) (k.getD i .nan)
  pairTree fadd ((List.range 32).map (fun i => fadd (fadd (fadd (p i) (p (i + 32))) (p (i + 64))) (p (i + 96))))

/-- The factor EXP2(a − b), or 1 where the new maximum is −Inf. -/
def rescale (a b : Fv) : Fv := if b = .inf true then .fin false 1 0 else exp2 (fsub a b)

/-- One block of up to 16 tokens for one head (R299). -/
def headBlock (alpha : Fv) (q : List Fv) (ks vs : List (List Fv)) (h : Head) : Head :=
  let m := of32 h.m
  let ss := ks.map (fun k => fmul alpha (dot128 q k))
  let mb := ss.foldl fmax m
  let cf := rescale m mb
  let ps := ss.map (fun s => if mb = .inf true then fzero false else exp2 (fsub s mb))
  { m := to32 mb, l := to32 (fadd (fmul (of32 h.l) cf) (seqSum ps)),
    o := (List.range 128).map (fun d =>
      to32 (fadd (fmul (of32 (h.o.getD d 0)) cf) (seqSum ((ps.zip vs).map (fun x => fmul x.1 (x.2.getD d .nan)))))) }

/-- One token block of a sub-request: tokens lo to lo + n − 1 of K and V bytes. -/
def subBlock (params : W64) (query kb vb : List Byte) (lo n : Nat) (hs : List Head) : List Head :=
  let fmt := attFmt params
  let tb := if fmt = 0 then 256 else 128
  let toks (bs : List Byte) : List (List Fv) := (List.range n).map (fun i => kvElems fmt (slice bs ((lo + i) * tb) tb))
  let ks := toks kb
  let vs := toks vb
  hs.zipIdx.map (fun x =>
    headBlock (attAlpha params) ((List.range 128).map (fun d => of32 (BitVec.ofNat 32 (leNat (slice query (x.2 * 512 + 4 * d) 4))))) ks vs x.1)

/-- The reader of an engine: for its own run, or for another ring's (R461). -/
def AttnReq.reader (r : AttnReq) : Reader := ⟨false, r.from_.isNone, r.deadline.isSome, true⟩

/-- The tokens of block b of an entry: the first and how many. Both blocks of a coded FP8 layer are one unit (R328). -/
def blockTokens (fmt : Nat) (e : W64) (b : Nat) : Nat × Nat :=
  if entCoded e ≠ 0 ∧ fmt ≠ 0 then (0, entTokens e) else (16 * b, min 16 (entTokens e - 16 * b))

/-- Whether block b is the last of an entry. -/
def blockLast (fmt : Nat) (e : W64) (b : Nat) : Bool := (entCoded e != 0 && fmt != 0) || decide (entTokens e ≤ 16 * b + 16)

/-- The granules that reading block b of an entry takes of its channel: K's, then V's; of a coded layer both groups' coded parts (R289, R328). -/
def blockBursts (params e : W64) (b : Nat) : List Nat :=
  let a := entPage e + attLayer params * 8192
  let p := blockTokens (attFmt params) e b
  let tb := if attFmt params = 0 then 256 else 128
  if entCoded e = 0 then unitsOf 64 (a + p.1 * tb) (p.2 * tb) ++ unitsOf 64 (a + 4096 + p.1 * tb) (p.2 * tb)
  else unitsOf 64 a (cdcLen (entCoded e)) ++ unitsOf 64 (a + 4096) (cdcLen (entCoded e))

/-- Read block b of an entry: K and V of a layer for its tokens, and whether a granule read was poisoned. A coded layer is read and decoded
whole. -/
def Chip.readBlock (c : Chip) (r : AttnReq) (e : W64) (b : Nat) : Chip × KvBlock :=
  let a := entPage e + attLayer r.params * 8192
  let p := blockTokens (attFmt r.params) e b
  let tb := if attFmt r.params = 0 then 256 else 128
  let last := blockLast (attFmt r.params) e b
  if entCoded e = 0 then
    let k := c.fetch (a + p.1 * tb) (p.2 * tb) r.reader
    let v := k.1.fetch (a + 4096 + p.1 * tb) (p.2 * tb) r.reader
    (v.1, ⟨k.2.1, v.2.1, k.2.2 || v.2.2, p.2, last⟩)
  else
    let f8 := attFmt r.params == 2
    let k := c.readCoded (entCoded e) f8 a r.reader
    let v := k.1.readCoded (entCoded e) f8 (a + 4096) r.reader
    let used := cdiv (p.2 * tb) 512
    (v.1, ⟨slice k.2.1 0 (p.2 * tb), slice v.2.1 0 (p.2 * tb), (k.2.2.take used).any id || (v.2.2.take used).any id, p.2, last⟩)

/-- The request of a sub-request. -/
def Chip.reqOf (c : Chip) (x : SubReq) : Option AttnReq := c.disp.reqs.find? (fun r => r.num = x.req)

/-- The sub-request an engine works on, with its request. -/
def Chip.engineHead (c : Chip) (ch : Nat) : Option (SubReq × AttnReq) :=
  match (c.engine ch).subs with
  | [] => none
  | x :: _ => (c.reqOf x).map (fun r => (x, r))

/-- Replace the first sub-request of an engine. -/
def Engine.setHead (g : Engine) (x : SubReq) : Engine := { g with subs := x :: g.subs.drop 1 }

/-- The arithmetic cycles of computing a block of a request: 128 for each head and 16 tokens (R305, R328). -/
def blockAc (params : W64) (b : KvBlock) : Nat := cdiv b.tokens 16 * 128 * attHeads params

/-- The layer blocks of 8 KiB that an engine has read ahead of the one it computes (R297, R306). -/
def Engine.readAhead (g : Engine) : Nat := (g.subs.flatMap (fun x => x.blocks.filter (fun b => b.fin))).length - 1

/-- Whether the lanes of an engine are computing (R306). -/
def Chip.lanesBusy (c : Chip) (ch : Nat) : Bool :=
  match c.engineHead ch with
  | some (x, r) => match x.blocks with
    | b :: _ => decide ((c.engine ch).since ≤ c.tide.acs.toNat) && decide (c.tide.acs.toNat < (c.engine ch).since + blockAc r.params b)
    | [] => false
  | none => false

/-- The sub-request that an engine reads for next, with its request: the first with entries left, while no more than 15 blocks are read
ahead (R297). -/
def Chip.engineReads (c : Chip) (ch : Nat) : Option (SubReq × AttnReq) :=
  if 15 ≤ (c.engine ch).readAhead then none
  else match (c.engine ch).subs.find? (fun x => !x.entries.isEmpty) with
    | some x => (c.reqOf x).map (fun r => (x, r))
    | none => none

/-- The channel has granted the next burst of an engine's read; with the last of a block the block is read. The lanes start on the first
block of a sub-request 40 ac after it was read, at the earliest, and end each block no earlier than it was read (R305). -/
def Chip.engineGot (c : Chip) (ch : Nat) : Chip :=
  match c.engineReads ch with
  | none => c
  | some (x, r) =>
    match x.entries with
    | [] => c
    | e :: rest =>
      let put (y : SubReq) (c : Chip) : Chip :=
        c.updEngine ch (fun g => { g with subs := g.subs.map (fun z => if z.req = x.req then y else z) })
      if x.got + 1 < (blockBursts r.params e x.block).length then put { x with got := x.got + 1 } c
      else
        let d := c.readBlock r e x.block
        let y := { x with got := 0, blocks := x.blocks ++ [d.2], entries := if d.2.fin then rest else x.entries, block := if d.2.fin then 0 else x.block + 1 }
        let first := decide ((c.engine ch).subs.head?.map (fun z => z.req) = some x.req) && x.blocks.isEmpty
        let from_ := c.tide.acs.toNat + (if x.started then 0 else 40) - blockAc r.params d.2
        (put y d.1).updEngine ch (fun g => if first then { g with since := max g.since from_ } else g)

/-- ENGINE_BLOCK: one block of up to 16 tokens, or both blocks of a coded FP8 layer as one unit (R328), read before and computed for as long
as R305 says. -/
def engineBlock (ch : Nat) (c : Chip) : Chip :=
  match c.engineHead ch with
  | none => c
  | some (x, r) =>
    match x.blocks with
    | [] => c
    | b :: rest =>
      if c.tide.acs.toNat < (c.engine ch).since + blockAc r.params b then c
      else
        let c := if x.started then c else c.traceCmd 4 ch 1 0 r.cmdId.toNat 0 0 0 0
        let h1 := subBlock r.params r.query b.k b.v 0 (min 16 b.tokens) x.heads
        let hs := if 16 < b.tokens then subBlock r.params r.query b.k b.v 16 (b.tokens - 16) h1 else h1
        let y := { x with heads := hs, tokens := x.tokens + b.tokens, poison := x.poison || b.bad, started := true, blocks := rest }
        c.updEngine ch (fun g => { g.setHead y with blockCnt := addN g.blockCnt (cdiv b.tokens 16), busyCnt := addN g.busyCnt (blockAc r.params b),
                                                    since := c.tide.acs.toNat })
/-- ENGINE_BLOCK. -/
def execEngineBlock (ch : ChanId) (s : State) : Host.Outcome State Fault Refusal := onChip (engineBlock ch.toNat) s

/-! ### Records (R300 to R303) -/

/-- A record's 576 bytes. -/
def recData (r : AttnReq) (combined : Bool) (x : Rec) : List Byte :=
  wordsBytes [mkWord [(32, 32, x.st.l.toNat), (0, 32, x.st.m.toNat)],
    mkWord [(48, 16, r.cmdId.toNat), (44, 4, x.head), (38, 6, if combined then 0 else x.chan), (32, 1, b2n combined), (0, 32, x.tokens)],
    0, 0, 0, 0, 0, 0] ++ x.st.o.flatMap (fun w => leBytes 4 w.toNat)

/-- Combine two partials (R301). -/
def combine2 (a b : Head) : Head :=
  let m := fmax (of32 a.m) (of32 b.m)
  let fa := rescale (of32 a.m) m
  let fb := rescale (of32 b.m) m
  { m := to32 m, l := to32 (fadd (fmul (of32 a.l) fa) (fmul (of32 b.l) fb)),
    o := (List.range 128).map (fun d => to32 (fadd (fmul (of32 (a.o.getD d 0)) fa) (fmul (of32 (b.o.getD d 0)) fb))) }

/-- Combine records in order. -/
def combineAll : List Rec → Option Rec
  | [] => none
  | r :: rs => some (rs.foldl (fun a b => { a with st := combine2 a.st b.st, tokens := a.tokens + b.tokens, poison := a.poison || b.poison }) r)

/-- The generation that an id carries is not a tile's: a completion of an earlier one, which the tile discards and counts (R124). -/
def Chip.staleId (c : Chip) (t : Nat) (id : W16) : Bool := decide (id.toNat / 0x1000 ≠ (c.tile t).gen.toNat)
/-- A tile discards a completion of an earlier generation. -/
def Chip.countStale (c : Chip) (t : Nat) : Chip := c.updTile t (fun x => { x with cnt := { x.cnt with stale := x.cnt.stale + 1 } })

/-- Write one record at an offset of its request's buffer: locally through the tile's port slot, with its count, or as RWRITE over
the strait the request came by. Its count takes the place of channel ch in the order
of R359 (log 105). A record of an earlier generation is discarded and counted (R124), and one whose ATTN_Q has ended with its run is
dropped. -/
def Chip.landRec (c : Chip) (r : AttnReq) (ch off : Nat) (bs : List Byte) (pz : Bool) : Chip :=
  match r.from_ with
  | some st => c.sendRwrites st (r.dst + off) bs (fun _ _ => pz) r.cmdId.toNat r.tile r.tile r.dstSync r.deadline
  | none =>
    match r.cmd with
    | none => c
    | some q =>
      if c.staleId r.tile r.cmdId then c.countStale r.tile
      else if !(c.tile r.tile).attns.any (fun a => a.num == r.num) then c
      else
      let h := (c.tile r.tile).hnd q.recH
      let ps := h.pieces r.tile (q.recOff + off) bs (fun _ _ => pz)
      let c := (c.writePieces ps).takePort 2 (ps.map (fun p => (p.1, p.2.1.length)))
      let c := if (c.tile r.tile).st = .running ∧ r.dstSync ≠ 63 then c.syncBy (rankEngine ch) r.tile q.id q.opB r.tile r.dstSync (.count recBytes 1) 1 1 else c
      c.updTile r.tile (fun x => { x with attns := x.attns.map (fun a => if a.num = r.num then { a with recs := a.recs + 1 } else a) })

/-- Whether partials are combined in channel order: the deterministic profile of the run here (for a request of another ring the
record carries none; DEDUCED, log 18). -/
def Chip.detRun (c : Chip) : Bool := match c.run with | some r => r.det | none => false

/-- Insert a record in ascending channel order. -/
def recInsert (x : Rec) : List Rec → List Rec
  | [] => [x]
  | y :: ys => if x.chan < y.chan then x :: y :: ys else y :: recInsert x ys

/-- Land the records of a finished sub-request: at once without COMBINE; with it, once every channel's have come. -/
def Chip.giveRecs (c : Chip) (r : AttnReq) (new : List Rec) : Chip :=
  let k := r.chans.length
  if attCombine r.params then
    let all := if c.detRun then new.foldl (fun l x => recInsert x l) r.recs else r.recs ++ new
    if all.length < k * attHeads r.params then c.updReq r.num (fun y => { y with recs := all })
    else
      let c := (List.range (attHeads r.params)).foldl (fun c h =>
        match combineAll (all.filter (fun x => x.head = h)) with
        | some x => c.landRec r x.chan (h * recBytes) (recData r true x) x.poison
        | none => c) c
      c.dropReq r.num
  else
    let ix (ch : Nat) : Nat := (r.chans.filter (fun y => y < ch)).length
    let c := new.foldl (fun c x => c.landRec r x.chan ((x.head * k + ix x.chan) * recBytes) (recData r false x) x.poison) c
    let n := r.landed + new.length
    if n < k * attHeads r.params then c.updReq r.num (fun y => { y with landed := n }) else c.dropReq r.num

/-- ENGINE_RECORD: after the last block, and 12 ac for each record (R305), the engine returns a record for each head, poisoned where K, V or
the head's query was (R302), and takes its next sub-request. -/
def engineRecord (ch : Nat) (c : Chip) : Chip :=
  match c.engineHead ch with
  | none => c
  | some (x, r) =>
    if !x.entries.isEmpty || !x.blocks.isEmpty || decide (c.tide.acs.toNat < (c.engine ch).since + 12 * x.heads.length) then c
    else
      let qbad (h : Nat) : Bool := r.qPoison.any (fun k => k / 8 == h)
      let recs := x.heads.zipIdx.map (fun h => (⟨ch, h.2, h.1, x.tokens, x.poison || qbad h.2⟩ : Rec))
      let c := c.updEngine ch (fun g =>
        { (({ g with subs := g.subs.drop 1 } : Engine).take 8) with
          subCnt := g.subCnt + 1, since := c.tide.acs.toNat + 40, poisonCnt := addN g.poisonCnt (recs.filter (fun e => e.poison)).length })
      let c := c.giveRecs r recs
      c.traceCmd 4 ch 2 0 r.cmdId.toNat 0 0 (BitVec.ofNat 64 (recBytes * recs.length)) 0
/-- ENGINE_RECORD. -/
def execEngineRecord (ch : ChanId) (s : State) : Host.Outcome State Fault Refusal := onChip (engineRecord ch.toNat) s

/-- The request that left over a cross strait to which a record arriving for a tile and command belongs. -/
def Chip.recordFor (c : Chip) (st : Strait) (tile : Nat) (id : W16) (addr : Nat) : Option AttnReq :=
  c.disp.reqs.find? (fun r => r.away == some st && r.admitted && r.tile == tile && r.cmdId == id && within addr 1 r.dst (attDstBytes r.params))

/-- A record of a request that left over a cross strait has landed back (R303), or was discarded: after the last, its window slot is free. -/
def Chip.recordBack (c : Chip) (st : Strait) (tile : Nat) (id : W16) (addr : Nat) : Chip :=
  match c.recordFor st tile id addr with
  | none => c
  | some r =>
    let c := c.updTile tile (fun x => { x with attns := x.attns.map (fun a => if a.num = r.num then { a with recs := a.recs + 1 } else a) })
    let want := attHeads r.params * (if attCombine r.params then 1 else r.chans.length)
    if want ≤ r.landed + 1 then (c.setSlots st (setDel (c.slotsUsed st) r.slot)).dropReq r.num
    else c.updReq r.num (fun y => { y with landed := r.landed + 1 })

/-- ATTN_Q_COMPLETE: the first of a tile's ATTN_Qs whose last record has landed completes (R304). -/
def attnQComplete (t : Nat) (c : Chip) : Chip :=
  match (c.tile t).attns.find? (fun a => a.want == some a.recs) with
  | none => c
  | some a =>
    Chip.when ((c.tile t).st == .running)
      (fun c =>
        let c := c.updTile t (fun x => { (x.sbFree a.cmd.idx) with attns := x.attns.filter (fun b => b.num != a.num) })
        let c := match a.deadline with
          | some d => if d < c.now then
              let fresh := decide ((c.tile t).attnMissAt ≠ c.stepNo + 1)
              let c := c.deadlineMiss t a.cmd.id 1 d 0xE (a.cmd.flag 50) fresh
              if a.cmd.flag 50 then c.updTile t (fun y => { y with attnMissAt := c.stepNo + 1 }) else c
            else c
          | none => c
        c.doneSync t a.cmd.id a.cmd.opB a.cmd.doneSyncNo (a.recs * recBytes) 1) c
/-- ATTN_Q_COMPLETE. -/
def execAttnQComplete (t : TileId) (s : State) : Host.Outcome State Fault Refusal := onChip (attnQComplete t.toNat) s

/-! ### Requests from a cross strait (R111, R303) -/

/-- The last RWRITE of a request record has landed in a window slot: none where the running image plans no attention service for
the strait, a page lies outside its ATTN exports, or a coded page is sealed (R328; DEDUCED, log 103). `at_` is the tick its deadline counts from. -/
def Chip.remoteReq (c : Chip) (st : Strait) (slot at_ : Nat) : Option Chip :=
  match c.run with
  | none => none
  | some run =>
    let base := (if st = Strait.x1 then 0x10_0000 else 0) + slot * 0x8000
    let w (i : Nat) : W64 := BitVec.ofNat 64 (leNat (memRead 0 c.attWin (base + 8 * i) 8))
    let params := w 0
    let g := attHeads params
    let body := memRead 0 c.attWin (base + 64) (g * 512 + attPages params * 8)
    let es := bytesWords (attPages params) (body.drop (g * 512))
    let named (x : Export) : Bool := x.attn && (if st = Strait.x0 then x.x0 else x.x1)
    let ok := (run.budget.getD (straitNum st) (false, 0)).1 &&
      es.all (fun e => run.exports.any (fun x => named x && within (entPage e) 0x1_0000 x.base x.size) && !c.codedSealed e)
    if !ok then none
    else
      let b := (run.budget.getD (straitNum st) (false, 0)).2
      let r : AttnReq := { num := c.disp.nextNum, tile := fld (w 1) 47 36, cmdId := BitVec.ofNat 16 (fld (w 1) 63 48), cmd := none,
                           from_ := some st, slot := slot, params := params, dstSync := fld (w 1) 29 24, dst := fld (w 2) 47 0,
                           deadline := if b = 0 then none else some (at_ + b), born := 8 * at_, admitted := false, query := body,
                           qPoison := (List.range (g * 8)).filter (fun k => c.attPoison.contains ((base + 64) / 64 + k)), chans := [], recs := [],
                           landed := 0 }
      some { c with disp := { c.disp with reqs := c.disp.reqs ++ [r], nextNum := c.disp.nextNum + 1 } }

end Sys2Proof.Machine
end

