-- ==== Sys2Proof/Machine/Regs.lean ====
section
/-! DEFINITION. The registers of the control blocks as words (R85, R117, R158, R198, R235, R264, R306, R336, R376, R377, R425,
R429, R460, R486, R493, R519, R542, R571, R572), and what writing 1 to a W1C field clears. -/
namespace Sys2Proof.Machine

/-! ### TIDE_ -/

/-- TIDE_STATUS.STATE (R56). -/
def TState.code : TState → Nat
  | .locking => 0 | .free => 1 | .measuring => 2 | .aligned => 3 | .holdover => 4 | .lost => 5

/-- Modules in the ring, 1 with no plan. -/
def Chip.ringSize (c : Chip) : Nat := match c.ring.inForce with | some p => p.n | none => 1

/-- TIDE_STEP (R117). Between the launch of a run and its first boundary MODE shows it, and STEP and INDEX read 0 (DESIGN CHOICE, log 89). -/
def Chip.tideStep (c : Chip) : W64 :=
  match c.run with
  | none => 0
  | some r =>
    let i := r.step
    let n := c.ringSize
    let k := if r.reached = 0 then 0 else if i + 1 = r.steps.length then 63 else if n < 2 then 0 else i % (n - 1)
    let stepNo := if r.reached = 0 then 0 else r.first.toNat + i
    mkWord [(32, 32, stepNo), (30, 2, if r.line then 2 else 1), (24, 6, if r.line then r.brk.toNat else 0),
            (8, 16, match r.set with | some n => n.toNat | none => 0), (0, 6, k)]

/-- The context whose weight sets TIDE_WSET shows (R451). -/
def Chip.wsetOwner (c : Chip) : Ctx := c.ctx c.keeper.wsetCtx

/-- TIDE_WSET. -/
def Chip.tideWset (c : Chip) : W64 :=
  let x := c.wsetOwner
  mkWord [(33, 1, b2n x.pendSet.isSome), (32, 1, b2n x.curSet.isSome),
          (16, 16, match x.pendSet with | some p => p.1.toNat | none => 0), (0, 16, match x.curSet with | some n => n.toNat | none => 0)]

/-- A hop register. -/
def HopReg.word (h : HopReg) : W64 := mkWord [(32, 1, b2n h.valid), (0, 32, h.delay.toNat)]

/-- The TIDE_ block. -/
def Chip.tideWord (c : Chip) (o : Nat) : Option W64 :=
  let t := c.tide
  match o with
  | 0x00 => some (mkWord [(15, 1, b2n t.refOutEn), (12, 3, t.refSec.toNat), (8, 3, t.refPri.toNat), (0, 1, b2n t.master)])
  | 0x08 => some (mkWord [(23, 1, b2n t.refUnaligned), (22, 1, b2n t.launchLate), (21, 1, b2n t.alignLost), (20, 1, b2n t.alignDrift),
              (19, 1, b2n t.refLoss), (8, 3, t.refActive.toNat), (7, 1, b2n t.pllLock), (0, 3, t.st.code)])
  | 0x10 => some t.count
  | 0x18 => some (mkWord [(40, 6, t.hops.toNat), (32, 1, b2n t.path), (0, 32, t.residual.toNat)])
  | 0x20 => some t.hop.e.word
  | 0x28 => some t.hop.w.word
  | 0x30 => some t.hop.x0.word
  | 0x38 => some t.hop.x1.word
  | 0x40 => some (mkWord [(8, 6, t.position.toNat), (0, 8, t.stagger.toNat)])
  | 0x48 => some t.shift
  | 0x50 => some (mkWord [(32, 16, t.refLen.toNat), (16, 16, t.refPeriod.toNat), (1, 1, b2n t.grid), (0, 1, b2n t.align)])
  | 0x58 => some (mkWord [(0, 32, t.lead.toNat)])
  | 0x60 => some t.lateCnt
  | 0x68 => some t.urefCnt
  | 0x70 => some c.tideStep
  | 0x78 => some c.tideWset
  | 0x80 => some c.wsetOwner.wmark
  | _ => none

/-! ### KPR_ and KPR_TRAY -/

/-- KPR_STATUS.STATE. -/
def KState.code : KState → Nat
  | .booting => 0 | .running => 1 | .restarting => 2 | .halted => 3
/-- KPR_REC_STATUS.PHASE. -/
def Phase.code : Phase → Nat
  | .none => 0 | .cut => 1 | .quiesce => 2 | .drain => 3 | .decide => 4 | .restore => 5 | .held => 6

/-- Whether SLACK_ACK is driven (R479, R481): at slack, and with no active run while the pin asks for one. -/
def Chip.slackAck (c : Chip) : Bool := c.slack.atSlack || (c.run.isNone && c.slack.pinLow)

/-- The KPR_ block. -/
def Chip.kprWord (c : Chip) (o : Nat) : Option W64 :=
  let k := c.keeper
  let r := c.recov
  let b := c.boot
  match o with
  | 0x00 => some (mkWord [(32, 32, k.fwVersion.toNat), (8, 1, b2n k.wdtExpired), (0, 2, k.state.code)])
  | 0x08 => some k.restartCnt
  | 0x10 => some (mkWord [(56, 8, r.result.toNat), (48, 8, r.cls.toNat), (40, 8, r.replays.toNat), (35, 1, b2n r.ledgerFull),
              (32, 3, r.phase.code), (0, 32, r.rollback.toNat)])
  | 0x18 => some r.cnt
  | 0x20 => some (mkWord [(32, 32, r.worst.toNat), (0, 32, r.last.toNat)])
  | 0x28 => some r.commit
  | 0x30 => some (mkWord [(0, 17, r.ledger.length)])
  | 0x38 => some (mkWord [(0, 16, r.ringSlots.toNat)])
  | 0x40 => some (mkWord [(1, 1, b2n c.slackAck), (0, 1, b2n c.slack.pinLow)])
  | 0x48 => some (mkWord [(48, 16, b.set.version.toNat), (24, 8, b.lastFail.toNat), (15, 1, b2n b.identityOk), (14, 1, b2n b.fwTrial),
              (13, 1, b2n b.fwSlot), (12, 1, b2n b.setSlot), (11, 1, b2n b.fallback), (10, 1, b2n b.set.lineMode),
              (9, 1, b2n b.set.autoOrient), (6, 2, b.set.compat.toNat), (0, 3, b.stage.toNat)])
  | 0x50 => some (mkWord [(0, 32, b.bootNum.toNat)])
  | 0x58 => some k.evtRaised
  | _ => none

/-- The KPR_TRAY block. -/
def Chip.trayWord (c : Chip) (o : Nat) : Option W64 :=
  let t := c.tray
  if o = 0 then some (mkWord [(16, 16, t.valid.toNat), (4, 1, b2n t.enable), (0, 4, t.self.toNat)])
  else if o = 8 then some (mkWord [(0, 16, t.frozen.toNat)])
  else if 0x40 ≤ o ∧ o < 0xC0 ∧ o % 8 = 0 then some (mkWord [(0, 16, (tblGet 0 t.rid ((o - 0x40) / 8)).toNat)])
  else if 0x100 ≤ o ∧ o < 0x180 ∧ o % 8 = 0 then some (mkWord [(32, 32, (tblGet 0 t.bar2 ((o - 0x100) / 8)).toNat)])
  else if 0x180 ≤ o ∧ o < 0x200 ∧ o % 8 = 0 then some (mkWord [(40, 24, (tblGet 0 t.bar4 ((o - 0x180) / 8)).toNat)])
  else none

/-! ### LPC_, CHN_ and CDC_ -/

/-- The LPC_MOD block. -/
def Chip.lpcModWord (c : Chip) (o : Nat) : Option W64 :=
  match o with
  | 0 => some (mkWord [(48, 16, c.recheckSet.toNat), (0, 32, c.recheckChunk.toNat)])
  | 8 => some c.damagedCnt
  | _ => none

/-- The LPC_ block of a channel. -/
def Chip.lpcWord (c : Chip) (ch o : Nat) : Option W64 :=
  let x := c.chan ch
  match o with
  | 0x00 => some (mkWord [(24, 5, x.refRate.toNat), (11, 1, b2n x.macFail), (10, 1, b2n x.uncorr), (9, 1, b2n x.derate), (0, 3, x.st.toNat)])
  | 0x08 => some x.ce
  | 0x10 => some x.ue
  | 0x18 => some x.mac
  | 0x20 => some x.rmbHit
  | 0x28 => some x.rmbMerge
  | 0x30 => some (mkWord [(0, 34, x.scrubPos)])
  | 0x38 => some (mkWord [(0, 48, x.lastUe)])
  | _ => none

/-- The CHN_ block of a channel engine. -/
def Chip.chnWord (c : Chip) (ch o : Nat) : Option W64 :=
  let x := c.engine ch
  match o with
  | 0x00 => some (mkWord [(8, 4, x.subs.length), (4, 4, min 15 x.readAhead), (0, 1, b2n (c.lanesBusy ch))])
  | 0x08 => some x.subCnt
  | 0x10 => some x.blockCnt
  | 0x18 => some x.busyCnt
  | 0x20 => some x.poisonCnt
  | _ => none

/-- The CDC_ block of a codec unit. -/
def Chip.cdcWord (c : Chip) (u o : Nat) : Option W64 :=
  let x := c.cdc u
  match o with
  | 0x00 => some (mkWord [(9, 1, b2n x.fmtBit), (8, 1, b2n x.chkBit), (0, 1, b2n x.throttle)])
  | 0x08 => some x.enc
  | 0x10 => some x.dec
  | 0x18 => some x.check
  | 0x20 => some x.format
  | 0x28 => some x.poisonIn
  | 0x30 => some x.throttleCnt
  | 0x38 => some (mkWord [(0, 48, x.lastFail)])
  | _ => none

/-- Blocks held in VC-W buffers whose header names a version of a slot: each is a reference from its arrival (R332). -/
def Chip.wireRefs (c : Chip) (slot : Nat) (ver : Bool) : Nat :=
  let one (r : RxTxn) : Nat :=
    if txnType r.txn.bytes = 2 ∧ fld (wordAt r.txn.bytes 8) 59 58 ≠ 0 then
      ((List.range 8).filter (fun b =>
        let h := leNat (slice r.txn.bytes (32 + 4 * b) 4)
        h / 512 % 128 == slot && decide (h / 256 % 2 = b2n ver))).length
    else 0
  [c.strs.e, c.strs.w, c.strs.x0, c.strs.x1].foldl (fun n x => x.rxW.foldl (fun n r => n + one r) n) 0

/-- The references of a version of a slot: of runs, and of blocks. -/
def Chip.slotRefs (c : Chip) (slot : Nat) (ver : Bool) : Nat :=
  (if ver then (c.cslot slot).refs1 else (c.cslot slot).refs0).toNat + c.wireRefs slot ver

/-- The CDC_MOD block. -/
def Chip.cdcModWord (c : Chip) (o : Nat) : Option W64 :=
  if o < 0x400 ∧ o % 8 = 0 then
    let x := c.cslot (o / 8)
    some (mkWord [(52, 4, x.owner.getD 0), (51, 1, b2n x.owner.isSome), (50, 1, b2n x.held), (49, 1, b2n x.curValid), (48, 1, b2n x.cur),
      (34, 2, tabMode x.tab1), (32, 2, tabMode x.tab0), (16, 16, c.slotRefs (o / 8) true), (0, 16, c.slotRefs (o / 8) false)])
  else none

/-! ### STR_ -/

/-- The STR_ block of a strait. -/
def Chip.strWord (c : Chip) (s : Strait) (o : Nat) : Option W64 :=
  let x := c.str s
  let f := x.far
  match o with
  | 0x00 => some (mkWord [(48, 8, x.pver.toNat), (32, 16, x.laneOk.toNat), (29, 1, b2n x.reversed), (28, 1, b2n (c.ring.flipped && straitMain s)),
              (24, 1, b2n x.frozen), (23, 1, b2n x.isolated), (21, 1, b2n x.degraded), (20, 1, b2n x.retrained), (19, 1, b2n x.linkDown),
              (14, 2, x.width.toNat), (8, 3, x.train.code)])
  | 0x08 => some f.serial
  | 0x10 => some (mkWord [(32, 32, f.fw.toNat), (24, 8, f.pmax.toNat), (16, 8, f.pmin.toNat), (14, 2, f.phys.toNat), (12, 2, f.logical.toNat),
              (8, 4, f.ring.toNat), (2, 6, f.pos.toNat)])
  | 0x18 => some (mkWord [(48, 9, x.credit.f), (32, 8, x.credit.w), (16, 6, x.credit.c), (0, 6, x.credit.m)])
  | 0x20 => some x.fecCorr
  | 0x28 => some x.fecUncorr
  | 0x30 => some x.crcCnt
  | 0x38 => some x.retryCnt
  | 0x40 => some x.retrainCnt
  | 0x48 => some x.ferryStale
  | 0x50 => some x.discardCnt
  | 0x58 => some (mkWord [(32, 8, x.faultType.toNat), (0, 8, x.faultCause.toNat)])
  | 0x60 => some x.txFlits
  | 0x68 => some x.rxFlits
  | _ => none

/-! ### TILE_ and SPD_ -/

/-- TILE_STATUS.STATE. -/
def TileState.code : TileState → Nat
  | .idle => 0 | .running => 1 | .frozen => 2 | .excluded => 3
/-- TILE_ARRAYS.POWER. -/
def Warm.code : Warm → Nat
  | .idle => 0 | .rampUp => 1 | .warm => 2 | .rampDown => 3

/-- A bit mask of the numbers below n that pass a test. -/
def maskOf (n : Nat) (p : Nat → Bool) : Nat := (List.range n).foldl (fun acc i => if p i then acc + 2 ^ i else acc) 0

/-- One stream's register. -/
def Stream.word (s : Stream) : W64 :=
  mkWord [(32, 16, match s.active with | some x => x.cmd.id.toNat | none => 0), (8, 6, s.dst.toNat), (3, 1, b2n (s.closing || s.held.any (fun x => x.close))),
          (2, 1, b2n s.waiting.isSome), (1, 1, b2n s.active.isSome), (0, 1, b2n s.opened)]

/-- The TILE_ block of a tile. -/
def Tile.word (t : Tile) (o : Nat) : Option W64 :=
  let n := t.cnt
  match o with
  | 0x00 => some (mkWord [(20, 12, t.nextSeq.toNat), (16, 4, t.gen.toNat), (11, 1, b2n t.suspect), (10, 1, b2n t.descErr),
              (9, 1, b2n t.arrayCheck), (8, 1, b2n t.lateBit), (0, 3, t.st.code)])
  | 0x08 => some (mkWord [(24, 8, maskOf 8 (fun i => ((t.arr (i / 2)).plane (i % 2 == 1)).poison)),
              (16, 8, maskOf 8 (fun i => ((t.arr (i / 2)).plane (i % 2 == 1)).valid)), (12, 4, maskOf 4 (fun a => (t.arr a).active)),
              (8, 2, t.warm.code), (0, 3, t.gang.toNat)])
  | 0x10 => some (mkWord [(32, 16, t.faultId.toNat), (16, 8, t.faultOp.toNat), (0, 8, t.faultCause.toNat)])
  | 0x18 => some n.check
  | 0x20 => some n.checkSkip
  | 0x28 => some n.stale
  | 0x30 => some n.late
  | 0x38 => some n.sat
  | 0x40 => some n.nanp
  | 0x48 => some (mkWord [(26, 1, b2n t.dlmiss), (25, 1, b2n t.stall), (24, 1, b2n t.cohort), (16, 8, maskOf 8 (fun k => (t.stream k).opened)),
              (8, 8, maskOf 8 (fun k => (t.stream k).waiting.isSome)), (0, 8, maskOf 8 (fun k => (t.stream k).active.isSome))])
  | 0x50 => some n.dlmiss
  | 0x58 => some n.merge
  | 0x60 => some n.poison
  | 0x68 => some n.scope
  | 0x70 => some n.wait
  | 0x78 => some n.vecBusy
  | 0x80 => some (t.stream 0).word
  | 0x88 => some (t.stream 1).word
  | 0x90 => some (t.stream 2).word
  | 0x98 => some (t.stream 3).word
  | 0xA0 => some (t.stream 4).word
  | 0xA8 => some (t.stream 5).word
  | 0xB0 => some (t.stream 6).word
  | 0xB8 => some (t.stream 7).word
  | 0xC0 => some n.arrBusy
  | 0xC8 => some n.bubble
  | 0xD0 => some n.warm
  | 0xD8 => some n.dmaBusy
  | 0xE0 => some n.notIdle
  | 0xE8 => some n.stallClass
  | 0xF0 => some n.stallRes
  | _ => none

/-- One accumulate-on-write register. -/
def Aow.word (a : Aow) : W64 :=
  mkWord [(17, 15, maskOf 15 (fun i => a.held.any (fun s => s.c == i + 1))), (16, 1, 1), (8, 6, a.handle), (0, 4, a.next)]

/-- The SPD_ block of a tile. -/
def Tile.spdRegWord (t : Tile) (o : Nat) : Option W64 :=
  let n := t.spd
  if 0x100 ≤ o ∧ o < 0x500 ∧ o % 8 = 0 then
    let e := tblGet (0, 0) t.handles ((o - 0x100) / 16)
    some (if o % 16 = 0 then e.1 else e.2)
  else match o with
  | 0x00 => some (mkWord [(24, 8, n.retained.toNat), (16, 8, n.powered.toNat), (9, 1, b2n n.uncorrectable), (8, 1, b2n n.conflict), (0, 5, t.sb.length)])
  | 0x08 => some n.conflictCnt
  | 0x10 => some n.portWait
  | 0x18 => some n.ce
  | 0x20 => some n.ue
  | 0x28 => some n.aowHold
  | 0x30 => some n.sbWait
  | 0x40 => some (match t.aows[0]? with | some a => a.word | none => 0)
  | 0x48 => some (match t.aows[1]? with | some a => a.word | none => 0)
  | 0x50 => some (match t.aows[2]? with | some a => a.word | none => 0)
  | 0x58 => some (match t.aows[3]? with | some a => a.word | none => 0)
  | _ => none

/-! ### PWR_, PAN_ and JTG_ -/

/-- The PWR_ block. -/
def Chip.pwrWord (c : Chip) (o : Nat) : Option W64 :=
  let p := c.pwr
  match o with
  | 0x00 => some (mkWord [(16, 4, p.ga.toNat), (9, 1, b2n p.memHot), (8, 1, b2n p.hot), (7, 1, b2n p.inletHot), (6, 1, b2n p.overIn), (5, 1, b2n p.margin)])
  | 0x08 => some (mkWord [(0, 2, p.led.toNat)])
  | 0x10 => some (mkWord [(48, 16, p.volt.toNat), (32, 16, p.curr.toNat), (16, 16, p.power.toNat)])
  | 0x18 => some (mkWord [(48, 16, p.coreVolt.toNat), (32, 16, p.coreCurr.toNat)])
  | 0x20 => some (mkWord [(56, 8, p.tDie.toNat), (48, 8, p.tReg.toNat), (40, 8, p.tMem.toNat), (32, 8, p.tInlet.toNat)])
  | 0x28 => some (mkWord [(0, 8, p.lastOff.toNat)])
  | _ => none

/-- PAN_STATUS.STATE. -/
def PanState.code : PanState → Nat
  | .idle => 0 | .armed => 1 | .triggered => 2 | .stopped => 3

/-- The PAN_ block. -/
def Chip.panWord (c : Chip) (o : Nat) : Option W64 :=
  let p := c.pan
  match o with
  | 0x00 => some (mkWord [(12, 4, match p.owner with | some n => if n = 16 then 15 else n | none => 0), (11, 1, b2n p.owner.isSome),
              (10, 1, b2n c.visOpen), (9, 1, b2n p.trig), (8, 1, b2n p.loss), (5, 1, b2n (decide (p.spill ≠ 0))), (3, 2, p.mode.toNat),
              (0, 3, p.st.code)])
  | 0x08 => some p.writeCnt
  | 0x10 => some p.lostCnt
  | 0x18 => some p.trigIdx
  | 0x20 => some p.xoff0
  | 0x28 => some p.xoff1
  | 0x30 => some (mkWord [(32, 32, p.harvLost.toNat), (16, 16, maskOf 16 (fun n => c.harvests.any (fun e => e.1 == n && !e.2.readB))),
              (0, 16, maskOf 16 (fun n => c.harvests.any (fun e => e.1 == n)))])
  | 0x38 => some p.sealCnt
  | 0x40 => some p.sealRefused
  | _ => none

/-- The instruction in force in a TAP. -/
def Jtag.ir (j : Jtag) : Tap → Byte
  | .hub => j.irHub | .c0 => j.irC0 | .c1 => j.irC1
/-- Whether the test condition of R489 holds: an instruction other than BYPASS or IDCODE is loaded. -/
def Jtag.test (j : Jtag) : Bool := [j.irHub, j.irC0, j.irC1].any (fun i => i != 0xFF && i != 0x01)
/-- The IDCODE of a TAP (R564). -/
def idcodeOf (rev : W16) (tap : Tap) : BitVec 32 :=
  let part := match tap with | .hub => 0xD4A0 | _ => 0xD4A1
  BitVec.ofNat 32 (rev.toNat % 16 * 2 ^ 28 + part * 2 ^ 12 + Config.manufacturer.toNat * 2 + 1)

/-- The JTG_ block. -/
def jtgWord (j : Jtag) (rev : W16) (o : Nat) : Option W64 :=
  match o with
  | 0x00 => some (mkWord [(24, 8, j.irHub.toNat), (16, 8, j.irC0.toNat), (8, 8, j.irC1.toNat), (1, 1, b2n j.test), (0, 1, b2n j.pinsTaken)])
  | 0x08 => some (mkWord [(0, 32, (idcodeOf rev .hub).toNat)])
  | 0x10 => some (mkWord [(0, 32, (idcodeOf rev .c0).toNat)])
  | 0x18 => some (mkWord [(0, 32, (idcodeOf rev .c1).toNat)])
  | _ => none

/-! ### The map of R429 -/

/-- A block of control space, with its index. -/
inductive Blk where
  | tide | kpr | tray | lpcMod | cdcMod | pwr | pan | jtg
  | str (s : Strait) | lpc (ch : Nat) | chn (ch : Nat) | cdc (u : Nat) | tile (t : Nat) | spd (t : Nat)
deriving DecidableEq, Repr

/-- The block and offset of a control-space address. -/
def blkOf (a : Nat) : Option (Blk × Nat) :=
  if 0x20_0000 ≤ a ∧ a < 0x20_8000 then
    let o := a % 0x1000
    match (a - 0x20_0000) / 0x1000 with
    | 0 => some (.tide, o) | 1 => some (.kpr, o) | 2 => some (.tray, o) | 3 => some (.lpcMod, o)
    | 4 => some (.cdcMod, o) | 5 => some (.pwr, o) | 6 => some (.pan, o) | _ => some (.jtg, o)
  else if 0x20_8000 ≤ a ∧ a < 0x20_8400 then some (.str (straitOf ((a - 0x20_8000) / 0x100)), a % 0x100)
  else if 0x30_0000 ≤ a ∧ a < 0x30_4000 then some (.lpc ((a - 0x30_0000) / 0x100), a % 0x100)
  else if 0x31_0000 ≤ a ∧ a < 0x31_4000 then some (.chn ((a - 0x31_0000) / 0x100), a % 0x100)
  else if 0x32_0000 ≤ a ∧ a < 0x32_4400 then some (.cdc ((a - 0x32_0000) / 0x100), a % 0x100)
  else if 0x40_0000 ≤ a ∧ a < 0x50_0000 then some (.tile ((a - 0x40_0000) / 0x100), a % 0x100)
  else if 0x80_0000 ≤ a ∧ a < 0x100_0000 then some (.spd ((a - 0x80_0000) / 0x800), a % 0x800)
  else none

/-- A register of a block, none where the block has no register at the offset. -/
def Chip.blkWord (c : Chip) (j : Jtag) : Blk → Nat → Option W64
  | .tide, o => c.tideWord o
  | .kpr, o => c.kprWord o
  | .tray, o => c.trayWord o
  | .lpcMod, o => c.lpcModWord o
  | .cdcMod, o => c.cdcModWord o
  | .pwr, o => c.pwrWord o
  | .pan, o => c.panWord o
  | .jtg, o => jtgWord j c.boot.rev o
  | .str s, o => c.strWord s o
  | .lpc ch, o => c.lpcWord ch o
  | .chn ch, o => c.chnWord ch o
  | .cdc u, o => c.cdcWord u o
  | .tile t, o => if o = 0xE0 ∧ !c.excluded t then some (c.tide.acs - (c.tile t).cnt.notIdle) else (c.tile t).word o
  | .spd t, o => (c.tile t).spdRegWord o

/-- The register at a control-space address, none where it is unmapped (R429). -/
def Chip.ctlWord (c : Chip) (j : Jtag) (a : Nat) : Option W64 :=
  match blkOf a with
  | some b => c.blkWord j b.1 b.2
  | none => none

/-- n 64-bit words of a block from offset 0 as bytes, zero where it has no register. -/
def Chip.blkBytes (c : Chip) (j : Jtag) (b : Blk) (n : Nat) : List Byte :=
  wordsBytes ((List.range n).map (fun i => (c.blkWord j b (8 * i)).getD 0))

/-! ### Writes of W1C fields (R11) -/

/-- What writing a word to a register of a block clears: the W1C fields whose bit is 1. -/
def Chip.clear (c : Chip) (b : Blk) (o : Nat) (v : W64) : Chip :=
  let k (old : Bool) (i : Nat) : Bool := old && !bit v i
  match b, o with
  | .tide, 0x08 =>
    let t := c.tide
    { c with tide := { t with refUnaligned := k t.refUnaligned 23, launchLate := k t.launchLate 22, alignLost := k t.alignLost 21,
                              alignDrift := k t.alignDrift 20, refLoss := k t.refLoss 19 } }
  | .kpr, 0x00 => { c with keeper := { c.keeper with wdtExpired := k c.keeper.wdtExpired 8 } }
  | .lpc ch, 0x00 => c.updChan ch (fun x => { x with macFail := k x.macFail 11, uncorr := k x.uncorr 10 })
  | .cdc u, 0x00 => c.updCdc u (fun x => { x with fmtBit := k x.fmtBit 9, chkBit := k x.chkBit 8 })
  | .str s, 0x00 => c.updStr s (fun x =>
      { x with degraded := k x.degraded 21, retrained := k x.retrained 20, linkDown := k x.linkDown 19 })
  | .tile t, 0x00 => c.updTile t (fun x =>
      { x with descErr := k x.descErr 10, arrayCheck := k x.arrayCheck 9, lateBit := k x.lateBit 8 })
  | .tile t, 0x48 => c.updTile t (fun x => { x with dlmiss := k x.dlmiss 26, stall := k x.stall 25 })
  | .spd t, 0x00 => c.updTile t (fun x =>
      { x with spd := { x.spd with uncorrectable := k x.spd.uncorrectable 9, conflict := k x.spd.conflict 8 } })
  | .pan, 0x00 => { c with pan := { c.pan with trig := k c.pan.trig 9, loss := k c.pan.loss 8 } }
  | .pwr, 0x00 =>
    let p := c.pwr
    { c with pwr := { p with memHot := k p.memHot 9, hot := k p.hot 8, inletHot := k p.inletHot 7, overIn := k p.overIn 6,
                             margin := k p.margin 5 } }
  | _, _ => c

/-! ### Mailbox registers (R432) and the Keeper's view of every local address -/

/-- An MBX_ register of a page, none at an offset that has none. -/
def Chip.mbxWord (c : Chip) (n o : Nat) : Option W64 :=
  let x := c.ctx n
  match o with
  | 0x2000 => some (x.reqTail.setWidth 64)
  | 0x2008 => some (x.reqHead.setWidth 64)
  | 0x2010 => some (x.rspTail.setWidth 64)
  | 0x2018 => some (x.rspHead.setWidth 64)
  | 0x2020 => some (x.evtTail.setWidth 64)
  | 0x2028 => some (x.evtHead.setWidth 64)
  | 0x2030 => some (mkWord [(32, 32, x.evtLost.toNat), (8, 4, x.gen.toNat), (4, 1, b2n x.badDoorbell), (3, 1, b2n x.frozen), (2, 1, b2n x.opened),
      (1, 1, b2n (c.keeper.state == .running))])
  | 0x2038 => some (mkWord [(1, 1, b2n x.evtIrq), (0, 1, b2n x.rspIrq)])
  | _ => none

/-- One byte of a mailbox page as a reader of the page sees it. -/
def Chip.pageByte (c : Chip) (n o : Nat) : Byte :=
  if o < 0x2000 ∨ (0x4000 ≤ o ∧ o < 0x8000) then tblGet 0 (c.ctx n).page o
  else match c.mbxWord n (o / 8 * 8) with
    | some w => BitVec.ofNat 8 (w.toNat / 2 ^ (8 * (o % 8)))
    | none => 0

/-- One byte at any local address outside the memories as the Keeper reads it: unmapped addresses read as zero. -/
def Chip.ctlByte (c : Chip) (j : Jtag) (a : Nat) : Byte :=
  if a < 0x10_0000 then c.pageByte (a / 0x1_0000) (a % 0x1_0000)
  else if a < 0x11_0000 then c.pageByte 16 (a % 0x1_0000)
  else if 0x100_0000 ≤ a ∧ a < 0x120_0000 then tblGet 0 c.attWin (a - 0x100_0000)
  else if inPorts a then
    let o := (a - 0x6000_0000) % 0x200 / 8
    if o < 48 then BitVec.ofNat 8 (((c.tile ((a - 0x6000_0000) / 0x200)).sync o).count.toNat / 2 ^ (8 * (a % 8))) else 0
  else match c.ctlWord j (a / 8 * 8) with
    | some w => BitVec.ofNat 8 (w.toNat / 2 ^ (8 * (a % 8)))
    | none => 0

/-- Bytes of any local address as the Keeper reads them (R338, R353), with poison by 32 B piece for a memory. -/
def Chip.keeperRead (c : Chip) (j : Jtag) (a n : Nat) : Chip × List Byte × (Nat → Bool) :=
  if inSpd a ∨ inLp a then
    let r := c.fetch a n otherReader
    (r.1.takePort 2 [(a, n)], r.2.1, fun k => r.1.poisoned (a + 32 * k) 32)
  else (c, (List.range n).map (fun i => c.ctlByte j (a + i)), fun _ => false)

/-- A command behind the front end that reads the JTG_ block. -/
def onChipJ (f : Jtag → Chip → Chip) (s : State) : Host.Outcome State Fault Refusal :=
  .next (if s.live then { s with chip := f s.jtag s.chip } else s)

end Sys2Proof.Machine
end

