-- ==== Sys2Proof/Machine/Observe.lean ====
section
/-! DEFINITION. Observation (R495 to R517): MARK, DUMP and the digest records, the pan, tensor watches at their tile, and the
harvests of frozen masters. -/
namespace Sys2Proof.Machine

/-! ### MARK (R506) -/

/-- MARK's checks: reserved bits only. -/
def markChecks (_c : Chip) (_t : Nat) (q : QCmd) : Checks :=
  { reserved := decide (q.flags ≠ 0) || q.resv 2 [(63, 32)] || q.resv 3 [(63, 0)] || q.resv 4 [(63, 0)] || q.resv 5 [(63, 0)] ||
      q.resv 6 [(63, 0)] || q.resv 7 [(63, 0)],
    narrow := false, flagErr := false, own := [] }

/-- The MARK record of a selected tile, whatever KINDS holds. -/
def markRun (c : Chip) (t : Nat) (q : QCmd) : Chip :=
  let c := c.traceIssue t q
  if c.pan.live && c.pan.selTile t then
    let r := c.traceRaw 0 t (traceRec c 3 0 false q.id.toNat (fld (q.w 1) 31 16) (fld (q.w 1) 15 0) 0 t
      (BitVec.ofNat 64 (fld (q.w 2) 31 0)) (BitVec.ofNat 64 q.idx))
    r.1.panLoss r.2 0 t
  else c

/-- MARK at issue. -/
def markIssue : Issue := { checks := markChecks, hold := fun _ _ _ => .none, late := fun _ _ _ => none, run := markRun }
/-- MARK. -/
def execMark (t : TileId) (s : State) : Host.Outcome State Fault Refusal := onChip (issueRow markIssue (· == 0x58) t.toNat) s

/-! ### DUMP (R507, R508) -/

/-- LENGTH of a DUMP. -/
def QCmd.dumpLen (q : QCmd) : Nat := fld (q.w 3) 31 0
/-- KIND: 0 INPUT, 1 SEAL. -/
def QCmd.dumpKind (q : QCmd) : Nat := fld (q.w 4) 63 62
/-- CTX: the seal context. -/
def QCmd.dumpCtx (q : QCmd) : Nat := fld (q.w 4) 61 60
/-- DST.HANDLE of a SEAL. -/
def QCmd.sealH (q : QCmd) : Nat := fld (q.w 4) 46 41
/-- DST.OFF of a SEAL. -/
def QCmd.sealOff (q : QCmd) : Nat := fld (q.w 4) 40 0
/-- DONE_SYNC of a DUMP. -/
def QCmd.dumpDone (q : QCmd) : Nat := fld (q.w 5) 5 0
/-- SIGN. -/
def QCmd.sign (q : QCmd) : Bool := q.flag 48

/-- DUMP's checks, with the causes of R252. -/
def dumpChecks (c : Chip) (t : Nat) (q : QCmd) : Checks :=
  let s := c.hnd t q.srcH
  let d := c.hnd t q.sealH
  let isSeal := q.dumpKind == 1
  { reserved := decide (q.flags / 2 ≠ 0) || q.resv 2 [(63, 47)] || q.resv 3 [(63, 32)] || q.resv 4 [(59, 47)] || q.resv 5 [(63, 6)] ||
      q.resv 6 [(63, 0)] || q.resv 7 [(63, 0)],
    narrow := false, flagErr := q.sign && q.dumpKind == 0,
    own := [(decide (q.dumpLen = 0) || decide (q.dumpLen % 64 ≠ 0), 0x09),
            (syncBad q.dumpDone, 0x09),
            (!s.fits q.srcOff q.dumpLen || (isSeal && !d.fits q.sealOff 576), 0x05),
            ((s.kind != 1 && s.kind != 2) || (isSeal && d.kind != 1 && d.kind != 2), 0x06),
            (decide (q.srcOff % 64 ≠ 0) || (isSeal && decide (q.sealOff % 64 ≠ 0)), 0x0A),
            (decide (2 ≤ q.dumpKind), 0x0A)] }

/-- Scratchpad granules of a SEAL's record. -/
def Chip.recGrans (c : Chip) (t : Nat) (q : QCmd) : NatSet :=
  if q.dumpKind = 1 then (c.hnd t q.sealH).grans q.sealOff 576 else []

/-- What a DUMP waits for: its source and record under R218, and one of the 4 in flight (R507). -/
def dumpHold (c : Chip) (t : Nat) (q : QCmd) : Hold :=
  let x := c.tile t
  let gs := c.recGrans t q
  if x.sbHit ((c.hnd t q.srcH).grans q.srcOff q.dumpLen) || x.sbHit gs || (!gs.isEmpty && x.sbFull) then .scoreboard
  else if 4 ≤ x.dumps.length then .res else .none

/-- The step index that a launch offset lies in. -/
def Run.stepOf (r : Run) (off : Nat) : Nat := (r.steps.filter (fun s => decide (s ≤ off))).length - 1

/-- Replace a seal context. -/
def Tile.setSeal (t : Tile) (k : Nat) (x : SealCtx) : Tile := { t with seals := tblPut SealCtx.init t.seals k x }

/-- One more SEAL in flight. -/
def Tile.addDump (y : Tile) (d : DumpCmd) : Tile := { y with dumps := y.dumps ++ [d] }

/-- DUMP issues: the security engine reads its range (as it stands at issue, DESIGN CHOICE, log 20). An INPUT joins its context's
stream and completes; a SEAL takes the stream, empties the context, and stays in flight until its record has landed. -/
def dumpRun (c : Chip) (t : Nat) (q : QCmd) : Chip :=
  let c := c.traceIssue t q
  let rs := (c.hnd t q.srcH).ranges t q.srcOff q.dumpLen
  if rs.any (fun p => !c.reachable p.1 p.2) then c.tileViolation t 0x0E q.id q.opB (rs.headD (0, 0)).1
  else
    let r := c.fetchAll sealReader rs
    let c := r.1.takePort 2 rs
    let x := (c.tile t).seal q.dumpCtx
    if q.dumpKind = 0 then
      let c := c.updTile t (fun y => y.setSeal q.dumpCtx ⟨x.bytes ++ r.2.1, x.poison || r.2.2⟩)
      c.doneSync t q.id q.opB q.dumpDone q.dumpLen 1
    else
      let step := match c.run with | some r => r.stepOf q.launch | none => 0
      let gs := c.recGrans t q
      c.updTile t (fun y =>
        let y := if gs.isEmpty then y else y.sbTake gs q.idx
        (y.setSeal q.dumpCtx SealCtx.init).addDump ⟨q, step, x.bytes, r.2.1, x.poison || r.2.2⟩)

/-- DUMP at issue. -/
def dumpIssue : Issue := { checks := dumpChecks, hold := dumpHold, late := fun _ _ _ => none, run := dumpRun }

/-- Issue a DUMP unless its KIND is the other row's. -/
def dumpRow (other t : Nat) (c : Chip) : Chip :=
  match c.readyHead t with
  | none => c
  | some q => if q.op = 0x59 ∧ q.dumpKind = other ∧ q.poisoned = false then c else issueRow dumpIssue (· == 0x59) t c
/-- DUMP_INPUT. -/
def execDumpInput (t : TileId) (s : State) : Host.Outcome State Fault Refusal := onChip (dumpRow 1 t.toNat) s
/-- DUMP_SEAL. -/
def execDumpSeal (t : TileId) (s : State) : Host.Outcome State Fault Refusal := onChip (dumpRow 0 t.toNat) s

/-! ### Digest records (R509, R510) -/

/-- The attestation key of this boot (R531). -/
def Chip.attestKey (c : Chip) : Nat := pufKey (label "JBV-ATTEST" ++ Config.romMeasurement ++ c.boot.fwMeas ++ c.boot.setMeas)

/-- A digest record. -/
def Chip.sealRecord (c : Chip) (t : Nat) (d : DumpCmd) : List Byte :=
  let q := d.cmd
  let first := match c.run with | some r => r.first.toNat | none => 0
  let num := match c.run with | some r => r.num.toNat | none => 0
  let prog := match c.run with | some r => r.digest | none => zeros 64
  let wts := match c.run with
    | some r => (match r.set with
      | some n => (match c.wsets.find? (fun w => w.num == n && w.ctx == r.ctx) with | some w => w.weights | none => zeros 64)
      | none => zeros 64)
    | none => zeros 64
  let signed := q.sign && c.boot.identityOk && !d.poison
  let head := wordsBytes [mkWord [(56, 8, 1), (48, 8, b2n d.poison), (44, 4, q.dumpCtx), (32, 12, t), (16, 16, fld (q.w 1) 31 16), (0, 16, fld (q.w 1) 15 0)],
    BitVec.ofNat 64 d.step, BitVec.ofNat 64 q.dumpLen]
  let mid := wordsBytes [mkWord [(48, 16, num)], c.boot.serial, c.tide.count, BitVec.ofNat 64 (first + d.step), BitVec.ofNat 64 (b2n signed)]
  if d.poison then head ++ mid ++ zeros 512
  else
    let digs := slice prog 0 64 ++ slice wts 0 64 ++ sha512 d.input ++ sha512 d.result
    let body := head ++ mid ++ digs ++ sha512 (head ++ digs)
    let sig := if signed then Config.signature c.attestKey (sha512 body) c.fresh.n else zeros 132
    body ++ slice sig 0 132 ++ zeros 60

/-- The record of a tile's oldest SEAL lands: it is counted, a refused one raised and recovered from once (class 0x09 of R461), its
scoreboard entry released and DONE_SYNC advanced. -/
def sealRecordDone (t : Nat) (c : Chip) : Chip :=
  match (c.tile t).dumps with
  | [] => c
  | d :: ds =>
    let q := d.cmd
    let h := c.hnd t q.sealH
    if (c.tile t).st != .running then c
    else if (h.ranges t q.sealOff 576).any (fun p => !c.reachable p.1 p.2) then
      c.tileViolation t 0x0E q.id q.opB (h.addr t q.sealOff)
    else
      let bs := c.sealRecord t d
      let c := { c with fresh := ⟨c.fresh.n + 1⟩ }
      let c := (c.writePieces (h.pieces t q.sealOff bs (fun _ _ => false))).takePort 2 (h.ranges t q.sealOff 576)
      let c := c.updTile t (fun x => { (x.sbFree q.idx) with dumps := ds })
      let c :=
        if d.poison then
          let first := match c.run with | some r => r.first.toNat | none => 0
          let again := c.recov.refused.contains (t, q.idx)
          let c := { c with pan := { c.pan with sealRefused := c.pan.sealRefused + 1 },
                            recov := { c.recov with refused := if again then c.recov.refused else (t, q.idx) :: c.recov.refused } }
          let c := c.evTile t 0x0904 (mkWord [(48, 16, q.id.toNat), (36, 12, t), (34, 2, q.dumpCtx)]) (BitVec.ofNat 64 (first + d.step))
          if again then c else c.detect 0x09 false
        else { c with pan := { c.pan with sealCnt := c.pan.sealCnt + 1 } }
      c.doneSync t q.id q.opB q.dumpDone q.dumpLen 1
/-- SEAL_RECORD_DONE. -/
def execSealRecordDone (t : TileId) (s : State) : Host.Outcome State Fault Refusal := onChip (sealRecordDone t.toNat) s

/-! ### The pan (R498 to R503) -/

/-- Records the pan can hold. -/
def Pan.capacity (p : Pan) : Nat := if p.spill = 0 then 524288 else p.spillSize / 32

/-- A record's bytes. -/
def TRec.bytes (r : TRec) : List Byte := wordsBytes [r.w0, r.w1, r.a0, r.a1]

/-- The pan itself takes one record (R499): appended, the newest overwriting the oldest except under STOP_ON_FULL. Nothing but the pan changes:
tracing to it alone uses no path of scheduled work (R501). -/
def Pan.take (p : Pan) (now : Nat) (r : TRec) : Pan :=
  { p with recs := if p.recs.length < p.capacity then p.recs ++ [r] else p.recs.drop 1 ++ [r], total := p.total + 1, writeCnt := p.writeCnt + 1,
           stampHigh := if p.total = 0 then BitVec.ofNat 16 (now / 2 ^ 48) else p.stampHigh }

/-- The place in the spill range of the next record. -/
def Pan.spillAt (p : Pan) : Nat := p.spill.toNat + p.total % p.capacity * 32

/-- The pan drains one record to the spill range, an unscheduled write that waits for slots of its channel under R256 (R501). -/
def Chip.spillRec (c : Chip) (r : TRec) : Chip :=
  if c.pan.spill = 0 then c else c.writePieces [(c.pan.spillAt, r.bytes, false)]

/-- The drain cannot keep up (R501): as many bursts wait for slots of the channel that the next record drains to as the pan holds records. It
accepts none then, and the engines' buffers lose under R500 (DESIGN CHOICE, log 107). -/
def Chip.drainFull (c : Chip) : Bool := c.pan.spill != 0 && decide (524288 ≤ (c.chan (chanOf c.pan.spillAt)).due)

/-- Keep one record: spilled where a spill range is set, and taken by the pan. -/
def Chip.keepRec (c : Chip) (r : TRec) : Chip :=
  let c := c.spillRec r
  { c with pan := c.pan.take c.now r }

/-- Whether the trigger condition holds for a record (R498): a MARK's value, an event's code, a command id; CTILE is the record's
index unless ANY. -/
def Pan.cond (p : Pan) (r : TRec) : Option W64 :=
  let w := p.sel.getD 1 0
  let v := p.sel.getD 2 0
  let m := p.sel.getD 3 0
  let ev := fld r.w0 15 8
  let kind := fld r.w1 15 12
  let here := bit w 35 || (decide (kind < 4 ∨ kind = 8) && decide (fld r.w1 11 0 = fld w 47 36))
  let id := BitVec.ofNat 64 (fld r.w1 63 48)
  if !here then none
  else match fld w 63 60 with
    | 1 => if ev = 3 ∧ (r.a0 ^^^ v) &&& m = 0 then some r.a0 else none
    | 2 => if ev = 8 ∧ fld r.a0 15 0 = fld w 15 0 then some r.a0 else none
    | 3 => if kind < 7 ∧ (id ^^^ v) &&& m = 0 then some id else none
    | _ => none

/-- The trigger (R499): TRIGGERED and the index are set, the TRIGGER record is written and PAN_TRIGGER raised; the capture then
takes POST further records. -/
def Chip.trigger (c : Chip) (v : W64) : Chip :=
  let ix := BitVec.ofNat 64 c.pan.total
  let c := c.keepRec (traceRec c 6 0 false 0 0 0 8 0 ix v)
  let c := { c with pan := { c.pan with trig := true, trigIdx := ix, st := if c.pan.post = 0 then .stopped else .triggered,
                                        postLeft := c.pan.post } }
  c.raise 0 0x0902 0 0 ix v

/-- Accept one record: keep it, then stop when full (STOP_ON_FULL) or after POST records, or trigger. -/
def Chip.acceptRec (c : Chip) (r : TRec) : Chip :=
  let was := c.pan.st
  let c := c.keepRec r
  if was == .triggered then
    { c with pan := { c.pan with postLeft := c.pan.postLeft - 1, st := if c.pan.postLeft ≤ 1 then .stopped else .triggered } }
  else if c.pan.mode = 0 then
    if c.pan.capacity ≤ c.pan.recs.length + 1 then { c with pan := { c.pan with st := .stopped } } else c
  else if c.pan.mode = 2 then (match c.pan.cond r with | some v => c.trigger v | none => c)
  else c

/-- The LOSS record of an engine's gap (R497, R500). -/
def lossRec (c : Chip) (b : PanBuf) : TRec :=
  traceRec c 4 0 false 0 0 0 (b.key / 4096) (b.key % 4096) (BitVec.ofNat 64 b.lost) (BitVec.ofNat 64 (fld b.firstLost 63 48))

/-- Accept the next waiting record in round robin over the engines: before an engine's next record, a LOSS record for what it lost. -/
def Chip.panAccept (c : Chip) : Chip :=
  if !c.pan.live || c.drainFull then c
  else match c.pan.bufs with
    | [] => c
    | b :: bs =>
      if 0 < b.lost then
        ({ c with pan := { c.pan with bufs := { b with lost := 0 } :: bs } }).acceptRec (lossRec c b)
      else match b.recs with
        | [] => { c with pan := { c.pan with bufs := bs } }
        | r :: rs =>
          let rest := if rs.isEmpty then bs else bs ++ [{ b with recs := rs }]
          ({ c with pan := { c.pan with bufs := rest } }).acceptRec r

/-- One fabric cycle of the pan: up to two records. A capture that waits for a tide count triggers once the count has reached it.
When STOP_ON_FULL has stopped the capture, the last place takes a LOSS record for an engine that lost some. -/
def panRecord (c : Chip) : Chip :=
  let c := if c.pan.st == .armed && c.pan.mode = 2 && decide (fld (c.pan.sel.getD 1 0) 63 60 = 4) &&
      decide ((c.pan.sel.getD 2 0).toNat ≤ c.now) then c.trigger c.tide.count else c
  let live := c.pan.live
  let c := c.panAccept.panAccept
  if live && c.pan.st == .stopped && c.pan.mode = 0 then
    match c.pan.bufs.find? (fun b => decide (0 < b.lost)) with
    | some b => c.keepRec (lossRec c b)
    | none => c
  else c
/-- PAN_RECORD. -/
def execPanRecord (s : State) : Host.Outcome State Fault Refusal := onChip panRecord s

/-- STAMP_WRAP (R503): in the tick in which the 48-bit stamp wraps, a WRAP record while a capture runs, and the event. -/
def stampWrap (c : Chip) : Chip :=
  Chip.when (decide (c.now % 2 ^ 48 = 0) && decide (0 < c.now)) (fun c =>
    let high := BitVec.ofNat 64 (c.now / 2 ^ 48)
    let c := if c.pan.live then
        let q := c.traceRaw 8 0 (traceRec c 5 0 false 0 0 0 8 0 high 0)
        q.1.panLoss q.2 8 0
      else c
    c.evMod 0x0901 high 0) c
/-- STAMP_WRAP. -/
def execStampWrap (s : State) : Host.Outcome State Fault Refusal := onChip stampWrap s

/-! ### Tensor watches at the tile (R511 to R513) -/

/-- Whether nothing of the command at a stream index is still in flight at its tile. -/
def Tile.cmdDone (t : Tile) (ix : Nat) (pushes : List Push) : Bool :=
  decide (ix < t.idx) && !t.queues.any (fun q => q.any (fun m => m.cmd.idx == ix)) &&
  !(match t.vec with | some v => v.cmd.idx == ix | none => false) &&
  !t.streams.any (fun s => s.2.held.any (fun x => x.parts.any (fun p => p.idx == ix))) &&
  !t.attns.any (fun a => a.cmd.idx == ix) && !t.dumps.any (fun d => d.cmd.idx == ix) &&
  !pushes.any (fun p => p.cmd.idx == ix && !p.sent)

/-- Change the watch of a tile. -/
def Chip.updWatch (c : Chip) (t : Nat) (f : Watch → Watch) : Chip :=
  { c with watches := c.watches.map (fun w => if w.tile = t then f w else w) }

/-- The watched command has completed: the tile holds issue while the range is copied (R512). -/
def watchFire (t : Nat) (c : Chip) : Chip :=
  match c.watches.find? (fun w => w.tile = t) with
  | none => c
  | some w =>
    Chip.when (w.ready && !w.copying && c.runsOn t && (c.tile t).st == .running &&
        (c.tile t).cmdDone w.target ((c.pushes.e ++ c.pushes.w).filter (fun p => p.tile = t)))
      (fun c => (c.updWatch t (fun w => { w with ready := false, copying := true, fires := w.fires + 1 })).updTile t
        (fun x => { x with watchHold := true })) c
/-- WATCH_FIRE. -/
def execWatchFire (t : TileId) (s : State) : Host.Outcome State Fault Refusal := onChip (watchFire t.toNat) s

/-- The copy lands behind its header (its eight fields one to a word, in R512's order: DESIGN CHOICE, log 19), issue resumes and
WATCH_DONE is raised. A PCIe error leaves nothing copied, ST_BOUNDS (R435); a poisoned copy carries ST_POISONED (DEDUCED, log 21). -/
def watchCopyDone (t : Nat) (busErr : Bool) (c : Chip) : Chip :=
  match c.watches.find? (fun w => w.tile = t) with
  | none => c
  | some w =>
    Chip.when w.copying (fun c =>
      let rs := (c.hnd t w.handle).ranges t w.off w.len
      let f := c.fetchAll otherReader rs
      let r := (f.1.takePort 2 rs, f.2)
      let head := wordsBytes [BitVec.ofNat 64 t, w.layer.setWidth 64, w.oper.setWidth 64, BitVec.ofNat 64 w.step, c.tide.count,
        BitVec.ofNat 64 w.len, BitVec.ofNat 64 w.fires, BitVec.ofNat 64 (b2n r.2.2)]
      let c := if busErr then c else r.1.hostWrite w.ref.toNat (head ++ r.2.1)
      let c := (c.updWatch t (fun w => { w with copying := false })).updTile t (fun x => { x with watchHold := false })
      let st := if busErr then stBounds else if r.2.2 then stPoisoned else stOk
      c.raise w.ctx 0x0905 1 t (mkWord [(48, 16, st.toNat), (36, 12, t), (32, 4, w.fires)])
        (BitVec.ofNat 64 (if busErr then 0 else w.len))) c
/-- WATCH_COPY_DONE. -/
def execWatchCopyDone (t : TileId) (busErr : Bool) (s : State) : Host.Outcome State Fault Refusal :=
  onChip (watchCopyDone t.toNat busErr) s

/-! ### Harvests (R514 to R517) -/

/-- A harvest section: its two words, then its bytes. -/
def section_ (kind idx : Nat) (stop : Option Nat) (bs : List Byte) : List Byte :=
  wordsBytes [mkWord [(56, 8, kind), (44, 12, idx), (0, 32, bs.length)],
    match stop with | some s => BitVec.ofNat 64 s | none => BitVec.allOnes 64] ++ bs

/-- A unit's stop stamp: what it latched at its own freeze, or at the forced cut, whichever came later. -/
def Chip.lastStop (c : Chip) (own : Option Nat) : Option Nat := match own, c.recov.cutStop with
  | some a, some b => some (max a b)
  | some a, none => some a
  | none, b => b

/-- The stop stamp a unit beside the tiles has latched. -/
def Chip.stopOf (c : Chip) (kind idx : Nat) : Option Nat :=
  c.lastStop ((c.recov.stops.find? (fun e => e.1 = kind * 4096 + idx)).map (·.2))

/-- 0x01 TIME. -/
def Chip.secTime (c : Chip) : List Byte :=
  section_ 1 0 (c.stopOf 1 0) (c.blkBytes Jtag.init .tide 32 ++ c.blkBytes Jtag.init .kpr 32)

/-- A command's 64 bytes. -/
def QCmd.image (q : QCmd) : List Byte := wordsBytes q.words

/-- 0x02 TILE. -/
def Chip.secTile (c : Chip) (t : Nat) : List Byte :=
  let x := c.tile t
  let acc (a : Arr) : List Byte := a.bytes 0 8192 ++ leBytes 16 (maskOf 128 a.rowPoison)
  section_ 2 t (c.lastStop x.stop) (c.blkBytes Jtag.init (.tile t) 32 ++ c.blkBytes Jtag.init (.spd t) 256 ++ x.queue.flatMap QCmd.image ++
    x.queues.flatMap (fun q => q.flatMap (fun m => m.cmd.image)) ++
    (List.range 48).flatMap (fun o => leBytes 4 (x.sync o).count.toNat) ++
    (List.range 4).flatMap (fun a => acc (x.arr a)) ++ x.streams.flatMap (fun s => s.2.waiting.toList.flatMap (fun y => y.cmd.image)))

/-- A replay flit's header. -/
def TxFlit.head (f : TxFlit) : List Byte :=
  leBytes 8 (mkWord [(52, 12, f.seq.toNat), (37, 2, f.vc.toNat), (36, 1, b2n f.start), (35, 1, b2n f.fin), (16, 8, f.fill.toNat),
    (8, 8, f.poison.toNat), (5, 3, 1)]).toNat

/-- 0x03 STRAIT. -/
def Chip.secStr (c : Chip) (s : Strait) : List Byte :=
  let x := c.str s
  section_ 3 (straitNum s) (c.stopOf 3 (straitNum s)) (c.blkBytes Jtag.init (.str s) 32 ++ x.replay.flatMap TxFlit.head ++
    [0#2, 1, 2, 3].flatMap (fun vc => leBytes 8 ((x.rx vc).foldl (fun n r => n + r.flits) 0)) ++
    (c.pushQ s).flatMap (fun p => p.cmd.image) ++ slice x.offend 0 32)

/-- 0x04 CODEC. -/
def Chip.secCdc (c : Chip) (u : Nat) : List Byte :=
  section_ 4 u (c.stopOf 4 u) (c.blkBytes Jtag.init (.cdc u) 32 ++ c.blkBytes Jtag.init .cdcMod 128)

/-- 0x05 CHANNEL. -/
def Chip.secChan (c : Chip) (ch : Nat) : List Byte :=
  section_ 5 ch (c.stopOf 5 ch) (c.blkBytes Jtag.init (.lpc ch) 32 ++ c.blkBytes Jtag.init (.chn ch) 32 ++
    (c.engine ch).subs.flatMap (fun s => wordsBytes (BitVec.ofNat 64 s.req :: BitVec.ofNat 64 s.tokens :: s.entries)))

/-- A request's header entry. -/
def Req.head (q : Req) : List Byte :=
  wordsBytes [mkWord [(48, 16, q.opcode.toNat), (44, 4, q.gen.toNat), (32, 12, q.seq.toNat), (16, 16, q.len)], q.ref,
    mkWord [(0, 32, q.refLen.toNat)], 0, 0, 0, 0, 0]

/-- The requests of a mailbox in flight: the one read and the background ones. -/
def Chip.inFlight (c : Chip) (n : Nat) : List Req :=
  (c.ctx n).cur.toList ++ (c.keeper.bgs.filter (fun b => b.who = n)).map (fun b => b.req)

/-- 0x06 CONTEXT. -/
def Chip.secCtx (c : Chip) (n : Nat) : List Byte :=
  section_ 6 n (c.stopOf 6 n) (wordsBytes ((List.range 8).map (fun i => (c.mbxWord n (0x2000 + 8 * i)).getD 0)) ++
    (c.inFlight n).flatMap Req.head ++
    (c.regions.filter (fun r => r.ctx = n)).flatMap (fun r => wordsBytes ([r.num, r.base, r.size].map (BitVec.ofNat 64))) ++
    (c.ctx n).maps.flatMap (fun m => wordsBytes ([m.1, m.2].map (BitVec.ofNat 64))))

/-- 0x07 TRAY. -/
def Chip.secTray (c : Chip) (slot : Nat) : List Byte :=
  section_ 7 slot (c.stopOf 7 slot) (c.blkBytes Jtag.init .tray 64 ++ leBytes 8 (tblGet 0 c.tray.offend slot))

/-- The sections a harvest of a kind takes, in order. -/
def Chip.sections (c : Chip) (kind : BitVec 3) (id : Nat) : List (List Byte) :=
  match kind.toNat with
  | 0 => [c.secTime, c.secTile id]
  | 1 => [c.secTime, c.secCtx id]
  | 2 => [c.secTime, c.secStr (straitOf id), c.secCdc (64 + id)]
  | 3 => [c.secTime, c.secTray id]
  | _ => [c.secTime] ++ (List.range 4096).map c.secTile ++ [Strait.e, .w, .x0, .x1].map c.secStr ++ (List.range 68).map c.secCdc ++
      (List.range 64).map c.secChan ++ (List.range 17).map c.secCtx ++ (List.range 16).map c.secTray

/-- A harvest's bytes: a 64 B header with its six fields one to a word in R515's order (DESIGN CHOICE, log 19), then its
sections. -/
def Chip.harvestBytes (c : Chip) (kind : BitVec 3) (id cause : Nat) : List Byte :=
  let ss := c.sections kind id
  wordsBytes [c.boot.serial, kind.setWidth 64, BitVec.ofNat 64 id, c.tide.count, BitVec.ofNat 64 cause, BitVec.ofNat 64 ss.length, 0, 0] ++
    ss.flatten

/-- The slot an automatic harvest goes to (R516): a free one, else the oldest that has been read. -/
def Chip.harvestSlot (c : Chip) : Option Nat :=
  match (List.range 16).find? (fun n => !c.harvests.any (fun e => e.1 == n)) with
  | some n => some n
  | none => (c.harvests.filter (fun e => e.2.readB)).foldl (fun (b : Option (Nat × W64)) e =>
      match b with
      | some x => if e.2.at_.toNat < x.2.toNat then some (e.1, e.2.at_) else b
      | none => some (e.1, e.2.at_)) none |>.map (·.1)

/-- The Keeper takes the next harvest it was asked for: stored, or lost; HARVEST_READY either way, with slot 31 if lost. -/
def harvestStored (c : Chip) : Chip :=
  match c.harvQ with
  | [] => c
  | h :: hs =>
    Chip.when (c.keeper.state == .running) (fun c =>
      let slot := c.harvestSlot
      let id := h.id.toNat
      let c := match slot with
        | some n => { c with harvests := tblInsert c.harvests n ⟨h.kind, h.id, c.tide.count, c.harvestBytes h.kind id h.cause.toNat, false⟩ }
        | none => { c with pan := { c.pan with harvLost := c.pan.harvLost + 1 } }
      let c := { c with harvQ := hs }
      c.evMod 0x0708 (mkWord [(61, 3, h.kind.toNat), (49, 12, id), (44, 5, slot.getD 31)]) c.tide.count) c
/-- HARVEST_STORED. -/
def execHarvestStored (s : State) : Host.Outcome State Fault Refusal := onChip harvestStored s

end Sys2Proof.Machine
end

