-- ==== Sys2Proof/Machine/Channels.lean ====
section
/-! DEFINITION. The channel arbiters (R72, R118, R254 to R256, R275, R298): the bursts that queue fetches, transfers, pushes and channel
engines ask for, and the service slots that grant them. -/
namespace Sys2Proof.Machine

/-- A burst that is asked for: the request it belongs to, its granule, and whether it is a read. -/
structure Burst where
  req  : ChReq
  gran : Nat
  read : Bool
deriving DecidableEq, Repr

/-- The fetch of a tile's next command: its deadline is that command's launch mark less 16 tk (R118). -/
def Chip.fetchBurst (c : Chip) (t : Nat) : Option Burst :=
  let x := c.tile t
  let a := x.streamAt + 64 * x.fetched
  if x.st == .running && c.runsOn t && decide (x.fetched < x.streamLen) && decide (x.queue.length < 1024) && !x.fetchGot then
    some ⟨⟨some (c.mark (fld (wordAt (c.bytes a 8) 0) 31 0) - 16), 0, t, 0, .fetch t⟩, a / 64, true⟩
  else none

/-- The next burst of a transfer: of the unit that is asked for, its source's granules before its destination's; a unit from beside the
channels must be in hand, and one that a full codec unit holds waits (R330). -/
def Chip.xferBurst (c : Chip) (t k : Nat) (x : Xfer) : Option Burst :=
  let bs := c.unitBursts t x x.moved
  let src := c.srcAt t x.cmd == .chan
  let reads := if src then bs.length - (if c.dstChan t x.cmd then
    (burstsOf (c.dstWin t x.cmd) [((c.hnd t x.cmd.dstH).addr t (x.cmd.dstOff + (c.unitOf t x x.moved).2.1), (c.unitOf t x x.moved).2.2)]).length else 0) else 0
  if (c.tile t).st == .running && decide (x.readyAc ≤ c.nowAc) && decide (x.moved < x.asked) && (src || x.buf.isSome) && !c.codecHolds t x then
    (bs[x.got]?).map (fun g => ⟨⟨x.deadline, 1, t, x.activeAc, .xfer t k⟩, g, decide (x.got < reads)⟩)
  else none

/-- The next burst of the push that a strait's egress reads (R98, R255). -/
def Chip.pushBurst (c : Chip) (st : Strait) : Option Burst :=
  match c.pushReading st with
  | none => none
  | some p => ((c.pushBursts p)[p.got]?).map (fun g => ⟨⟨c.pushDdl p, 1, p.tile, 8 * c.mark p.cmd.launch, .push st p.num⟩, g, true⟩)

/-- The next burst of a channel engine, with the deadline of its request (R298). -/
def Chip.engineBurst (c : Chip) (ch : Nat) : Option Burst :=
  match c.engineReads ch with
  | none => none
  | some (x, r) => match x.entries with
    | [] => none
    | e :: _ => ((blockBursts r.params e x.block)[x.got]?).map (fun g => ⟨⟨r.deadline, 2, ch, r.born, .engine ch⟩, g, true⟩)

/-- Every burst that is asked for of a channel. -/
def Chip.chanBursts (c : Chip) (ch : Nat) : List Burst :=
  ((c.tiles.flatMap (fun e => (c.fetchBurst e.1).toList ++
      e.2.streams.flatMap (fun y => match y.2.active with | some x => (c.xferBurst e.1 y.1 x).toList | none => []))) ++
    [Strait.e, .w].flatMap (fun s => (c.pushBurst s).toList) ++ (c.engineBurst ch).toList).filter (fun b => chanOf (b.gran * 64) == ch)

/-- The requests at a channel's arbiter. -/
def Chip.chanReqs (c : Chip) (ch : Nat) : List ChReq :=
  (c.chanBursts ch).map (fun b => b.req) ++ (if 0 < (c.chan ch).due then [⟨none, 3, 0, 0, .step⟩] else [])

/-- A burst is granted: a fetch may be taken, a transfer's unit moves with its last burst, a push's source and an engine's block are read as far. -/
def Chip.serveReq (c : Chip) (ch : Nat) (who : ChWho) : Chip :=
  match who with
  | .step => c.updChan ch (fun x => { x with due := x.due - 1 })
  | .fetch t => c.updTile t (fun x => { x with fetchGot := true })
  | .xfer t k => match ((c.tile t).stream k).active with
    | some x => if x.got + 1 < (c.unitBursts t x x.moved).length then c.updXfer t k x.cmd.idx (fun y => { y with got := y.got + 1 }) else c.moveUnit t k x
    | none => c
  | .push st num => c.updPush st num (fun p => { p with got := p.got + 1 })
  | .engine ch => c.engineGot ch

/-- One service slot of a channel, of 3 ac (R305): nothing is granted in a refresh window (R72), nor before the slot; a check burst that is
owed goes first (R270), and a read that a read-merge line or a fill serves takes no slot's time (R275). -/
def channelServiceSlot (ch : Nat) (c : Chip) : Chip :=
  let x := c.chan ch
  let acs := c.tide.acs.toNat
  if c.shut ch || decide (acs < x.slotAc) then c
  else if 0 < x.owed then c.updChan ch (fun x => { x with owed := x.owed - 1, slotAc := acs + 3 })
  else
    let a := arbitrate (c.chanReqs ch) x.slots.toNat
    match a.1 with
    | none => c
    | some r =>
      let free := (c.chanBursts ch).any (fun b => b.req == r && b.read && c.noBurst b.gran)
      (c.updChan ch (fun x => { x with slots := BitVec.ofNat 4 a.2, slotAc := if free then x.slotAc else acs + 3 })).serveReq ch r.who
/-- CHANNEL_SERVICE_SLOT. -/
def execChannelServiceSlot (ch : ChanId) (s : State) : Host.Outcome State Fault Refusal := onChip (channelServiceSlot ch.toNat) s

end Sys2Proof.Machine
end

