-- ==== Sys2Proof/Machine/Formation.lean ====
section
/-! DEFINITION. The ring plan (R445, R446, R523) and the formation of a ring (R40 to R47, R50 to R52, R57, R80, R411 to R420): its
states, the discovered map, auto-orient, the tide master's decision and the measurement. -/
namespace Sys2Proof.Machine

/-! ### The plan (R446) -/

/-- VALID of a position record's FAR. -/
def farValid (f : W16) : Bool := f.getLsbD 15
/-- Far strait. -/
def farStrait (f : W16) : Nat := bitsOf f.toNat 14 13
/-- Far ring. -/
def farRing (f : W16) : Nat := bitsOf f.toNat 12 9
/-- Far position. -/
def farPos (f : W16) : Nat := bitsOf f.toNat 8 3
/-- Minimum width, coded as in R419. -/
def farWidth (f : W16) : Nat := bitsOf f.toNat 2 1

/-- A position record's fields. -/
def planPosOf (bs : List Byte) : PlanPos :=
  let w := wordAt bs 0x30
  { serial := wordAt bs 0, slot := BitVec.ofNat 4 (fld (wordAt bs 8) 3 0),
    farSerial := ⟨wordAt bs 0x10, wordAt bs 0x18, wordAt bs 0x20, wordAt bs 0x28⟩,
    far := ⟨BitVec.ofNat 16 (fld w 15 0), BitVec.ofNat 16 (fld w 31 16), BitVec.ofNat 16 (fld w 47 32), BitVec.ofNat 16 (fld w 63 48)⟩ }

/-- N of a plan's header. -/
def planN (bs : List Byte) : Nat := fld (wordAt bs 0) 27 21

/-- A plan's fields. -/
def planOf (bs : List Byte) : Plan :=
  let w := wordAt bs 0
  { planId := BitVec.ofNat 32 (fld w 63 32), ring := BitVec.ofNat 4 (fld w 31 28), n := planN bs, master := BitVec.ofNat 6 (fld w 20 15),
    refTray := bit w 14, role := BitVec.ofNat 2 (fld w 13 12), hopBudget := BitVec.ofNat 32 (fld (wordAt bs 8) 31 0),
    poss := (List.range (planN bs)).map (fun p => planPosOf (slice bs (64 + 64 * p) 64)) }

/-- The position record of a position. -/
def Plan.place (p : Plan) (i : Nat) : PlanPos := p.poss.getD i (planPosOf [])

/-- Reserved bits of a plan that are set (R12). -/
def planReserved (bs : List Byte) : Bool :=
  fld (wordAt bs 0) 11 0 != 0 || fld (wordAt bs 8) 63 32 != 0 || (List.range 6).any (fun i => wordAt bs (0x10 + 8 * i) != 0) ||
  (List.range (planN bs)).any (fun p =>
    let r := slice bs (64 + 64 * p) 64
    fld (wordAt r 8) 63 4 != 0 || wordAt r 0x38 != 0 || [0, 16, 32, 48].any (fun i => bit (wordAt r 0x30) i))

/-- Whether main strait s of position i faces position q's other main strait (R446). -/
def Plan.faces (p : Plan) (i q : Nat) (s : Strait) : Bool :=
  let f := (p.place i).far.get s
  farValid f && farStrait f == 1 - straitNum s && farRing f == p.ring.toNat && farPos f == q && (p.place i).farSerial.get s == (p.place q).serial

/-- Whether a cross strait of a position is cabled as R22 allows: to a cross strait of a module of another ring. -/
def Plan.crossOk (p : Plan) (i : Nat) (s : Strait) : Bool :=
  let f := (p.place i).far.get s
  !farValid f || (farRing f != p.ring.toNat && decide (2 ≤ farStrait f) && !p.poss.any (fun r => r.serial == (p.place i).farSerial.get s))

/-- Whether a plan keeps the rules of R22, R26 and R446 and names this module (R445). -/
def Plan.ok (p : Plan) (serial : W64) : Bool :=
  let ps := List.range p.n
  decide (1 ≤ p.n) && decide (p.n ≤ 64) && p.planId != 0 && decide (p.master.toNat < p.n) && p.role != 3 &&
  decide ((p.poss.map (fun r => r.serial)).Nodup) && (p.posOf serial).isSome && ps.all (fun i => p.crossOk i .x0 && p.crossOk i .x1) &&
  (if p.n = 1 then !farValid ((p.place 0).far.e) && !farValid ((p.place 0).far.w)
   else ps.all (fun i => p.faces i ((i + 1) % p.n) .e && p.faces ((i + 1) % p.n) i .w))

/-- Address of a copy of the plan in the NOR (R521, R523). -/
def planCopy (k : Nat) : Nat := 0x0330_0000 + k * 0x8_0000

/-- Store a plan in both copies, each followed by its SHA-512 (R523). -/
def Chip.storePlan (c : Chip) (bs : List Byte) : Chip :=
  let put (m : Memory) (k : Nat) : Memory := memWrite 0xFF (tblClear m (planCopy k) 0x1_0000) (planCopy k) (bs ++ sha512 bs)
  { c with nor := put (put c.nor 0) 1, ring := { c.ring with plan := some (planOf bs) } }

/-- The first copy whose digest matches (R523). -/
def Chip.loadPlan (c : Chip) : Option Plan :=
  (List.range 2).findSome? (fun k =>
    let n := 64 + 64 * fld (wordAt (c.norBytes (planCopy k) 8) 0) 27 21
    let bs := c.norBytes (planCopy k) n
    if c.norBytes (planCopy k + n) 64 = sha512 bs then some (planOf bs) else none)

/-! ### Discovery (R413, R414, R419) -/

/-- Whether a strait counts as up. -/
def Str.isUp (x : Str) : Bool := x.train == .up || x.train == .retrain

/-- The position record of this module under the plan in force. -/
def Chip.planRec (c : Chip) : PlanPos := match c.ring.inForce with | some p => p.place c.ring.pos.toNat | none => planPosOf []

/-- Each main strait reaches the module that the plan places beyond the other. -/
def Chip.crossed (c : Chip) : Bool :=
  let r := c.planRec
  c.strs.e.isUp && c.strs.w.isUp && r.farSerial.e != r.farSerial.w && c.strs.e.far.serial == r.farSerial.w &&
    c.strs.w.far.serial == r.farSerial.e

/-- Whether this member's names are to be exchanged (R414), by what its connectors reach. -/
def Chip.orientWant (c : Chip) : Bool :=
  let e := if c.ring.flipped then c.strs.w else c.strs.e
  let w := if c.ring.flipped then c.strs.e else c.strs.w
  let r := c.planRec
  c.boot.set.autoOrient && e.isUp && w.isUp && (match c.ring.inForce with
    | none => false
    | some p =>
      if p.n = 2 then c.ring.pos == 1 && e.far.phys == 0 && w.far.phys == 1
      else decide (2 < p.n) && e.far.serial == r.farSerial.w && w.far.serial == r.farSerial.e)

/-- The two values of the main straits exchanged. -/
def S4.swap {α : Type} (s : S4 α) : S4 α := { s with e := s.w, w := s.e }
/-- The codes of the sources E and W exchanged (R34). -/
def swapSrc (s : BitVec 3) : BitVec 3 := if s = 2 then 3 else if s = 3 then 2 else s

/-- Exchange the logical names of E and W, with all that goes by them, and send PROBE again (R414). -/
def Chip.flip (c : Chip) : Chip :=
  let t := c.tide
  let ok : BitVec 6 := (t.srcOk &&& 0b110011#6) ||| (if t.srcOk.getLsbD 3 then 0b000100#6 else 0) ||| (if t.srcOk.getLsbD 2 then 0b001000#6 else 0)
  let t := { t with hop := t.hop.swap, xch := t.xch.swap, srcOk := ok, refActive := swapSrc t.refActive }
  let c := { c with strs := c.strs.swap, tide := t, pushes := c.pushes.swap, ring := { c.ring with flipped := !c.ring.flipped } }
  let again (c : Chip) (s : Strait) : Chip := if (c.str s).isUp then c.sendProbe s else c
  again (again c .e) .w

/-- The result code of a strait (R413). Of several that apply, the first in the order below (log 25). -/
def Chip.straitResult (c : Chip) (s : Strait) : BitVec 4 :=
  let x := c.str s
  let r := c.planRec
  let f := r.far.get s
  let pid := match c.ring.inForce with | some p => p.planId | none => 0
  if !farValid f then (if x.isUp || x.versionFail then 0x5 else 0xA)
  else if x.versionFail && !x.isUp then 0x6
  else if !x.isUp then 0x1
  else if straitMain s && c.crossed then 0x3
  else if x.far.serial != r.farSerial.get s || x.far.pos.toNat != farPos f || x.far.ring.toNat != farRing f ||
      (straitMain s && x.far.planId != pid) then 0x2
  else if x.far.logical.toNat != farStrait f then 0x3
  else if farWidth f ≠ 3 ∧ farWidth f < x.width.toNat then 0x7
  else if straitMain s && c.ring.flipped then 0x4 else 0x0

/-- A discovered-map entry (R419). -/
def Chip.mapEntry (c : Chip) (s : Strait) : List Byte :=
  let x := c.str s
  let r := c.planRec
  let h := c.tide.hop.get s
  let on (n : Nat) : Nat := if x.probeSeen then n else 0
  wordsBytes [BitVec.ofNat 64 (on x.far.serial.toNat),
    mkWord [(58, 6, c.ring.pos.toNat), (56, 2, straitNum s), (54, 2, on x.far.logical.toNat), (48, 6, on x.far.pos.toNat), (44, 4, on x.far.ring.toNat),
      (40, 4, (c.ring.result.get s).toNat), (38, 2, x.width.toNat), (37, 1, b2n (c.ring.flipped && straitMain s)),
      (0, 32, if h.valid then h.delay.toNat else 0)],
    if farValid (r.far.get s) then r.farSerial.get s else 0,
    mkWord [(56, 8, on x.far.pmax.toNat), (48, 8, on x.far.pmin.toNat)]]

/-- This member's four entries, E, W, X0, X1. -/
def Chip.ownMap (c : Chip) : List Byte := c.mapEntry .e ++ c.mapEntry .w ++ c.mapEntry .x0 ++ c.mapEntry .x1

/-! ### The end of a formation (R418) -/

/-- The reports that the tide master holds, in position order. -/
def RingSt.gathered (r : RingSt) : List AgreeReport := (List.range 64).filterMap (fun p => r.agrees.find? (fun a => a.pos.toNat == p))

/-- Answer the command that formation serves: V_R, this member's entries and, at the tide master, the gathered ones at REF. -/
def Chip.formAnswer (c : Chip) (status : W16) : Chip :=
  let c := c.keeper.bgs.foldl (fun c b => match b.kind with
    | .form bus =>
      let all := c.ring.gathered.flatMap (fun a => a.entries)
      let n := if b.req.ref = 0 then 0 else min (min (all.length / 32) 255) (b.req.refLen.toNat / 32)
      let bad := bus && decide (0 < n)
      let n := if bad then 0 else n
      let c := c.hostWrite b.req.ref.toNat (all.take (32 * n))
      c.endBg b (if bad then stBounds else status) (wordsBytes [mkWord [(8, 8, n), (0, 8, c.ring.vr.toNat)]] ++ c.ownMap) 0xFFFF (32 * n)
    | _ => c) c
  { c with ring := { c.ring with agrees := [] } }

/-- Isolate a strait without an event (R416, R418). -/
def Chip.setIsolated (c : Chip) (s : Strait) (v : Bool) : Chip := c.updStr s (fun x => { x with isolated := v })

/-- FAILED: straits stay UP and are isolated, and the tide state returns to FREE (R57, R418). -/
def Chip.formFail (c : Chip) (status : W16) : Chip :=
  let iso (c : Chip) (s : Strait) : Chip := if (c.str s).isUp then c.setIsolated s true else c
  let c := [Strait.e, .w, .x0, .x1].foldl iso c
  let c := { c with ring := { c.ring with form := .failed, member := false, line := false, brk := 0 }, tide := { c.tide with st := if c.tide.pllLock then .free else c.tide.st } }
  c.formAnswer status

/-- The ring is no longer held at a slack. -/
def Chip.clearSlack (c : Chip) : Chip :=
  { c with slack := { c.slack with req := none, reqs := [], cut := none, forced := false, sched := false, inEffect := false, atSlack := false } }

/-- FORMED (R418, R459): each strait that matched is admitted (R420), the others that are up are isolated, an extra one with STRAIT_EXTRA
(R416), KPR_RINGSLOTS takes the slots of the plan's members (R486), and FORMED is raised. -/
def Chip.formed (c : Chip) : Chip :=
  let enrol (c : Chip) (s : Strait) : Chip :=
    let k := c.ring.result.get s
    if k = 0x0 ∨ k = 0x4 then c.updStr s (fun x => { x with isolated := false, admitted := some x.far })
    else if !(c.str s).isUp then c
    else if k = 0x5 then c.isolate s 0x5 else c.setIsolated s true
  let c := [Strait.e, .w, .x0, .x1].foldl enrol c
  let c := { c with ring := { c.ring with form := .formed, member := true, formedOnce := true } }
  match c.ring.inForce with
  | none => c
  | some p =>
    let slots := p.poss.foldl (fun (m : W16) r => m ||| (1#16 <<< r.slot.toNat)) 0
    let c := { c with recov := { c.recov with ringSlots := slots } }
    c.evMod 0x0705 (mkWord [(60, 4, p.ring.toNat), (54, 6, c.ring.pos.toNat), (47, 7, p.n), (46, 1, b2n c.ring.line),
      (40, 6, if c.ring.line then c.ring.brk.toNat else 0), (32, 8, c.ring.vr.toNat)]) (mkWord [(32, 32, p.planId.toNat)])

/-! ### MEASURE (R40 to R42, R46 to R52, R57, R80) -/

/-- The path toward the tide master (R41, R51, R105): whether it leads through E, and its hops. On a line it never crosses the break. -/
def tidePath (n master p : Nat) (line : Option Nat) : Bool × Nat :=
  match line with
  | some b =>
    let i := (p + n - b) % n
    let m := (master + n - b) % n
    if i < m then (true, m - i) else (false, i - m)
  | none =>
    let de := (master + n - p) % n
    let dw := (p + n - master) % n
    if de < dw then (true, de) else (false, dw)

/-- LEAD (R80) in tk, from the delays in fractions of the hops that lead east and west from the tide master: the farthest member is the
one with the greater sum. -/
def leadOf (east west : List W32) : Nat :=
  let sum (hops : List W32) : Nat := hops.foldl (fun s d => s + d.toNat + 64 * 512) 0
  cdiv (2 * max (sum east) (sum west)) 512

/-- The sources that R40 and R41 give this member, the primary and the secondary. -/
def tideSources (p : Plan) (master east : Bool) : BitVec 3 × BitVec 3 :=
  if master then (if p.refTray then (1, 0) else (0, 7)) else if east then (2, 3) else (3, 2)

/-- MEASURING begins (R56, R57): the Keeper writes position, sources and path, and the exchanges of every hop start again (R48). A module
whose PLL is not locked yet stays in LOCKING, and measures once it locks. -/
def Chip.measure (c : Chip) (v : FormVerdict) : Chip :=
  match c.ring.inForce with
  | none => c
  | some p =>
    let pos := c.ring.pos
    let path := tidePath p.n p.master.toNat pos.toNat (v.line.map (·.toNat))
    let master := pos == p.master
    let src := tideSources p master path.1
    let again (x : HopX) : HopX := { x with waiting := false, n := 0, sumOff := 0, sumDel := 0, due := c.up, freqBad := false }
    let t := c.tide
    let t := { t with keepCount := decide (t.st = TState.aligned) || decide (t.st = TState.holdover),
                      st := if t.st = TState.locking then .locking else .measuring, position := pos, master := master,
                      refPri := src.1, refSec := src.2, hops := BitVec.ofNat 6 path.2, path := path.1,
                      xch := ⟨again t.xch.e, again t.xch.w, again t.xch.x0, again t.xch.x1⟩,
                      hop := ⟨⟨false, t.hop.e.delay⟩, ⟨false, t.hop.w.delay⟩, ⟨false, t.hop.x0.delay⟩, ⟨false, t.hop.x1.delay⟩⟩ }
    let t := { t with refActive := if t.pllLock then (t.pick).getD 7 else t.refActive }
    let ver (c : Chip) (s : Strait) : Chip := c.updStr s (fun x => { x with pver := if x.isUp then v.vr else x.pver })
    let c := { c with tide := t, ring := { c.ring with form := .measure, vr := v.vr, line := v.line.isSome, brk := v.line.getD 0 } }
    ver (ver c .e) .w

/-- A decision reaches this member (R412, R418). -/
def Chip.decided (c : Chip) (v : FormVerdict) : Chip :=
  if c.ring.form ≠ .agree then c
  else if v.pass then c.measure v
  else ({ c with ring := { c.ring with vr := v.vr } }).formFail v.status

/-- Whether the 64 exchanges of a main hop are made, where the plan has one that is up. -/
def Chip.hopMeasured (c : Chip) (s : Strait) : Bool := !(farValid (c.planRec.far.get s) && (c.str s).isUp) || (c.tide.hop.get s).valid

/-- This member's full offset from the tide master (R51): the offset of the module at the far end of its path's first hop, which is the
sum of the hops beyond, and this member's offset from that module. -/
def Chip.fullOffset (c : Chip) (beyond : W64) : Int :=
  if c.tide.hops = 0 then 0 else signed 64 beyond.toNat - (c.tide.xch.get (if c.tide.path then .e else .w)).meanOff

/-- What the measurement of a main hop finds wrong (R42, R50). -/
def Chip.hopFault (c : Chip) (p : Plan) (s : Strait) : Option (BitVec 4) :=
  let h := c.tide.hop.get s
  if !(farValid (c.planRec.far.get s) && (c.str s).isUp) then none
  else if h.valid && decide (p.hopBudget.toNat < h.delay.toNat) then some 0x8
  else if (c.tide.xch.get s).freqBad then some 0x9 else none

/-- MEASURE_DONE: the checks of R42 and R50, and of R57 for a member that keeps its count; then the count is loaded and the member
reaches FORMED. What comes from the other members are the offset beyond this member's first hop, the ring's count, whether the members
between this one and the tide master have passed, without whom the formation fails too (DEDUCED, log 86), and the delays of the hops that
LEAD sums. A member in LOST that a recovery has measured again is aligned, and its ring stands as it was (R475). -/
def measureDone (beyond count : W64) (passed : Bool) (east west : List W32) (c : Chip) : Chip :=
  match c.ring.inForce with
  | none => c
  | some p =>
    Chip.when (c.ring.form == .measure && c.tide.st == .measuring && c.hopMeasured .e && c.hopMeasured .w) (fun c =>
      let e := c.hopFault p .e
      let w := c.hopFault p .w
      let offset := c.fullOffset beyond
      let res := c.ring.result
      let c := { c with ring := { c.ring with result := { res with e := e.getD res.e, w := w.getD res.w } } }
      let far := c.tide.keepCount && decide (240 < offset.natAbs)
      if e.isSome || w.isSome || far || !passed then c.formFail stPlanMismatch
      else
        let t := c.tide
        let t := { t with count := if t.keepCount then t.count else count, lead := BitVec.ofNat 32 (leadOf east west),
                          residual := if t.keepCount then BitVec.ofNat 32 (intBits 32 offset) else t.residual,
                          st := if t.refActive = 7 then .holdover else .aligned, holdSince := c.up }
        let c := { c with tide := t }
        if c.ring.kind = .again then { c with ring := { c.ring with form := .formed } } else (c.clearSlack).formed.formAnswer stOk) c
/-- MEASURE_DONE. -/
def execMeasureDone (beyond count : W64) (passed : Bool) (east west : List W32) (s : State) : Host.Outcome State Fault Refusal :=
  onChip (measureDone beyond count passed east west) s

/-! ### AGREE (R412, R413, R415, R417, R67) -/

/-- The result code in a discovered-map entry of a report. -/
def agreeResult (a : AgreeReport) (s : Strait) : Nat := fld (wordAt a.entries (32 * straitNum s + 8)) 43 40

/-- The links, by the position east of each, that a main strait of a report names as DOWN. -/
def agreeDown (n : Nat) (a : AgreeReport) : List Nat :=
  (if agreeResult a .e = 1 then [(a.pos.toNat + 1) % n] else []) ++ (if agreeResult a .w = 1 then [a.pos.toNat] else [])

/-- Whether a report's results other than DOWN pass (R413, R47). -/
def agreeFine (n : Nat) (a : AgreeReport) : Bool :=
  let main (s : Strait) : Bool := let k := agreeResult a s; k == 0 || k == 4 || k == 1 || (n == 1 && (k == 5 || k == 0xA))
  let cross (s : Strait) : Bool := let k := agreeResult a s; !(k == 2 || k == 3 || k == 7)
  main .e && main .w && cross .x0 && cross .x1

/-- The tide master's decision once it holds every member's report. -/
def verdict (n : Nat) (lineOk : Bool) (rs : List AgreeReport) : FormVerdict :=
  let vr := rs.foldl (fun v a => min v a.pmax.toNat) 255
  let down := (rs.flatMap (fun a => agreeDown n a)).eraseDups
  let stag := rs.map (fun a => a.stagger)
  if rs.any (fun a => vr < a.pmin.toNat) || rs.any (fun a => [Strait.e, .w, .x0, .x1].any (fun s => agreeResult a s == 6)) then ⟨false, stVersion, 0, none⟩
  else if !rs.all (fun a => agreeFine n a) || decide (1 < stag.eraseDups.length) then ⟨false, stPlanMismatch, 0, none⟩
  else match down with
    | [] => ⟨true, stOk, BitVec.ofNat 8 vr, none⟩
    | [b] => if lineOk && decide (2 ≤ n) then ⟨true, stOk, BitVec.ofNat 8 vr, some (BitVec.ofNat 6 b)⟩ else ⟨false, stPlanMismatch, 0, none⟩
    | _ => ⟨false, stPlanMismatch, 0, none⟩

/-- A report reaches the tide master, which decides once it holds one of every position. -/
def Chip.takeAgree (c : Chip) (a : AgreeReport) : Chip :=
  let as : List AgreeReport := c.ring.agrees.filter (fun b => b.pos != a.pos) ++ [a]
  let c := { c with ring := { c.ring with agrees := as } }
  match c.ring.inForce with
  | none => c
  | some p =>
    let all := (List.range p.n).all (fun i => c.ring.agrees.any (fun b => b.pos.toNat == i))
    if c.ring.form = Form.agree ∧ c.ring.pos = p.master ∧ all = true then
      let v := verdict p.n c.boot.set.lineMode (c.ring.gathered.filter (fun b => decide (b.pos.toNat < p.n)))
      let c := if p.n = 1 then c else c.send (.formDecision v)
      c.decided v
    else c

/-- AGREE: this member's results and version range go to the tide master. -/
def Chip.toAgree (c : Chip) : Chip :=
  let c := { c with ring := { c.ring with form := .agree } }
  let a : AgreeReport := { pos := c.ring.pos, pmin := 1, pmax := 1, stagger := c.tide.stagger, entries := c.ownMap }
  match c.ring.inForce with
  | none => c
  | some p => if p.master = c.ring.pos then c.takeAgree a else c.send (.agree a)

/-- CHECK (R413, R414): names are exchanged if they are to be, and every strait gets its result. A WRONG result waits for a further
PROBE until the 20 ms of DISCOVER are over, since the far end may yet exchange its names (DESIGN CHOICE, log 25). -/
def Chip.check (c : Chip) (final : Bool) : Chip :=
  let c := { c with ring := { c.ring with form := .check } }
  let c := if c.orientWant != c.ring.flipped then c.flip else c
  let r : S4 (BitVec 4) := ⟨c.straitResult .e, c.straitResult .w, c.straitResult .x0, c.straitResult .x1⟩
  let c := { c with ring := { c.ring with result := r } }
  if !final && [r.e, r.w, r.x0, r.x1].any (fun k => k == 2 || k == 3) then c else c.toAgree

/-- Every planned strait is UP (R418). -/
def Chip.plannedUp (c : Chip) : Bool :=
  [Strait.e, .w, .x0, .x1].all (fun s => !farValid (c.planRec.far.get s) || ((c.str s).isUp && (c.str s).probeSeen))

/-- A strait has come up, or a PROBE has arrived: DISCOVER may be over, and CHECK looks again. -/
def Chip.discoverCheck (c : Chip) : Chip :=
  if c.ring.form = .check ∨ (c.ring.form = .discover ∧ c.plannedUp = true) then c.check false else c

/-- Start a formation of the stored plan (R418): every cabled strait trains, and PROBEs are exchanged. -/
def Chip.startForm (c : Chip) (kind : FormKind) (p : Plan) (pos : Nat) : Chip :=
  let go (c : Chip) (s : Strait) : Chip :=
    let c := c.updStr s (fun x =>
      let x := { x with noRetry := false, extraRaised := false, admitted := none, versionFail := false }
      if x.train == .down && x.present then { (x.enter .detect c.up) with retryAt := none } else x)
    if (c.str s).isUp then c.sendProbe s else c
  let c := { c with ring := { c.ring with inForce := some p, pos := BitVec.ofNat 6 pos, form := .discover, kind := kind, startTk := c.up,
                                          result := S4.all 1, vr := 0 } }
  ([Strait.e, .w, .x0, .x1].foldl go c).discoverCheck

/-- DISCOVER_TIMEOUT: 20 ms after acceptance. -/
def discoverTimeout (c : Chip) : Chip :=
  Chip.when ((c.ring.form == .discover || c.ring.form == .check) && decide (c.ring.startTk + msTk 20 ≤ c.up)) (fun c => c.check true) c
/-- DISCOVER_TIMEOUT. -/
def execDiscoverTimeout (s : State) : Host.Outcome State Fault Refusal := onChip discoverTimeout s

/-- FORMATION_AGREE. -/
def execFormationAgree (r : AgreeReport) (s : State) : Host.Outcome State Fault Refusal := onChip (fun c => c.takeAgree r) s

/-- FORMATION_DECISION. -/
def execFormationDecision (d : FormVerdict) (s : State) : Host.Outcome State Fault Refusal := onChip (fun c => c.decided d) s

/-- FORMATION_TIMEOUT: 50 ms after acceptance without the tide master's decision. -/
def formationTimeout (c : Chip) : Chip :=
  Chip.when ((c.ring.form == .discover || c.ring.form == .check || c.ring.form == .agree) && decide (c.ring.startTk + msTk 50 ≤ c.up))
    (fun c => c.formFail stTimeout) c
/-- FORMATION_TIMEOUT. -/
def execFormationTimeout (s : State) : Host.Outcome State Fault Refusal := onChip formationTimeout s

end Sys2Proof.Machine
end

