-- ==== Sys2Proof/Machine/Training.lean ====
section
/-! DEFINITION. The training of a strait (R379 to R385): each event of its states. An event whose state or time is not the
one it needs changes nothing. -/
namespace Sys2Proof.Machine

/-- The strait is in a training state. -/
def Chip.inTrain (c : Chip) (st : Strait) (t : Train) : Bool := (c.str st).train == t
/-- Ticks since the strait entered its state. -/
def Chip.sinceTrain (c : Chip) (st : Strait) : Nat := c.up - (c.str st).since

/-- CABLE_PRESENT: presence is asserted, and a DOWN strait enters DETECT (R382). -/
def cablePresent (st : Strait) (c : Chip) : Chip :=
  c.updStr st (fun x =>
    let x := { x with present := true }
    if x.train == .down && !x.noRetry then x.enter .detect c.up else x)
def execCablePresent (st : Strait) (s : State) : Host.Outcome State Fault Refusal := onChip (cablePresent st) s

/-- CABLE_REMOVED: presence is deasserted, and the strait goes to DOWN at once (R382), with R385 from UP or RETRAIN. -/
def cableRemoved (st : Strait) (c : Chip) : Chip :=
  let up := c.inTrain st .up || c.inTrain st .retrain
  let c := c.updStr st (fun x => { x with present := false })
  if up then c.linkDown st 1
  else if c.inTrain st .down then c
  else (c.updStr st (fun x => x.toDown c.up)).lockLost st
def execCableRemoved (st : Strait) (s : State) : Host.Outcome State Fault Refusal := onChip (cableRemoved st) s

/-- DETECT_TIMEOUT: fewer than 4 far receivers within 1 ms (R382). -/
def detectTimeout (st : Strait) (c : Chip) : Chip :=
  Chip.when (c.inTrain st .detect && decide (msTk 1 ≤ c.sinceTrain st)) (fun c => c.updStr st (fun x => x.toDown c.up)) c
def execDetectTimeout (st : Strait) (s : State) : Host.Outcome State Fault Refusal := onChip (detectTimeout st) s

/-- DETECT_RETRY: every 10 ms while presence is asserted (R382); not after a failed version agreement. -/
def detectRetry (st : Strait) (c : Chip) : Chip :=
  let x := c.str st
  let due := match x.retryAt with | some t => decide (t ≤ c.up) | none => false
  Chip.when (x.train == .down && x.present && !x.noRetry && due)
    (fun c => c.updStr st (fun x => { (x.enter .detect c.up) with retryAt := none })) c
def execDetectRetry (st : Strait) (s : State) : Host.Outcome State Fault Refusal := onChip (detectRetry st) s

/-- DETECT_DONE: far receivers found on at least 4 lanes within 1 ms (R382). -/
def detectDone (st : Strait) (lanes : BitVec 16) (c : Chip) : Chip :=
  Chip.when (c.inTrain st .detect && decide (4 ≤ popCount lanes) && decide (c.sinceTrain st ≤ msTk 1))
    (fun c => c.updStr st (fun x => x.enter .equalise c.up)) c
def execDetectDone (st : Strait) (lanes : BitVec 16) (s : State) : Host.Outcome State Fault Refusal :=
  onChip (detectDone st lanes) s

/-- ALIGN begins: the link layer starts afresh (sequence numbers and credits from zero, DEDUCED, log 8), and CREDIT gives
the far end our buffer sizes (R407). Transactions that arrived whole keep their place in order and hold no credit. -/
def Chip.startAlign (c : Chip) (st : Strait) : Chip :=
  let clear : List RxTxn → List RxTxn := fun q => q.map (fun r => { r with flits := 0 })
  let c := c.updStr st (fun x =>
    { (x.enter .align c.up) with
        nextSeq := 0, expSeq := 0, nakOut := false, nakRuns := 0, replay := [], resend := [], farBuf := V4.all 0,
        credit := V4.all 0, credSeen := V4.all 0, freed := V4.all 0, cvcNext := 0, part := V4.all none,
        rxF := clear x.rxF, rxW := clear x.rxW, rxC := clear x.rxC, rxM := [], lastGood := c.up,
        noCreditC := none, noCreditM := none, probeSeen := false })
  c.sendM st (wordsBytes [txnHead 5 0 0 0, mkWord [(48, 9, 384), (32, 8, 128), (16, 6, 32), (0, 6, 32)], 0, 0])

/-- EQUALISE_DONE: converged within 8 ms, with the lanes that trained in both directions (R379, R381, R382). -/
def equaliseDone (st : Strait) (laneOk : BitVec 16) (c : Chip) : Chip :=
  Chip.when (c.inTrain st .equalise && decide (c.sinceTrain st ≤ msTk 8))
    (fun c => (c.updStr st (fun x => { x with laneOk := laneOk })).startAlign st) c
def execEqualiseDone (st : Strait) (laneOk : BitVec 16) (s : State) : Host.Outcome State Fault Refusal :=
  onChip (equaliseDone st laneOk) s

/-- EQUALISE_TIMEOUT: not converged in 8 ms (R382). -/
def equaliseTimeout (st : Strait) (c : Chip) : Chip :=
  Chip.when (c.inTrain st .equalise && decide (msTk 8 ≤ c.sinceTrain st)) (fun c => c.updStr st (fun x => x.toDown c.up)) c
def execEqualiseTimeout (st : Strait) (s : State) : Host.Outcome State Fault Refusal := onChip (equaliseTimeout st) s

/-- ALIGN_DONE: within 1 ms and after the far CREDIT, lane order (R380) and width (R381) are set and a PROBE is sent (R410). A
strait on which no group of 4 lanes qualifies goes to DOWN. -/
def alignDone (st : Strait) (reversed : Bool) (c : Chip) : Chip :=
  let x := c.str st
  Chip.when (x.train == .align && decide (c.sinceTrain st ≤ msTk 1) && decide (0 < x.farBuf.m))
    (fun c =>
      if widthOf x.laneOk = 3 then c.updStr st (fun x => x.toDown c.up)
      else (c.updStr st (fun x => { (x.enter .identify c.up) with width := widthOf x.laneOk, reversed := reversed })).sendProbe st) c
def execAlignDone (st : Strait) (reversed : Bool) (s : State) : Host.Outcome State Fault Refusal :=
  onChip (alignDone st reversed) s

/-- ALIGN_TIMEOUT: ALIGN not done within 1 ms (R382). -/
def alignTimeout (st : Strait) (c : Chip) : Chip :=
  Chip.when (c.inTrain st .align && decide (msTk 1 ≤ c.sinceTrain st)) (fun c => c.updStr st (fun x => x.toDown c.up)) c
def execAlignTimeout (st : Strait) (s : State) : Host.Outcome State Fault Refusal := onChip (alignTimeout st) s

/-- IDENTIFY_TIMEOUT: no far PROBE within 1 ms (R382). -/
def identifyTimeout (st : Strait) (c : Chip) : Chip :=
  Chip.when (c.inTrain st .identify && !(c.str st).probeSeen && decide (msTk 1 ≤ c.sinceTrain st))
    (fun c => (c.updStr st (fun x => x.toDown c.up)).lockLost st) c
def execIdentifyTimeout (st : Strait) (s : State) : Host.Outcome State Fault Refusal := onChip (identifyTimeout st) s

/-- FEC_LOCK_LOSS: an active lane loses codeword lock: a strait in UP enters RETRAIN (R383), and its receiver holds no lock (R35). -/
def fecLockLoss (st : Strait) (c : Chip) : Chip := Chip.when (c.inTrain st .up) (fun c => (c.enterRetrain st).lockLost st) c
def execFecLockLoss (st : Strait) (s : State) : Host.Outcome State Fault Refusal := onChip (fecLockLoss st) s

/-- Ticks of 1,024 flit times at a width, rounded up (R378, R383): 256 B at 448 GB/s is 0.5714 ns at 16 lanes. -/
def silenceTk (w : BitVec 2) : Nat := cdiv (1024 * 256 * 1175 * (if w = 0 then 1 else if w = 1 then 2 else 4)) (448 * 10000)

/-- CRC_SILENCE_TIMEOUT: no flit with a good CRC for 1,024 flit times (R383). -/
def crcSilenceTimeout (st : Strait) (c : Chip) : Chip :=
  Chip.when (c.inTrain st .up && decide (silenceTk (c.str st).width ≤ c.up - (c.str st).lastGood)) (fun c => c.enterRetrain st) c
def execCrcSilenceTimeout (st : Strait) (s : State) : Host.Outcome State Fault Refusal := onChip (crcSilenceTimeout st) s

/-- The time RETRAIN has (R382): 150 µs. -/
def retrainTk : Nat := 17625

/-- RETRAIN_DONE: within 150 µs the strait is UP again, never wider than before (R384): a narrower width sets DEGRADED and
raises LINK_DEGRADED; every unacknowledged flit is sent again, and a PROBE (R410). -/
def retrainDone (st : Strait) (laneOk : BitVec 16) (c : Chip) : Chip :=
  let x := c.str st
  Chip.when (x.train == .retrain && decide (c.sinceTrain st ≤ retrainTk) && decide (widthOf laneOk ≠ 3))
    (fun c =>
      let w := if x.width.toNat ≤ (widthOf laneOk).toNat then widthOf laneOk else x.width
      let c := c.setStr st { (x.enter .up c.up) with laneOk := laneOk, width := w, resend := x.replay, lastGood := c.up,
                                                      degraded := x.degraded || decide (w ≠ x.width) }
      let c := if w = x.width then c
        else c.evStr st 0x0602 (mkWord [(32, 16, laneOk.toNat), (14, 2, w.toNat)]) 0
      c.sendProbe st) c
def execRetrainDone (st : Strait) (laneOk : BitVec 16) (s : State) : Host.Outcome State Fault Refusal :=
  onChip (retrainDone st laneOk) s

/-- RETRAIN_TIMEOUT: not UP within 150 µs (R382, R385). -/
def retrainTimeout (st : Strait) (c : Chip) : Chip :=
  Chip.when (c.inTrain st .retrain && decide (retrainTk ≤ c.sinceTrain st)) (fun c => c.linkDown st 2) c
def execRetrainTimeout (st : Strait) (s : State) : Host.Outcome State Fault Refusal := onChip (retrainTimeout st) s

end Sys2Proof.Machine
end

