-- ==== Sys2Proof/Machine/Transactions.lean ====
section
/-! DEFINITION. What arrives on a strait (R97 to R103, R110, R111, R326, R352, R353, R383, R386 to R410, R416, R420, R421): flits, then
each type of transaction, taken from its receive buffer. -/
namespace Sys2Proof.Machine

/-! ### Flits (R386 to R391, R396, R397) -/

/-- A transaction was acknowledged by the link to its last flit: the outbound ledger (R469). -/
def Chip.linkAcked (c : Chip) (st : Strait) (f : TxFlit) : Chip :=
  if straitMain st || !f.fin then c
  else match f.tag with
    | .signal t i => c.ledgerAdd t i
    | .dmaLast t i => c.ledgerAdd t i
    | _ => c

/-- Take ACK: every kept flit up to the one it names is over. -/
def Chip.takeAck (c : Chip) (st : Strait) (ack : BitVec 12) : Chip :=
  let x := c.str st
  match x.replay.findIdx? (fun f => f.seq = ack) with
  | none => c
  | some k =>
    let done := x.replay.take (k + 1)
    let c := c.setStr st { x with replay := x.replay.drop (k + 1), resend := x.resend.filter (fun f => !done.any (fun g => g.seq == f.seq)) }
    done.foldl (fun c f => c.linkAcked st f) c

/-- Take NAK: unless a repeat is under way, every flit not acknowledged is sent again, ahead of new ones. -/
def Str.takeNak (x : Str) (nak : Bool) : Str :=
  if nak && x.resend.isEmpty && !x.replay.isEmpty then { x with resend := x.replay, retryCnt := x.retryCnt + 1 } else x

/-- Take CRED for CVC: the credits returned since it was last seen. -/
def Str.takeCred (x : Str) (vc : BitVec 2) (n : BitVec 9) (now : Nat) : Str :=
  let add := (n - x.credSeen.get vc).toNat
  ({ x with credit := x.credit.set vc (x.credit.get vc + add), credSeen := x.credSeen.set vc n }).noteCredits now

/-- A data flit is not accepted: NAK is set until the expected one is; the fourth NAK of one flit in a row fails the strait. -/
def Chip.badFlit (c : Chip) (st : Strait) (again : Bool) : Chip :=
  let x := c.str st
  let first := !x.nakOut
  let runs := if first || again then x.nakRuns + 1 else x.nakRuns
  let c := c.setStr st { x with nakOut := true, nakRuns := runs, crcCnt := if first then x.crcCnt + 1 else x.crcCnt }
  if 4 ≤ runs ∧ x.train = .up then c.enterRetrain st else c

/-- Flits held in a receive buffer. -/
def Str.rxFill (x : Str) (vc : BitVec 2) : Nat :=
  (x.rx vc).foldl (fun n r => n + r.flits) 0 + (match x.part.get vc with | some r => r.flits | none => 0)

/-- Whether an arriving transaction is discarded whole, and whether that is counted (R416, R421, R473). -/
def Chip.discards (c : Chip) (st : Strait) (ty : Nat) (vc : BitVec 2) : Option Bool :=
  let x := c.str st
  if x.isolated && ty != 5 && ty != 6 && ty != 7 then some true
  else if x.frozen && vc != 3 then some true
  else if straitMain st && vc != 3 && ty != 3 && (c.recov.phase == .drain || c.recov.phase == .decide || c.recov.phase == .restore) then some false
  else none

/-- An acknowledgement of a remote transfer has come, and is expected no more (R125). -/
def Chip.ackCame (c : Chip) (st : Strait) (t : Nat) (id : W16) : Chip :=
  { c with acks := c.acks.filter (fun a => !(a.strait == straitNum st && a.tile == t && a.id == id)) }

/-- What a discarded transaction would have completed: an acknowledgement, or the last record of a request (R125, R303). -/
def Chip.lostCompletion (c : Chip) (st : Strait) (bs : List Byte) : Chip :=
  let w1 := wordAt bs 8
  let w2 := wordAt bs 16
  if txnType bs = 4 ∧ txnFlags bs % 4 = 2 then c.ackCame st (fld w1 47 36) (BitVec.ofNat 16 (fld w1 63 48))
  else if txnType bs = 2 ∧ txnFlags bs % 2 = 1 ∧ straitMain st = false then c.recordBack st (fld w2 29 18) (BitVec.ofNat 16 (fld w2 63 48)) (fld w1 47 0)
  else c

/-- A transaction has arrived whole: it is discarded, found malformed in its general part (R400), or put in its buffer. -/
def Chip.arrived (c : Chip) (st : Strait) (vc : BitVec 2) (r : RxTxn) : Chip :=
  let ty := txnType r.txn.bytes
  let cost := if ty = 5 then 0 else r.flits
  match c.discards st ty vc with
  | some count =>
    (c.updStr st (fun x => { (x.free vc cost) with discardCnt := if count then x.discardCnt + 1 else x.discardCnt })).lostCompletion st r.txn.bytes
  | none =>
    if txnHeadOk (c.str st).pver.toNat vc r then c.updStr st (fun x => x.setRx vc (x.rx vc ++ [r]))
    else (c.updStr st (fun x => x.free vc cost)).freezeBy st 0x02 r.txn.bytes 0

/-- The poison pieces of a flit's part of a transaction, whose earlier bytes number `had`. -/
def flitPieces (had : Nat) (poison : Byte) : NatSet :=
  let lo := if had = 0 then 0 else (had - 32) / 32
  ((List.range 8).filter (fun k => poison.getLsbD k)).map (· + lo)

/-- Deliver an accepted flit to its VC. A transaction that overruns the buffer is discarded and the strait frozen, cause 0x03. -/
def Chip.deliverFlit (c : Chip) (st : Strait) (vc : BitVec 2) (start fin : Bool) (data : List Byte) (poison : Byte) : Chip :=
  let x := c.str st
  let old := x.part.get vc
  let r : RxTxn := match start, old with
    | false, some p => { p with txn := ⟨p.txn.bytes ++ data, (flitPieces p.txn.bytes.length poison).foldl setAdd p.txn.poison⟩, flits := p.flits + 1 }
    | _, _ => { txn := ⟨data, flitPieces 0 poison⟩, flits := 1, good := start && old.isNone, atTk := c.now, held := false, ready := false,
                stalled := false }
  let r := { r with atTk := c.now, good := r.good && (fin || data.length == 240) }
  let noRoom := decide (vcSize vc ≤ x.rxFill vc) && !(start && txnType data == 5)
  if noRoom then
    (c.updStr st (fun x => ({ x with part := x.part.set vc none }).free vc r.flits)).freezeBy st 0x03 r.txn.bytes 0
  else if fin then (c.setStr st { x with part := x.part.set vc none }).arrived st vc r
  else c.setStr st { x with part := x.part.set vc (some r) }

/-- A data flit with a good CRC: the expected one is delivered, one already accepted is passed over, any other is not accepted. -/
def dataFlit (st : Strait) (bytes : List Byte) (uncorrectable : Bool) (c : Chip) : Chip :=
  let h := wordAt bytes 0
  let seq := BitVec.ofNat 12 (fld h 63 52)
  let want := (c.str st).expSeq
  if seq = want ∧ uncorrectable = false then
    let c := c.updStr st (fun x => { x with expSeq := want + 1, nakOut := false, nakRuns := 0, rxFlits := x.rxFlits + 1 })
    c.deliverFlit st (BitVec.ofNat 2 (fld h 38 37)) (bit h 36) (bit h 35) (slice bytes 8 (fld h 23 16)) (BitVec.ofNat 8 (fld h 15 8))
  else if (want - seq).toNat < 2048 ∧ seq ≠ want then c
  else c.badFlit st (seq == want)

/-- FLIT_RECEIVE: 256 bytes off the wire, the symbols the FEC corrected, and whether an uncorrectable codeword overlaps them. -/
def flitReceive (st : Strait) (bytes : List Byte) (corrected : Nat) (uncorrectable : Bool) (c : Chip) : Chip :=
  let x := c.str st
  if x.train ≠ .align ∧ x.train ≠ .identify ∧ x.train ≠ .up then c
  else
    let c := c.setStr st { x with fecCorr := addN x.fecCorr corrected, fecUncorr := addN x.fecUncorr (b2n uncorrectable) }
    let body := slice bytes 0 248
    let h := wordAt bytes 0
    if crc64 body ≠ leNat (slice bytes 248 8) then c.badFlit st true
    else
      let c := c.updStr st (fun x => { x with lastGood := c.up })
      let c := c.takeAck st (BitVec.ofNat 12 (fld h 51 40))
      let c := c.updStr st (fun x => (x.takeNak (bit h 39)).takeCred (BitVec.ofNat 2 (fld h 34 33)) (BitVec.ofNat 9 (fld h 32 24)) c.up)
      if fld h 7 5 ≠ 1 then c else dataFlit st bytes uncorrectable c
/-- FLIT_RECEIVE. -/
def execFlitReceive (st : Strait) (bytes : List Byte) (corrected : Nat) (uncorrectable : Bool) (s : State) :
    Host.Outcome State Fault Refusal := onChip (flitReceive st bytes corrected uncorrectable) s

/-- CREDIT_STALL_TIMEOUT (R398): no VC-C or VC-M credit for 1 ms. -/
def creditStallTimeout (st : Strait) (c : Chip) : Chip :=
  let x := c.str st
  let due (o : Option Nat) : Option Nat := match o with | some t => if t + msTk 1 ≤ c.up then some t else none | none => none
  match due x.noCreditC, due x.noCreditM with
  | none, none => c
  | a, b =>
    if x.frozen then c
    else (c.evStr st 0x0204 (mkWord [(40, 8, 7)]) (BitVec.ofNat 64 (a.getD (b.getD 0)))).freezeStr st 0x06 0 0
/-- CREDIT_STALL_TIMEOUT. -/
def execCreditStallTimeout (st : Strait) (s : State) : Host.Outcome State Fault Refusal := onChip (creditStallTimeout st) s

/-! ### Exports (R352) -/

/-- Whether an export names a strait. -/
def Export.names (x : Export) : Strait → Bool
  | .e => x.e | .w => x.w | .x0 => x.x0 | .x1 => x.x1

/-- Whether one WRITE entry that names the source holds the range, its accumulate attribute matching. -/
def Run.mayWrite (r : Run) (src : Export → Bool) (accum : Bool) (a n : Nat) : Bool :=
  r.exports.any (fun x => x.write && src x && (x.accum == accum) && within a n x.base x.size)

/-- Whether an update of an object may arrive from a source. -/
def Chip.maySync (c : Chip) (src : Export → Bool) (t o : Nat) (u : SyncUpd) : Bool :=
  match c.run with
  | none => false
  | some r => c.runsOn t && decide (o < 48) && r.exports.any (fun x => x.write && src x && within (portAddr t o) 8 x.base x.size) &&
      (syncNext ((c.tile t).sync o).mode ((c.tile t).sync o).count u).isSome

/-- The scope of a strait's path (R362). -/
def straitScope (st : Strait) : BitVec 3 := if straitMain st then 3 else 4

/-! ### Landing data -/

/-- The poison of pieces of arriving data: bytes i to i + n − 1. -/
def piecesBad (ps : NatSet) (i n : Nat) : Bool := ps.any (fun k => overlap (32 * k) 32 i n)

/-- Whether raw data for a range meets a channel window other than in whole groups of one (R326). -/
def Chip.partGroup (c : Chip) (a n : Nat) : Bool :=
  match c.run with
  | none => false
  | some r => r.meetsWin a n && (match r.chanWin a with | some w => !codedOk w a n | none => true)

/-! ### FERRY (R97, R99, R102, R103) -/

/-- The step tag of a run's reservation for a step index. -/
def Run.tag (r : Run) (ix : Nat) : W32 := BitVec.ofNat 32 (r.first.toNat + ix)
/-- Whether tag a is older than tag b, in the ±2³¹ window. -/
def tagOlder (a b : W32) : Bool := decide (2 ^ 31 ≤ (a - b).toNat)
/-- Whether tag a is newer than tag b. -/
def tagNewer (a b : W32) : Bool := decide (0 < (a - b).toNat) && decide ((a - b).toNat < 2 ^ 31)
/-- The reservation numbers of a region not yet released, and those released. -/
def Berth.open_ (b : Berth) : List Nat := (List.range b.count).filter (fun j => decide (b.cur ≤ j) && b.st != .released)
def Berth.shut (b : Berth) : List Nat := (List.range b.count).filter (fun j => decide (j < b.cur) || b.st == .released)
/-- The step index of a reservation of a region. -/
def Berth.ixOf (b : Berth) (j : Nat) : Nat := b.first + j * b.stride

/-- What R99 makes of a ferry. -/
inductive FerryIs where
  | malformed | unplanned | stale
  | held (region : Nat)
  | write (region : Nat)
deriving DecidableEq, Repr

/-- The rows of R99, in order. -/
def Chip.judgeFerry (c : Chip) (st : Strait) (r : RxTxn) : FerryIs :=
  let w1 := wordAt r.txn.bytes 8
  let west := decide (txnFlags r.txn.bytes % 2 = 1)
  let tag := BitVec.ofNat 32 (fld w1 63 32)
  let ix := fld w1 15 4
  if !straitMain st then .unplanned
  else if (st == .e) != west then .malformed
  else match c.run with
    | none => .unplanned
    | some run =>
      let bs := run.berths.zipIdx.filter (fun b => b.1.west == west && !b.1.own)
      let opn := bs.flatMap (fun b => b.1.open_.map (fun j => run.tag (b.1.ixOf j)))
      let shut := bs.flatMap (fun b => b.1.shut.map (fun j => run.tag (b.1.ixOf j)))
      let stale := if opn.isEmpty then !shut.all (fun t => tagNewer tag t) else opn.all (fun t => tagOlder tag t)
      if run.set ≠ some (BitVec.ofNat 16 (fld w1 31 16)) then .unplanned
      else if stale then .stale
      else match bs.find? (fun b => b.1.open_.any (fun j => run.tag (b.1.ixOf j) == tag)) with
        | none => .unplanned
        | some b =>
          if b.1.st ≠ .live ∨ run.tag b.1.tagIx ≠ tag then .held b.2
          else
            let off := ix * b.1.flen * 64
            if b.1.got.contains ix || decide (b.1.size ≤ off) || txnLen r.txn.bytes != min (b.1.flen * 64) (b.1.size - off) ||
              c.partGroup (b.1.base + off) (txnLen r.txn.bytes) then .malformed
            else .write b.2

/-- Change the head of a receive buffer. -/
def Str.markHead (x : Str) (vc : BitVec 2) (f : RxTxn → RxTxn) : Str :=
  match x.rx vc with
  | [] => x
  | r :: rest => x.setRx vc (f r :: rest)

/-- FERRY: the oldest ferry is judged; a held one is judged again when it is looked at again. -/
def ferry (st : Strait) (c : Chip) : Chip :=
  c.onRx st 0 1 (fun _ => true) (fun c r =>
    if r.ready then c
    else match c.judgeFerry st r with
      | .malformed => (c.popRx st 0).freezeBy st 0x02 r.txn.bytes 0
      | .unplanned => (c.popRx st 0).freezeBy st 0x01 r.txn.bytes 0
      | .stale => (c.popRx st 0).updStr st (fun x => { x with ferryStale := x.ferryStale + 1 })
      | .held _ => c.updStr st (fun x => x.markHead 0 (fun r => { r with held := true }))
      | .write _ => c.updStr st (fun x => x.markHead 0 (fun r => { r with held := false, ready := true })))
/-- FERRY. -/
def execFerry (st : Strait) (s : State) : Host.Outcome State Fault Refusal := onChip (ferry st) s

/-- FERRY_WRITTEN: the judged ferry's bytes land in its berth with their poison, and then its count is added (R97), once no refresh window
holds the berth's channels (R72). A berth in a group that is not powered is a violation (R234); a count that its object does not take is
unplanned traffic (R355). -/
def ferryWritten (st : Strait) (c : Chip) : Chip :=
  c.onRx st 0 1 (fun _ => true) (fun c r =>
    if !r.ready then c
    else match c.judgeFerry st r, c.run with
      | .write k, some run => match run.berths[k]? with
        | none => c
        | some b =>
          let ix := fld (wordAt r.txn.bytes 8) 15 4
          let w2 := wordAt r.txn.bytes 16
          let data := r.txn.bytes.drop 32
          let a := b.base + ix * b.flen * 64
          if c.shutRange a data.length then c
          else if !c.reachable a data.length then (c.popRx st 0).freezeBy st 0x01 r.txn.bytes a
          else
          let c := c.landRaw otherReader a data (piecesBad r.txn.poison)
          let c := (c.updBerth k (fun b => { b with got := setAdd b.got ix })).popRx st 0
          let c := c.traceCmd 6 (straitNum st) 2 0 0 0 0 (BitVec.ofNat 64 data.length) 0
          if fld w2 17 12 = 63 then c
          else match (if c.runsOn (fld w2 29 18) then c.syncApply (rankStrait st) (fld w2 29 18) (fld w2 17 12) (.count data.length 1) 3 3 else none) with
            | some c => c
            | none => c.freezeBy st 0x01 r.txn.bytes (portAddr (fld w2 29 18) (fld w2 17 12))
      | _, _ => c)
/-- FERRY_WRITTEN. -/
def execFerryWritten (st : Strait) (s : State) : Host.Outcome State Fault Refusal := onChip (ferryWritten st) s

/-- The transfers of tiles whose registered reads keep a region's reservation open: the tile and the command. A FERRY_PUSH's read is the
egress's and no tile's, and freezes none (DESIGN CHOICE, log 91). -/
def Chip.openReads (c : Chip) (b : Berth) : List (Nat × QCmd) :=
  (b.reads.filter (fun k => decide (k < 2 ^ 44))).flatMap (fun k =>
    let t := k / 2 ^ 32
    (c.tile t).streams.flatMap (fun s => (s.2.held.filter (fun x => x.parts.any (fun p => p.idx == k % 2 ^ 32))).map (fun x => (t, x.cmd))))

/-- FERRY_HOLD_STALL (R103): a held ferry reaches the limit counted from the start of the step of its tag. -/
def ferryHoldStall (st : Strait) (limit : Chip → Nat → Nat) (c : Chip) : Chip :=
  match (c.str st).rxF, c.run with
  | r :: _, some run =>
    match c.judgeFerry st r with
    | .held k =>
      let ix := (BitVec.ofNat 32 (fld (wordAt r.txn.bytes 8) 63 32) - run.first.setWidth 32).toNat
      let from_ := c.mark (run.steps.getD ix run.endOff)
      if r.stalled || !r.held || decide (c.now < limit c from_) then c
      else
        let c := c.updStr st (fun x => x.markHead 0 (fun r => { r with stalled := true }))
        let c := c.evStr st 0x0204 (mkWord [(40, 8, 6)]) (BitVec.ofNat 64 from_)
        match run.berths[k]? with
        | some b => (c.openReads b).foldl (fun c e => c.freezeTile e.1 0x0C e.2.id e.2.opB false) c
        | none => c
    | _ => c
  | _, _ => c

/-! ### RWRITE (R110, R111, R326, R352, R402, R403, R431) -/

/-- Whether a cross-strait arrival waits for a run (R111). -/
def Chip.waitsForRun (c : Chip) (st : Strait) : Bool := !straitMain st && c.run.isNone

/-- The raw bytes an RWRITE carries, decoded if it is coded, and which bytes are poisoned. -/
def Chip.rwriteRaw (c : Chip) (st : Strait) (r : RxTxn) : Chip × List Byte × (Nat → Nat → Bool) :=
  let bs := r.txn.bytes
  let data := bs.drop 32
  let mode := fld (wordAt bs 8) 59 58
  let a := fld (wordAt bs 8) 47 0
  if mode = 0 then (c, data, piecesBad r.txn.poison)
  else
    let f8 := match c.run with
      | some run => (match run.chanWin a with | some w => w.f8 | none => (match run.straitWin st a with | some w => w.f8 | none => false))
      | none => false
    let g := c.decodeGroup (64 + straitNum st) a mode f8 data (fun g => piecesBad r.txn.poison (64 * g) 64) true
    (g.1, g.2.1, fun i n => (List.range 8).any (fun b => g.2.2.getD b false && overlap (512 * b) 512 i n))

/-- What follows a LAST RWRITE: its count, its acknowledgement. -/
def Chip.rwriteLast (c : Chip) (st : Strait) (bs : List Byte) : Chip :=
  let w2 := wordAt bs 16
  let w3 := wordAt bs 24
  let t := fld w2 29 18
  let o := fld w2 17 12
  let c := if o = 63 then c
    else (c.syncApply (rankStrait st) t o (.count (fld w3 31 0) (fld w3 63 48)) (straitScope st) (straitScope st)).getD c
  if txnFlags bs / 2 % 2 = 1 then c.sendSignal st 2 (fld w2 63 48) (fld w2 47 36) 0 0 0 .plain else c

/-- An RWRITE of a request record (R431): it lands in the attention window, and LAST starts the request. -/
def Chip.windowWrite (c : Chip) (st : Strait) (r : RxTxn) : Chip :=
  let bs := r.txn.bytes
  let a := fld (wordAt bs 8) 47 0
  let off := a - 0x0100_0000
  let data := bs.drop 32
  let mine := decide (0x0100_0000 ≤ a) && decide (off / 0x10_0000 = if st = Strait.x1 then 1 else 0) && decide (st = Strait.x0 ∨ st = Strait.x1)
  if !mine then (c.popRx st 1).freezeBy st 0x01 bs a
  else
    let pz (g : Nat) : Bool := piecesBad r.txn.poison (max (g * 64) off - off) (min (g * 64 + 64) (off + data.length) - max (g * 64) off)
    let marks := (unitsOf 64 off data.length).foldl (fun s g => if pz g then setAdd s g else if within (g * 64) 64 off data.length then setDel s g else s)
      c.attPoison
    let c := { c with attWin := memWrite 0 c.attWin off data, attPoison := marks }
    let c := c.popRx st 1
    if txnFlags bs % 2 = 0 then c
    else match c.remoteReq st (off % 0x10_0000 / 0x8000) r.atTk with
      | some c => c
      | none => c.freezeBy st 0x01 bs a

/-- A judged RWRITE is written or accumulated, and then its LAST is traced, counted and acknowledged. -/
def Chip.rwriteLand (c : Chip) (st : Strait) (r : RxTxn) : Chip :=
  let bs := r.txn.bytes
  let w1 := wordAt bs 8
  let w2 := wordAt bs 16
  let w3 := wordAt bs 24
  let fl := txnFlags bs
  let last := decide (fl % 2 = 1)
  let a := fld w1 47 0
  let t := fld w2 29 18
  let raw := c.rwriteRaw st r
  let c := raw.1.popRx st 1
  let debt : AowDebt := { strait := st, tile := t, sync := fld w2 17 12, bytes := fld w3 31 0, pkts := fld w3 63 48,
                          ack := decide (fl / 2 % 2 = 1), srcTile := fld w2 47 36, cmdId := BitVec.ofNat 16 (fld w2 63 48) }
  let put : Option (Chip × Bool) :=
    if 4 ≤ fl then c.aowArrive (a, raw.2.1.length) a raw.2.1 raw.2.2 (fld w1 63 60) (2 ^ 48 * (1 + straitNum st) + fld w2 63 36) (if last then fld w3 31 0 else 0) (if last then some debt else none)
    else some (c.landRaw otherReader a raw.2.1 raw.2.2, false)
  match put with
  | none => c.freezeBy st 0x01 bs a
  | some (c, owed) =>
    let c := if last then c.traceCmd 6 (straitNum st) 2 1 (fld w2 63 48) 0 0 w3 0 else c
    let c := if last && !owed then c.rwriteLast st bs else c
    if last && !straitMain st then c.recordBack st t (BitVec.ofNat 16 (fld w2 63 48)) a else c

/-- A well-formed RWRITE is judged over its raw range with its count, and written once no refresh window holds its channels (R72). A record of
an earlier generation of its tile is discarded and counted (R124). -/
def rwriteJudge (st : Strait) (c : Chip) (r : RxTxn) : Chip :=
  let bs := r.txn.bytes
  let w1 := wordAt bs 8
  let w2 := wordAt bs 16
  let w3 := wordAt bs 24
  let fl := txnFlags bs
  let last := decide (fl % 2 = 1)
  let a := fld w1 47 0
  let n := if fld w1 59 58 = 0 then txnLen bs else 4096
  let t := fld w2 29 18
  let o := fld w2 17 12
  let src (x : Export) : Bool := x.names st
  let lenBad := decide (fld w1 59 58 ≠ 0) && (decide (txnLen bs ≠ cdcLen (fld w1 59 58)) || decide (a % 4096 ≠ 0))
  let lastBad := (decide (fl / 2 % 2 = 1) && !last) || (!last && (decide (fld w3 63 48 ≠ 0) || decide (fld w3 31 0 ≠ 0)))
  let id := BitVec.ofNat 16 (fld w2 63 48)
  if lenBad || lastBad then (c.popRx st 1).freezeBy st 0x02 bs a
  else if !straitMain st && last && (c.recordFor st t id a).isSome && c.staleId t id then ((c.popRx st 1).countStale t).recordBack st t id a
  else if c.waitsForRun st then c.updStr st (fun x => x.markHead 1 (fun r => { r with held := true }))
  else if 0x0100_0000 ≤ a ∧ a < 0x0120_0000 then c.windowWrite st r
  else match c.run with
    | none => (c.popRx st 1).freezeBy st 0x01 bs a
    | some run =>
      if !run.mayWrite src (decide (4 ≤ fl)) a n || !c.reachable a n then (c.popRx st 1).freezeBy st 0x01 bs a
      else if last && o != 63 && !c.maySync src t o (.count (fld w3 31 0) (fld w3 63 48)) then
        (c.popRx st 1).freezeBy st 0x01 bs (portAddr t o)
      else if c.partGroup a n then (c.popRx st 1).freezeBy st 0x02 bs a
      else if c.shutRange a n then c
      else c.rwriteLand st r

/-- RWRITE: the oldest is judged. -/
def rwrite (st : Strait) (c : Chip) : Chip := c.onRx st 1 2 (fun _ => true) (rwriteJudge st)
/-- RWRITE. -/
def execRwrite (st : Strait) (s : State) : Host.Outcome State Fault Refusal := onChip (rwrite st) s

/-! ### RREAD (R353, R404, R405) -/

/-- RREAD: a request of the far Keeper joins the read queue. -/
def rread (st : Strait) (c : Chip) : Chip :=
  c.onRx st 2 3 (fun k => decide (k % 2 = 0)) (fun c r =>
    let bs := r.txn.bytes
    let c := c.popRx st 2
    if txnFlags bs / 2 % 2 = 0 then c.freezeBy st 0x04 bs (fld (wordAt bs 8) 47 0)
    else if 8 ≤ (c.str st).readQ.length then c.freezeBy st 0x02 bs (fld (wordAt bs 8) 47 0)
    else c.updStr st (fun x =>
      { x with readQ := x.readQ ++ [⟨BitVec.ofNat 16 (fld (wordAt bs 8) 63 48), fld (wordAt bs 8) 47 0, fld (wordAt bs 16) 12 0⟩] }))
/-- RREAD. -/
def execRread (st : Strait) (s : State) : Host.Outcome State Fault Refusal := onChip (rread st) s

/-- Whether a far Keeper's read reaches a place that R2, R267 or R234 keep from every master: R338 excepts them from what R353 serves
(DEDUCED, log 87). -/
def Chip.farBarred (c : Chip) (a n : Nat) : Bool :=
  if inSpd a then !(c.tile (spdTile a)).poweredRange ((a - spdBase) % 0x8_0000) n
  else inLp a && decide (lpBase + c.eccOff < a + n)

/-- RREAD_QUEUE_SERVE: the oldest request of the queue is answered once the VC-W credits of its whole response are held. A read that is a
violation is answered with zeros, and freezes the strait. -/
def rreadQueueServe (st : Strait) (j : Jtag) (c : Chip) : Chip :=
  match (c.str st).readQ with
  | [] => c
  | q :: rest =>
    if (c.str st).credit.w < cdiv (32 + q.size) 240 then c
    else
      let bar := c.farBarred q.addr q.size
      let r := if bar then (c, zeros q.size, fun _ => false) else c.keeperRead j q.addr q.size
      let bytes := wordsBytes [txnHead 3 (c.str st).pver.toNat 3 q.size, mkWord [(48, 16, q.tag.toNat), (0, 48, q.addr)],
        mkWord [(0, 13, q.size)], 0] ++ r.2.1
      let pz := (List.range (cdiv q.size 32)).filter r.2.2
      let c := r.1.updStr st (fun x => { x with readQ := rest })
      let c := c.sendVc st 1 ⟨⟨bytes, pz⟩, none, .rreadResp, 0, c.nowAc⟩
      if bar then c.freezeBy st 0x01 (wordsBytes [txnHead 3 (c.str st).pver.toNat 2 0, mkWord [(48, 16, q.tag.toNat), (0, 48, q.addr)],
        mkWord [(0, 13, q.size)], 0]) q.addr else c
/-- RREAD_QUEUE_SERVE. -/
def execRreadQueueServe (st : Strait) (s : State) : Host.Outcome State Fault Refusal := onChipJ (rreadQueueServe st) s

/-- RREAD_RESPONSE: the Keeper takes the answer to a read of its own; nothing else waits for one. -/
def rreadResponse (st : Strait) (c : Chip) : Chip :=
  c.onRx st 1 3 (fun k => decide (k % 2 = 1)) (fun c r =>
    let tag := BitVec.ofNat 16 (fld (wordAt r.txn.bytes 8) 63 48)
    (c.popRx st 1).updStr st (fun x => { x with outReads := x.outReads.filter (fun q => q.tag != tag) }))
/-- RREAD_RESPONSE. -/
def execRreadResponse (st : Strait) (s : State) : Host.Outcome State Fault Refusal := onChip (rreadResponse st) s

/-! ### SIGNAL (R352, R355, R370, R406) -/

/-- A SIGNAL of KIND ADD or SET. -/
def straitSignal (set : Bool) (st : Strait) (c : Chip) : Chip :=
  c.onRx st 2 4 (fun k => decide (k % 4 = if set then 1 else 0)) (fun c r =>
    let bs := r.txn.bytes
    let w1 := wordAt bs 8
    let t := fld w1 47 36
    let o := fld w1 5 0
    let v := BitVec.ofNat 32 (fld (wordAt bs 16) 31 0)
    let u : SyncUpd := if set then .set v else .add v
    let c := c.popRx st 2
    if c.maySync (fun x => x.names st) t o u then
      (c.syncApply (rankStrait st) t o u (BitVec.ofNat 3 (fld w1 35 33)) (straitScope st)).getD c
    else c.freezeBy st 0x01 bs (portAddr t o))
/-- STRAIT_SIGNAL_ADD. -/
def execStraitSignalAdd (st : Strait) (s : State) : Host.Outcome State Fault Refusal := onChip (straitSignal false st) s
/-- STRAIT_SIGNAL_SET. -/
def execStraitSignalSet (st : Strait) (s : State) : Host.Outcome State Fault Refusal := onChip (straitSignal true st) s

/-- A SIGNAL of KIND ACK: the remote DMA of that tile and command completes; one of another generation is discarded (R124). -/
def straitSignalAck (st : Strait) (c : Chip) : Chip :=
  c.onRx st 2 4 (fun k => decide (k % 4 = 2)) (fun c r =>
    let w1 := wordAt r.txn.bytes 8
    let t := fld w1 47 36
    let id := BitVec.ofNat 16 (fld w1 63 48)
    let c := (c.popRx st 2).ackCame st t id
    if c.staleId t id then c.countStale t
    else match (c.tile t).streams.find? (fun s =>
        (s.2.active.map (fun x => x.cmd.id == id && decide (4 ≤ x.cmd.route) && (routeStrait x.cmd.route == st))).getD false) with
      | some s => transferComplete t s.1 (c.updTile t (fun x => x.setStream s.1 { s.2 with active := s.2.active.map (fun y => { y with acked := true }) }))
      | none => c)
/-- STRAIT_SIGNAL_ACK. -/
def execStraitSignalAck (st : Strait) (s : State) : Host.Outcome State Fault Refusal := onChip (straitSignalAck st) s

/-! ### CREDIT, PROBE, TIME and SLACK (R407 to R411, R416, R420, R424) -/

/-- CREDIT: in ALIGN the far buffer sizes; elsewhere malformed. -/
def credit (st : Strait) (c : Chip) : Chip :=
  c.onRx st 3 5 (fun _ => true) (fun c r =>
    let w := wordAt r.txn.bytes 8
    let b : V4 Nat := ⟨fld w 56 48, fld w 39 32, fld w 21 16, fld w 5 0⟩
    let c := c.popRx st 3
    if (c.str st).train = .align then c.updStr st (fun x => ({ x with farBuf := b, credit := b }).noteCredits c.up)
    else c.freezeBy st 0x02 r.txn.bytes 0)
/-- CREDIT. -/
def execCredit (st : Strait) (s : State) : Host.Outcome State Fault Refusal := onChip (credit st) s

/-- The pair version of R411: the lower maximum, if it is at least both minima (this end's are 1). -/
def pairVersion (f : Ident) : Option Byte :=
  let v := min f.pmax.toNat 1
  if max f.pmin.toNat 1 ≤ v then some (BitVec.ofNat 8 v) else none

/-- PROBE: the far identity is recorded. In IDENTIFY the pair version is settled and the strait comes UP, or goes DOWN for good; on
a formed ring it comes up isolated. A return to UP with another identity than formation admitted freezes the strait. -/
def probe (st : Strait) (c : Chip) : Chip :=
  c.onRx st 3 6 (fun _ => true) (fun c r =>
    let f := probeIdent r.txn.bytes
    let was := (c.str st).train
    let c := (c.popRx st 3).updStr st (fun x => { x with far := f, probeSeen := true })
    let c :=
      if was = .identify then
        match pairVersion f with
        | none => (c.updStr st (fun x => { (x.toDown c.up) with far := f, probeSeen := true, noRetry := true, retryAt := none, versionFail := true })).lockLost st
        | some v => c.updStr st (fun x => { (x.enter .up c.up) with pver := v, versionFail := false, lastGood := c.up })
      else c
    if (c.str st).train ≠ .up then c
    else
      let c := if (c.str st).admitted = none ∨ (c.str st).admitted = some f then c else c.freezeBy st 0x05 r.txn.bytes 0
      if was = .identify ∧ c.ring.member = true ∧ c.ring.form = .formed then c.isolate st 0xF else c.discoverCheck)
/-- PROBE. -/
def execProbe (st : Strait) (s : State) : Host.Outcome State Fault Refusal := onChip (probe st) s

/-- TIME_REQUEST: answered with this end's stamps; t3 is written as the reply leaves. -/
def timeRequest (st : Strait) (frac : BitVec 9) (c : Chip) : Chip :=
  c.onRx st 3 7 (fun k => decide (k % 2 = 0)) (fun c r =>
    let bs := r.txn.bytes
    (c.popRx st 3).sendM st (timeBytes (c.str st).pver.toNat true (BitVec.ofNat 16 (fld (wordAt bs 8) 63 48)) (wordAt bs 16) (c.stamp frac) 0))
/-- TIME_REQUEST. -/
def execTimeRequest (st : Strait) (frac : BitVec 9) (s : State) : Host.Outcome State Fault Refusal := onChip (timeRequest st frac) s

/-- TIME_REPLY: the exchange that waits for it gives an offset and a delay. -/
def timeReply (st : Strait) (frac : BitVec 9) (c : Chip) : Chip :=
  c.onRx st 3 7 (fun k => decide (k % 2 = 1)) (fun c r =>
    let bs := r.txn.bytes
    let x := c.tide.xch.get st
    let c := c.popRx st 3
    if !x.waiting || decide (fld (wordAt bs 8) 63 48 ≠ x.seq.toNat) then c
    else
      let e := exchange2 (wordAt bs 16) (wordAt bs 24) (wordAt bs 32) (c.stamp frac)
      ((c.addExchange st (wordAt bs 16) e.1 e.2).track st).xsync st)
/-- TIME_REPLY. -/
def execTimeReply (st : Strait) (frac : BitVec 9) (s : State) : Host.Outcome State Fault Refusal := onChip (timeReply st frac) s

/-- The cause a SLACK carries. -/
def causeOf (n : Nat) : SlackCause := if n = 0 then .cmd else if n = 1 then .pin else .forced

/-- SLACK_REQUEST: the tide master takes it; another member forwards it on its primary source strait. -/
def slackRequest (st : Strait) (c : Chip) : Chip :=
  c.onRx st 3 8 (fun k => decide (k % 4 = 0)) (fun c r =>
    let bs := r.txn.bytes
    let w3 := wordAt bs 24
    let c := c.popRx st 3
    if !straitMain st then c.freezeBy st 0x07 bs 0
    else if c.tide.master then c.masterTakes (wordAt bs 16) (BitVec.ofNat 6 (fld w3 63 58)) (causeOf (fld w3 57 56))
    else match c.towardMaster with
      | some s => c.sendSlack s 0 (wordAt bs 8) (wordAt bs 16) (BitVec.ofNat 6 (fld w3 63 58)) (fld w3 57 56)
      | none => c)
/-- SLACK_REQUEST. -/
def execSlackRequest (st : Strait) (s : State) : Host.Outcome State Fault Refusal := onChip (slackRequest st) s

/-- SLACK_CUT: a new S is applied and forwarded on the other main strait. -/
def slackCut (st : Strait) (c : Chip) : Chip :=
  c.onRx st 3 8 (fun k => decide (k % 4 = 1)) (fun c r =>
    let bs := r.txn.bytes
    let w3 := wordAt bs 24
    let s := wordAt bs 8
    let origin := BitVec.ofNat 6 (fld w3 63 58)
    let c := c.popRx st 3
    if !straitMain st then c.freezeBy st 0x07 bs 0
    else if c.slack.seen.contains s then c
    else
      let c := (c.noteReq (wordAt bs 16) (causeOf (fld w3 57 56))).applyCut s origin (causeOf (fld w3 57 56) == .forced)
      c.sendSlack (if st = Strait.e then .w else .e) 1 s (wordAt bs 16) origin (fld w3 57 56))
/-- SLACK_CUT. -/
def execSlackCut (st : Strait) (s : State) : Host.Outcome State Fault Refusal := onChip (slackCut st) s

end Sys2Proof.Machine
end

