-- ==== Sys2Proof/Machine/HostAccess.lean ====
section
/-! DEFINITION. Accesses by the host and by tray peers (R338 to R360), and the mailbox index registers (R432, R433, R562). -/
namespace Sys2Proof.Machine

/-! ### Where a context reaches (R338, R341) -/

/-- Whether the ranges, whole granules each, cover a range of bytes. -/
def covered (rs : List (Nat × Nat)) (a n : Nat) : Bool := (unitsOf 64 a n).all (fun g => rs.any (fun r => within (g * 64) 64 r.1 r.2))

/-- The LPDDR5X regions of a context. -/
def Chip.ctxRegions (c : Chip) (n : Nat) : List (Nat × Nat) := (c.regions.filter (fun r => r.ctx == n)).map (fun r => (r.base, r.size))

/-- Whether a context may reach a range of scratchpad or LPDDR5X: mapped to it, and for scratchpad powered (R234). -/
def Chip.hostReach (c : Chip) (n a len : Nat) : Bool :=
  if inSpd a then covered (c.ctx n).maps a len && inSpd (a + len - 1) &&
      (cutRange 0x8_0000 (a - spdBase) len).all (fun p => (c.tile (p.1 / 0x8_0000)).poweredRange (p.1 % 0x8_0000) p.2)
  else if inLp a then covered ((c.ctx n).maps ++ c.ctxRegions n) a len
  else false

/-- The tile and object of a sync port address. -/
def portOf (a : Nat) : Nat × Nat := ((a - 0x6000_0000) / 0x200, (a - 0x6000_0000) % 0x200 / 8)

/-- A write to a range of the active run's image (R444). -/
def Chip.hitsImage (c : Chip) (a n : Nat) : Bool := match c.run with | some r => overlap a n r.image r.size | none => false

/-! ### Sync ports (R360) -/

/-- The update a sync port word spells; none where R360 makes the word a violation. -/
def portUpd (w : W64) : Option SyncUpd :=
  if fld w 58 48 ≠ 0 then none
  else match fld w 63 62 with
    | 0 => if fld w 47 32 = 0 then some (.add (BitVec.ofNat 32 (fld w 31 0))) else none
    | 1 => if fld w 47 32 = 0 then some (.set (BitVec.ofNat 32 (fld w 31 0))) else none
    | 2 => some (.count (fld w 31 0) (fld w 47 32))
    | _ => none

/-- Whether a context may use a port: a run of it is active on the port's tile. -/
def Chip.hostPort (c : Chip) (n t o : Nat) : Bool := c.runsOn t && c.runCtx == n && decide (o < 48)

/-- Whose access a sync port write is: a tray peer's only while its slot is VALID, otherwise ctx 0's (R340). -/
def Chip.portSource (c : Chip) : PortSource → PortSource
  | .tray slot => if c.tray.valid.getLsbD slot.toNat then .tray slot else .host 0
  | .host n => .host n

/-- A sync port write: the update, the host's taken with SCOPE TRAY, or the violation of its sender. A frozen sender's is discarded. -/
def portWrite (src : PortSource) (t o : Nat) (w : W64) (c : Chip) : Chip :=
  match c.portSource src with
  | .host n =>
    if (c.ctx n.toNat).frozen then c
    else match (if c.hostPort n.toNat t o then (match portUpd w with | some u => c.syncApply rankOuter t o u 2 2 | none => none) else none) with
      | some c => c
      | none => c.ctxViolation n.toNat 1 (portAddr t o)
  | .tray slot =>
    if c.tray.frozen.getLsbD slot.toNat then c
    else match (match portUpd w with
        | some u => if c.maySync (fun x => x.tray) t o u then c.syncApply rankOuter t o u (BitVec.ofNat 3 (fld w 61 59)) 2 else none
        | none => none) with
      | some c => c
      | none => c.trayViolation slot (portAddr t o)

/-- SYNC_PORT_ADD: a write whose OP is ADD. -/
def execSyncPortAdd (src : PortSource) (t : TileId) (o : BitVec 6) (w : W64) (s : State) : Host.Outcome State Fault Refusal :=
  onChip (Chip.when (fld w 63 62 == 0) (portWrite src t.toNat o.toNat w)) s
/-- SYNC_PORT_SET: a write whose OP is SET. -/
def execSyncPortSet (src : PortSource) (t : TileId) (o : BitVec 6) (w : W64) (s : State) : Host.Outcome State Fault Refusal :=
  onChip (Chip.when (fld w 63 62 == 1) (portWrite src t.toNat o.toNat w)) s
/-- SYNC_PORT_COUNT: a write whose OP is COUNT, or the reserved code, which is a violation. -/
def execSyncPortCount (src : PortSource) (t : TileId) (o : BitVec 6) (w : W64) (s : State) : Host.Outcome State Fault Refusal :=
  onChip (Chip.when (decide (2 ≤ fld w 63 62)) (portWrite src t.toNat o.toNat w)) s

/-! ### Mailbox pages (R432, R433, R562) -/

/-- Whether index writes are taken and BAR2 and BAR4 respond: the boot has reached its end (R562). -/
def Chip.booted (c : Chip) : Bool := c.keeper.state != .booting

/-- Whether a page takes index writes: R562 closes the contexts' pages until the boot's end, not the management mailbox's, which
the recovery service answers (R537). -/
def Chip.pageOpen (c : Chip) (n : Nat) : Bool := c.booted || n == 16

/-- A write of MBX_REQ_TAIL: ignored, with BAD_DOORBELL, where it would cover more than 64 entries. -/
def mbxReqTail (n : Nat) (v : W32) (c : Chip) : Chip :=
  Chip.when (c.pageOpen n) (fun c => c.updCtx n (fun x =>
    if 64 < (v - x.reqHead).toNat then { x with badDoorbell := true } else { x with reqTail := v })) c
/-- A write of MBX_RSP_HEAD: ignored, with BAD_DOORBELL, where it passes the tail; waiting responses then have room. -/
def mbxRspHead (n : Nat) (v : W32) (c : Chip) : Chip :=
  Chip.when (c.pageOpen n) (fun c =>
    if ((c.ctx n).rspTail - (c.ctx n).rspHead).toNat < (v - (c.ctx n).rspHead).toNat then c.updCtx n (fun x => { x with badDoorbell := true })
    else (fun c => flushRsps n (c.ctx n).rsps.length c) (c.updCtx n (fun x => { x with rspHead := v }))) c
/-- A write of MBX_EVT_HEAD: ignored, with BAD_DOORBELL, where it passes the tail. -/
def mbxEvtHead (n : Nat) (v : W32) (c : Chip) : Chip :=
  Chip.when (c.pageOpen n) (fun c => c.updCtx n (fun x =>
    if (x.evtTail - x.evtHead).toNat < (v - x.evtHead).toNat then { x with badDoorbell := true } else { x with evtHead := v })) c

/-- MBX_REQ_TAIL_WRITE. -/
def execMbxReqTailWrite (who : Issuer) (v : W32) (s : State) : Host.Outcome State Fault Refusal := onChip (mbxReqTail (issuerNum who) v) s
/-- MBX_RSP_HEAD_WRITE. -/
def execMbxRspHeadWrite (who : Issuer) (v : W32) (s : State) : Host.Outcome State Fault Refusal := onChip (mbxRspHead (issuerNum who) v) s
/-- MBX_EVT_HEAD_WRITE. -/
def execMbxEvtHeadWrite (who : Issuer) (v : W32) (s : State) : Host.Outcome State Fault Refusal := onChip (mbxEvtHead (issuerNum who) v) s

/-- The new INDEX when bytes written at a page offset meet a register's low four bytes, none where they do not. -/
def idxMerge (old : W32) (reg off : Nat) (data : List Byte) : Option W32 :=
  if overlap off data.length reg 4 then
    some (BitVec.ofNat 32 (leNat ((List.range 4).map (fun i =>
      if off ≤ reg + i ∧ reg + i < off + data.length then data.getD (reg + i - off) 0 else BitVec.ofNat 8 (old.toNat / 2 ^ (8 * i))))))
  else none

/-- A host's write to a page: the request ring takes bytes; the index registers, BAD_DOORBELL and MBX_CTRL act; the rest ignores it. -/
def pageWrite (n off : Nat) (data : List Byte) (c : Chip) : Chip :=
  let put := (data.zipIdx.filter (fun e => decide (off + e.2 < 0x1000)))
  let c := c.updCtx n (fun x => { x with page := put.foldl (fun m e => tblPut 0 m (off + e.2) e.1) x.page })
  let at_ (o : Nat) : Option Byte := if off ≤ o ∧ o < off + data.length then some (data.getD (o - off) 0) else none
  let c := match idxMerge (c.ctx n).reqTail 0x2000 off data with | some v => mbxReqTail n v c | none => c
  let c := match idxMerge (c.ctx n).rspHead 0x2018 off data with | some v => mbxRspHead n v c | none => c
  let c := match idxMerge (c.ctx n).evtHead 0x2028 off data with | some v => mbxEvtHead n v c | none => c
  let c := match at_ 0x2030 with
    | some b => c.updCtx n (fun x => { x with badDoorbell := x.badDoorbell && !b.getLsbD 4 })
    | none => c
  match at_ 0x2038 with
  | some b => c.updCtx n (fun x => { x with evtIrq := b.getLsbD 1, rspIrq := b.getLsbD 0 })
  | none => c

/-- Bytes of a page as its reader sees them: until the boot ends, MBX_STATUS and zeros elsewhere. -/
def Chip.pageRead (c : Chip) (n off len : Nat) : List Byte :=
  (List.range len).map (fun i =>
    let o := off + i
    if c.pageOpen n || decide (o / 8 * 8 = 0x2030) then c.pageByte n o else 0)

/-! ### Reads and writes from outside (R201, R254, R259) -/

/-- A write by the host or a tray peer lands granule by granule; in scratchpad it takes its slots of the tiles' ports. -/
def Chip.outerWrite (c : Chip) (a : Nat) (data : List Byte) (ep : Bool) : Chip :=
  (c.writePieces ((cutRange 64 a data.length).map (fun p => (p.1, slice data (p.1 - a) p.2, ep)))).takePort 2 [(a, data.length)]

/-- A read by the host or a tray peer. -/
def Chip.outerRead (c : Chip) (a len : Nat) : Chip × List Byte × Bool :=
  let f := c.fetch a len otherReader
  (f.1.takePort 2 [(a, len)], f.2)

/-! ### Tray peers (R340, R345, R352) -/

/-- A tray peer's memory write, judged over its whole range. -/
def trayWrite (slot : SlotId) (a : Nat) (data : List Byte) (ep : Bool) (c : Chip) : Chip :=
  if c.tray.frozen.getLsbD slot.toNat then c
  else if inPorts a then
    if data.length = 8 ∧ a % 8 = 0 then portWrite (.tray slot) (portOf a).1 (portOf a).2 (wordAt data 0) c
    else c.trayViolation slot a
  else
    let ok := match c.run with | some r => r.mayWrite (fun x => x.tray) false a data.length | none => false
    let on := !inSpd a || (c.tile (spdTile a)).poweredRange ((a - spdBase) % 0x8_0000) data.length
    if ok && on then c.outerWrite a data ep else c.trayViolation slot a

/-- What R352 lets a tray peer read: a sync port inside a READ or a WRITE entry with TRAY, by one aligned 8 B request (R342), or other
memory inside a READ entry with TRAY. -/
def Run.trayReads (r : Run) (a len : Nat) : Bool :=
  let names (k : Export → Bool) : Bool := r.exports.any (fun x => k x && x.tray && within a len x.base x.size)
  if inPorts a then decide (len = 8) && decide (a % 8 = 0) && decide ((portOf a).2 < 48) && (names (fun x => x.read) || names (fun x => x.write))
  else names (fun x => x.read)

/-- A tray peer's read: its data, or zeros where its ingress is frozen or it is a violation. -/
def trayRead (slot : SlotId) (a len : Nat) (c : Chip) : Chip :=
  let none_ (c : Chip) : Chip := c.send (.trayCompletion slot (zeros len) false)
  if c.tray.frozen.getLsbD slot.toNat then none_ c
  else match c.run with
    | none => none_ (c.trayViolation slot a)
    | some r =>
      let on := !inSpd a || (c.tile (spdTile a)).poweredRange ((a - spdBase) % 0x8_0000) len
      if !r.trayReads a len || !on then none_ (c.trayViolation slot a)
      else if inPorts a then c.send (.trayCompletion slot (leBytes 8 ((c.tile (portOf a).1).sync (portOf a).2).count.toNat) false)
      else
        let f := c.outerRead a len
        f.1.send (.trayCompletion slot f.2.1 f.2.2)

/-! ### BAR accesses (R339 to R345) -/

/-- The local address of an offset in a BAR, none beyond the BAR's size. -/
def barAddr : Bar → Nat → Option Nat
  | .bar0, o => if o < 0x10_0000 then some o else none
  | .bar2, o => if o < 0x1_0000_0000 then some o else none
  | .bar4, o => if o < 0x100_0000_0000 then some (lpBase + o) else none

/-- The tray slot a request to the physical function comes from, if its requester ID is that of a VALID slot (R340). -/
def Chip.trayRid (c : Chip) (fn : CtxId) (rid : W16) : Option SlotId :=
  if fn ≠ 0 then none
  else ((List.range 16).find? (fun k => c.tray.valid.getLsbD k && tblGet 0 c.tray.rid k == rid)).map (BitVec.ofNat 4)

/-- A context's write through BAR2 or BAR4: it lands, or it is discarded and freezes the context. -/
def hostMemWrite (n : CtxId) (a : Nat) (data : List Byte) (ep : Bool) (c : Chip) : Chip :=
  if !c.booted || (c.ctx n.toNat).frozen then c
  else if inPorts a then
    if data.length = 8 ∧ a % 8 = 0 then portWrite (.host n) (portOf a).1 (portOf a).2 (wordAt data 0) c
    else c.ctxViolation n.toNat 1 a
  else if c.hitsImage a data.length then c.ctxViolation n.toNat 2 a
  else if c.hostReach n.toNat a data.length then
    c.outerWrite a data ep
  else c.ctxViolation n.toNat 1 a

/-- A context's read through BAR2 or BAR4: the completion carries the data as stored and its poison, or zeros. -/
def hostMemRead (n : CtxId) (a len : Nat) (c : Chip) : Chip :=
  let none_ (c : Chip) : Chip := c.send (.completion n (zeros len) false)
  if !c.booted || (c.ctx n.toNat).frozen then none_ c
  else if inPorts a then
    if len = 8 ∧ a % 8 = 0 ∧ c.hostPort n.toNat (portOf a).1 (portOf a).2 then
      c.send (.completion n (leBytes 8 ((c.tile (portOf a).1).sync (portOf a).2).count.toNat) false)
    else none_ (c.ctxViolation n.toNat 1 a)
  else if c.hostReach n.toNat a len then
    let f := c.outerRead a len
    f.1.send (.completion n f.2.1 f.2.2)
  else none_ (c.ctxViolation n.toNat 1 a)

/-- BAR0: a function reaches its own page; the other pages ignore writes and read as zeros. -/
def bar0Write (n : CtxId) (off : Nat) (data : List Byte) (c : Chip) : Chip :=
  if off / 0x1_0000 = n.toNat then pageWrite n.toNat (off % 0x1_0000) data c else c
def bar0Read (n : CtxId) (off len : Nat) (c : Chip) : Chip :=
  c.send (.completion n (if off / 0x1_0000 = n.toNat then c.pageRead n.toNat (off % 0x1_0000) len else zeros len) false)

/-- Whether the link carries a request to a function: PERST# is off, the host has assigned the BARs, and a virtual function is
enabled (R561). -/
def Pcie.carries (p : Pcie) (fn : CtxId) : Bool := !p.perst && p.barsSet && (fn == 0 || p.vfEnable)

/-- A memory write that a BAR carries. -/
def barWrite (fn : CtxId) (rid : W16) (bar : Bar) (off : Nat) (data : List Byte) (ep : Bool) (c : Chip) : Chip :=
  match barAddr bar off with
  | none => c
  | some a =>
    match c.trayRid fn rid with
    | some slot => if c.booted then trayWrite slot a data ep c else c
    | none => match bar with
      | .bar0 => bar0Write fn off data c
      | _ => hostMemWrite fn a data ep c
/-- BAR_WRITE: a function in D3hot takes none (R561), and a write is one that R342 allows. -/
def execBarWrite (fn : CtxId) (rid : W16) (bar : Bar) (off : W64) (data : List Byte) (ep : Bool) (s : State) :
    Host.Outcome State Fault Refusal :=
  onChip (Chip.when (s.pcie.carries fn && !s.pcie.d3.getLsbD fn.toNat && decide (1 ≤ data.length) && decide (data.length ≤ 512) &&
    decide (off.toNat % 4096 + data.length ≤ 4096)) (barWrite fn rid bar off.toNat data ep)) s

/-- A memory read that a BAR carries. -/
def barRead (fn : CtxId) (rid : W16) (bar : Bar) (off len : Nat) (c : Chip) : Chip :=
  match barAddr bar off with
  | none => c
  | some a =>
    match c.trayRid fn rid with
    | some slot => if c.booted then trayRead slot a len c else c.send (.trayCompletion slot (zeros len) false)
    | none => match bar with
      | .bar0 => bar0Read fn off len c
      | _ => hostMemRead fn a len c
/-- BAR_READ: of 1 to 4,096 bytes within 4 KiB; a function in D3hot completes it as Unsupported Request. -/
def execBarRead (fn : CtxId) (rid : W16) (bar : Bar) (off : W64) (len : Nat) (s : State) : Host.Outcome State Fault Refusal :=
  onChip (Chip.when (s.pcie.carries fn && decide (1 ≤ len) && decide (off.toNat % 4096 + len ≤ 4096))
    (fun c => if s.pcie.d3.getLsbD fn.toNat then c.send (.unsupported fn) else barRead fn rid bar off.toNat len c)) s

/-- TRAY_WRITE_ARRIVAL: it comes through the physical function's BAR2 or BAR4 (R347), and from a slot not VALID it is an access of ctx 0 (R340). -/
def trayWriteArrival (slot : SlotId) (a : Nat) (data : List Byte) (ep : Bool) (c : Chip) : Chip :=
  if !c.booted then c
  else if c.tray.valid.getLsbD slot.toNat then trayWrite slot a data ep c
  else hostMemWrite 0 a data ep c
/-- TRAY_WRITE_ARRIVAL: a write that R342 allows. -/
def execTrayWriteArrival (slot : SlotId) (a : Addr) (data : List Byte) (ep : Bool) (s : State) : Host.Outcome State Fault Refusal :=
  onChip (Chip.when (s.pcie.carries 0 && !s.pcie.d3.getLsbD 0 && decide (1 ≤ data.length) && decide (data.length ≤ 512) &&
    decide (a.toNat % 4096 + data.length ≤ 4096)) (trayWriteArrival slot a.toNat data ep)) s

/-- TRAY_READ_ARRIVAL. -/
def trayReadArrival (slot : SlotId) (a len : Nat) (c : Chip) : Chip :=
  if !c.booted then c.send (.trayCompletion slot (zeros len) false)
  else if c.tray.valid.getLsbD slot.toNat then trayRead slot a len c
  else hostMemRead 0 a len c
/-- TRAY_READ_ARRIVAL: of 1 to 4,096 bytes within 4 KiB (R342). -/
def execTrayReadArrival (slot : SlotId) (a : Addr) (len : Nat) (s : State) : Host.Outcome State Fault Refusal :=
  onChip (Chip.when (s.pcie.carries 0 && decide (1 ≤ len) && decide (a.toNat % 4096 + len ≤ 4096))
    (fun c => if s.pcie.d3.getLsbD 0 then c.send (.unsupported 0) else trayReadArrival slot a.toNat len c)) s

end Sys2Proof.Machine
end

