-- ==== Sys2Proof/Machine/Mailbox.lean ====
section
/-! DEFINITION. How the Keeper reads requests (R435 to R440, R581), what a context may see (R489 to R491), and the commands on the
device, contexts, memory and registers (R441 to R443, R454, R85, R349, R571). -/
namespace Sys2Proof.Machine

/-! ### Requests (R435, R440, R441) -/

/-- Word n of a request's payload; bytes beyond LENGTH count as 0 (log 23). -/
def Req.w (q : Req) (n : Nat) : W64 := wordAt q.payload (8 * n)

/-- The commands of R440. -/
def opKnown (op : Nat) : Bool :=
  [0x0100, 0x0101, 0x0200, 0x0201, 0x0202, 0x0300, 0x0301, 0x0302, 0x0303, 0x0400, 0x0401, 0x0402, 0x0403, 0x0404, 0x0405, 0x0406, 0x0500,
   0x0501, 0x0502, 0x0503, 0x0600, 0x0601, 0x0602, 0x0700, 0x0701, 0x0702, 0x0703, 0x0800, 0x0801, 0x0900, 0x0901].contains op

/-- The bits of each payload word that R441 names, and in its TABLE and TRIGGER arguments R313 and R498. -/
def opMask (op : Nat) : List W64 :=
  let all : W64 := BitVec.allOnes 64
  match op with
  | 0x0200 => [0x3]
  | 0x0201 => [0x1F]
  | 0x0202 => [0xE000000000000FFF]
  | 0x0300 => [all, 0x800001FFFFFFFFFF]
  | 0x0301 => [0x3FF]
  | 0x0302 => [all, 0x800001FFFFFFFFFF]
  | 0x0303 => [0xFFFFFFFF0000007F, 0x3, 0] ++ List.replicate 16 all
  | 0x0405 => [all]
  | 0x0500 => [0x03FFFFFF, all, all] ++ List.replicate 8 all
  | 0x0501 => [0x1FFFFFFF]
  | 0x0502 => [0xFFFF, all]
  | 0x0503 => [0xFFFF]
  | 0x0600 => List.replicate 4 all
  | 0x0601 => [0xFFFF]
  | 0x0602 => [0xFFFF]
  | 0x0700 => [0x7F01FFFFFF]
  | 0x0701 => [0x3F, all, all, all, 0xFFFFFF80000001FF, 0xF000FFF80000FFFF, all, all]
  | 0x0702 => [0x0003FFFFFFFFFFFF, all, all, all]
  | 0x0703 => [0xE000000000000FFF]
  | 0x0800 => List.replicate 4 all ++ [0x1]
  | 0x0801 => [0x3]
  | 0x0900 => [all, 0x1FF]
  | 0x0901 => [all, all]
  | _ => []

/-- The payload offset of the first word that has a reserved bit set. -/
def Req.reserved (q : Req) : Option Nat :=
  ((List.range (cdiv q.payload.length 8)).find? (fun n => q.w n &&& ~~~((opMask q.opcode.toNat).getD n 0) != 0)).map (8 * ·)

/-- Commands that only ctx 0 and MGMT issue. -/
def opCtx0 (op : Nat) : Bool := (decide (0x0400 ≤ op) && decide (op ≤ 0x0406)) || op == 0x0801
/-- Commands whose GEN is not judged (R436). -/
def opAnyGen (op : Nat) : Bool := op == 0x0200 || op == 0x0100 || op == 0x0101
/-- Commands that a frozen context may issue (R439). -/
def opFrozen (op : Nat) : Bool := [0x0100, 0x0101, 0x0201, 0x0601, 0x0602, 0x0703].contains op

/-- Whether a mailbox is ctx 0 or MGMT. -/
def isCtx0 (n : Nat) : Bool := n == 0 || n == 16

/-- The owner of a run of this module, by number. -/
def Chip.runOf (c : Chip) (n : W16) : Option Run := c.runs.find? (fun r => r.num == n)
/-- A weight set by number. -/
def Chip.wset (c : Chip) (n : W16) : Option WSet := c.wsets.find? (fun w => w.num == n)
/-- A region by number. -/
def Chip.region (c : Chip) (n : Nat) : Option Region := c.regions.find? (fun r => r.num == n)

/-- Whether the last run was on a tile and of a context. -/
def Chip.ownTile (c : Chip) (n t : Nat) : Bool := match c.runs with | r :: _ => r.ctx == n && r.tiles.contains t | [] => false

/-- Step 5 of R581: whether R440 lists the issuer. An object that does not exist has no owner and is left to the command's own checks. -/
def Chip.issuerOk (c : Chip) (n : Nat) (q : Req) : Bool :=
  let op := q.opcode.toNat
  let a := q.w 0
  if opCtx0 op then isCtx0 n
  else match op with
    | 0x0201 => !bit a 4 || isCtx0 n
    | 0x0202 => match fld a 63 61 with
        | 0 => isCtx0 n || c.ownTile n (fld a 11 0)
        | 1 => n == 16 || (n == 0 && fld a 11 0 != 0)
        | 2 => isCtx0 n
        | 3 => isCtx0 n
        | _ => true
    | 0x0301 => (match c.region (fld a 9 0) with | some r => r.ctx == n | none => true)
    | 0x0501 => (match c.wset (BitVec.ofNat 16 (fld a 15 0)) with | some w => w.ctx == n | none => true)
    | 0x0502 => (match c.wset (BitVec.ofNat 16 (fld a 15 0)) with | some w => w.ctx == n | none => true)
    | 0x0503 => (match c.wset (BitVec.ofNat 16 (fld a 15 0)) with | some w => w.ctx == n | none => true)
    | 0x0601 => (match c.runOf (BitVec.ofNat 16 (fld a 15 0)) with | some r => r.ctx == n | none => true)
    | 0x0602 => (match c.runOf (BitVec.ofNat 16 (fld a 15 0)) with | some r => r.ctx == n | none => true)
    | 0x0702 => (match c.run with | some r => r.ctx == n | none => false)
    | _ => true

/-- Whether a closed context's command is accepted: ctx.open, dev.*, and ctx.close from ctx 0. -/
def Chip.openOk (c : Chip) (n op : Nat) : Bool := c.isOpen n || opAnyGen op || (op == 0x0201 && isCtx0 n)

/-- Whether the boot ROM runs the recovery service (R537). -/
def Chip.service (c : Chip) : Bool := c.boot.stage == 4
/-- Whether requests of a mailbox are served: the Keeper runs, or the recovery service serves the management mailbox. -/
def Chip.serves (c : Chip) (n : Nat) : Bool := c.keeper.state == .running || (c.service && n == 16)

/-- Steps 2 to 7 of R581: the status of the first that refuses, with its ERR_OFF. The recovery service refuses every command but
dev.query, dev.identity and sec.update (R537). -/
def Chip.refusal (c : Chip) (n : Nat) (q : Req) (headBad : Bool) : Option (W16 × W16) :=
  let op := q.opcode.toNat
  if c.service && !([0x0100, 0x0101, 0x0801].contains op) then some (stNotPermitted, 0xFFFF)
  else if !opKnown op then some (stBadArg, 0xFFFF)
  else if q.gen != (c.ctx n).gen && !opAnyGen op then some (stBadArg, 0xFFFF)
  else if (c.inFlight n).any (fun r => r.gen == q.gen && r.seq == q.seq) then some (stTagBusy, 0xFFFF)
  else if !c.issuerOk n q || !c.openOk n op then some (stNotPermitted, 0xFFFF)
  else if (c.ctx n).frozen && !opFrozen op then some (stFrozen, 0xFFFF)
  else if headBad then some (stBadArg, 0xFFFF)
  else match q.reserved with
    | some o => some (stBadArg, BitVec.ofNat 16 o)
    | none => none

/-- Entries of a request ring, from index n. -/
def ringRead (page : Memory) (n k : Nat) : List Byte := (List.range k).flatMap (fun i => memRead 0 page ((n + i) % 64 * 64) 64)

/-- Whether the Keeper can read a request of a mailbox now (R433, R437): TAIL covers it whole, and none of the mailbox is started and
still running in the foreground, nor 32 in flight. -/
def Chip.canRead (c : Chip) (n : Nat) : Bool :=
  let x := c.ctx n
  let avail := (x.reqTail - x.reqHead).toNat
  let len := fld (wordAt (ringRead x.page x.reqHead.toNat 1) 0) 31 16
  c.serves n && x.cur.isNone && decide ((c.inFlight n).length < 32) && decide (1 ≤ avail) &&
    (decide (4032 < len) || decide (1 + cdiv len 64 ≤ avail))

/-- Whether a mailbox is the next in turn: no other that comes before it, after the one served last, can be read. -/
def Chip.inTurn (c : Chip) (n : Nat) : Bool :=
  let d := (n + 16 - c.keeper.turn) % 17
  !(List.range d).any (fun i => c.canRead ((c.keeper.turn + 1 + i) % 17))

/-- The next request of a mailbox's ring (R435): the request, its entries, whether its LENGTH is too long, and whether a reserved
field of its header is set or its REF is no multiple of 64. -/
def Chip.nextReq (c : Chip) (n : Nat) : Req × Nat × Bool × Bool :=
  let x := c.ctx n
  let h := ringRead x.page x.reqHead.toNat 1
  let w0 := wordAt h 0
  let len := fld w0 31 16
  let big := decide (4032 < len)
  let k := if big then 1 else 1 + cdiv len 64
  let q : Req := { opcode := BitVec.ofNat 16 (fld w0 63 48), gen := BitVec.ofNat 4 (fld w0 47 44), seq := BitVec.ofNat 12 (fld w0 43 32),
                   len := len, ref := wordAt h 8, refLen := BitVec.ofNat 32 (fld (wordAt h 16) 31 0),
                   payload := if big then [] else (ringRead x.page (x.reqHead.toNat + 1) (k - 1)).take len }
  let bad := fld w0 15 0 != 0 || fld (wordAt h 16) 63 32 != 0 || [3, 4, 5, 6, 7].any (fun i => wordAt h (8 * i) != 0) || q.ref.toNat % 64 != 0
  (q, k, big, bad)

/-- MAILBOX_REQUEST_READ: the Keeper reads the next request in ring order and applies R581's shared refusals in order. -/
def mailboxRequestRead (n : Nat) (c : Chip) : Chip :=
  if !c.canRead n || !c.inTurn n then c
  else
    let r := c.nextReq n
    let q := r.1
    let c := c.updCtx n (fun x => { x with reqHead := x.reqHead + BitVec.ofNat 32 r.2.1 })
    let c := { c with keeper := { c.keeper with turn := n } }
    if r.2.2.1 then c.respond n q stBadArg [] 0xFFFF 0
    else match c.refusal n q r.2.2.2 with
      | some s => c.respond n q s.1 [] s.2 0
      | none => c.updCtx n (fun x => { x with cur := some q })
/-- MAILBOX_REQUEST_READ. -/
def execMailboxRequestRead (who : Issuer) (s : State) : Host.Outcome State Fault Refusal := onChip (mailboxRequestRead (issuerNum who)) s

/-- Execute the request that a mailbox has had read, if it is of an opcode and passes a test, and it is served. -/
def Chip.onReq (n op : Nat) (k : Req → Bool) (f : Req → Chip → Chip) (c : Chip) : Chip :=
  match (c.ctx n).cur with
  | some q => if c.serves n && decide (q.opcode.toNat = op) && k q then f q c else c
  | none => c

/-- Answer the request in the foreground. -/
def Chip.answer (c : Chip) (n : Nat) (q : Req) (st : W16) (payload : List Byte) (errOff : W16) : Chip :=
  (c.updCtx n (fun x => { x with cur := none })).respond n q st payload errOff 0
/-- Answer it, having written bytes to REF. -/
def Chip.answerRef (c : Chip) (n : Nat) (q : Req) (st : W16) (payload : List Byte) (bytes : Nat) : Chip :=
  (c.updCtx n (fun x => { x with cur := none })).respond n q st payload 0xFFFF bytes
/-- Complete it with a status and no payload. -/
def Chip.refuse (c : Chip) (n : Nat) (q : Req) (st : W16) : Chip := c.answer n q st [] 0xFFFF
/-- Complete it with ST_OK. -/
def Chip.okay (c : Chip) (n : Nat) (q : Req) (ws : List W64) : Chip := c.answer n q stOk (wordsBytes ws) 0xFFFF

/-- It goes on in the background (R437). -/
def Chip.goBg (c : Chip) (n : Nat) (q : Req) (k : BgKind) : Chip :=
  let c := c.updCtx n (fun x => { x with cur := none })
  { c with keeper := { c.keeper with bgs := c.keeper.bgs ++ [⟨n, q, k, c.up⟩] } }

/-- The background request of a kind, if one runs. -/
def Chip.bgOf (c : Chip) (k : BgKind → Bool) : Option Bg := c.keeper.bgs.find? (fun b => k b.kind)

/-! ### Objects in use (R438) -/

/-- Whether a background request uses the ring. -/
def Chip.ringBusy (c : Chip) : Bool := (c.bgOf (fun k => match k with | .form _ => true | .slack _ => true | _ => false)).isSome
/-- Whether one uses a weight set. -/
def Chip.setBusy (c : Chip) (n : W16) : Bool :=
  (c.bgOf (fun k => match k with | .stage s _ => s == n | .verify s _ _ _ => s == n | _ => false)).isSome
/-- Whether one uses a codec slot. -/
def Chip.slotBusy (c : Chip) (n : Nat) : Bool := (c.bgOf (fun k => match k with | .table s _ _ => s == n | _ => false)).isSome
/-- Whether one uses a run. -/
def Chip.runBusy (c : Chip) (n : W16) : Bool :=
  (c.bgOf (fun k => match k with | .launch r => r == n | .cancel r => r == n | _ => false)).isSome
/-- Whether one uses a region: through a set of it that is being copied or read, or through the image being loaded. -/
def Chip.regionBusy (c : Chip) (r : Region) : Bool :=
  c.wsets.any (fun w => decide (w.region = r.num) && c.setBusy w.num) ||
  ((c.launching.toList ++ c.runs).any (fun x => c.runBusy x.num && overlap x.image x.size r.base r.size))

/-! ### Visibility (R489 to R491) -/

/-- Whether a mailbox may read a register of a block. -/
def Chip.sees (c : Chip) (n : Nat) (b : Blk) (o : Nat) : Bool :=
  if c.visOpen || n == 16 then true
  else match b with
    | .tile t => c.ownTile n t
    | .spd t => c.ownTile n t
    | .tide => true
    | .kpr => true
    | .tray => n == 0
    | .cdcMod => (c.cslot (o / 8)).owner == some n
    | _ => false

/-- A control-space word as cfg.read reads it: whether it is mapped, whether the issuer may read it, and its value. -/
def Chip.cfgWord (c : Chip) (j : Jtag) (n a : Nat) : Option (Bool × W64) :=
  if 0x10_0000 ≤ a ∧ a < 0x11_0000 then some (false, 0)
  else if 0x100_0000 ≤ a ∧ a < 0x120_0000 then some (c.visOpen || n == 16, wordAt (memRead 0 c.attWin (a - 0x100_0000) 8) 0)
  else match blkOf a, c.ctlWord j a with
    | some b, some v => some (c.sees n b.1 b.2, v)
    | _, _ => none

/-- CFG_READ: all words at one tide count. -/
def cfgRead (n : Nat) (j : Jtag) (q : Req) (c : Chip) : Chip :=
  let a := (q.w 0).toNat
  let k := fld (q.w 1) 8 0
  if a % 8 ≠ 0 then c.answer n q stBadArg [] 0
  else if k = 0 ∨ 504 < k then c.answer n q stBadArg [] 8
  else
    let ws := (List.range k).map (fun i => c.cfgWord j n (a + 8 * i))
    if ws.any (fun w => (w.map (fun x => !x.1)).getD false) then c.answer n q stNotPermitted [] 0
    else if ws.any (fun w => w.isNone) then c.answer n q stBounds [] 0
    else c.okay n q (ws.map (fun w => (w.map (fun x => x.2)).getD 0))
/-- CFG_READ. -/
def execCfgRead (who : Issuer) (s : State) : Host.Outcome State Fault Refusal :=
  onChipJ (fun j => Chip.onReq (issuerNum who) 0x0900 (fun _ => true) (cfgRead (issuerNum who) j)) s

/-! ### Register writes (R11, R85, R349, R571) -/

/-- TIDE_CTRL_WRITE: only while FREE; a reserved source code leaves its field as it was; the PLL locks as R36 picks. -/
def tideCtrl (v : W64) (c : Chip) : Chip :=
  let t := c.tide
  let pri := BitVec.ofNat 3 (fld v 10 8)
  let sec := BitVec.ofNat 3 (fld v 14 12)
  let t := { t with refOutEn := bit v 15, refSec := if sec = 6 then t.refSec else sec, refPri := if 6 ≤ pri.toNat then t.refPri else pri,
                    master := bit v 0 }
  { c with tide := { t with refActive := if t.pllLock then (t.pick).getD 7 else t.refActive } }

/-- A write of a KPR_TRAY register. -/
def trayReg (o : Nat) (v : W64) (c : Chip) : Chip :=
  let t := c.tray
  if o = 0 then { c with tray := { t with valid := BitVec.ofNat 16 (fld v 31 16), enable := bit v 4, self := BitVec.ofNat 4 (fld v 3 0) } }
  else if 0x40 ≤ o ∧ o < 0xC0 ∧ o % 8 = 0 then { c with tray := { t with rid := tblPut 0 t.rid ((o - 0x40) / 8) (BitVec.ofNat 16 (fld v 15 0)) } }
  else if 0x100 ≤ o ∧ o < 0x180 ∧ o % 8 = 0 then
    { c with tray := { t with bar2 := tblPut 0 t.bar2 ((o - 0x100) / 8) (BitVec.ofNat 32 (fld v 63 32)) } }
  else if 0x180 ≤ o ∧ o < 0x200 ∧ o % 8 = 0 then
    { c with tray := { t with bar4 := tblPut 0 t.bar4 ((o - 0x180) / 8) (BitVec.ofNat 24 (fld v 63 40)) } }
  else c

/-- PWR_CTRL: the ATTN_LED mode. -/
def pwrCtrl (v : W64) (c : Chip) : Chip := { c with pwr := { c.pwr with led := BitVec.ofNat 2 (fld v 1 0) } }

/-- A cfg.write's status and effect: each block's own rule. -/
def Chip.regWrite (c : Chip) (j : Jtag) (n a : Nat) (v : W64) : W16 × Chip :=
  if a % 8 ≠ 0 then (stBadArg, c)
  else if 0x10_0000 ≤ a ∧ a < 0x11_0000 then (stNotPermitted, c)
  else if 0x100_0000 ≤ a ∧ a < 0x120_0000 then (stOk, c)
  else match blkOf a, c.ctlWord j a with
    | some (.tide, 0), some _ => if c.tide.st == .free then (stOk, tideCtrl v c) else (stNotPermitted, c)
    | some (.tray, o), some _ => if isCtx0 n && c.run.isNone then (stOk, trayReg o v c) else (stNotPermitted, c)
    | some (.pwr, 8), some _ => if isCtx0 n then (stOk, pwrCtrl v c) else (stNotPermitted, c)
    | some b, some _ => (stOk, c.clear b.1 b.2 v)
    | _, _ => (stBounds, c)

/-- CFG_WRITE. -/
def cfgWrite (n : Nat) (j : Jtag) (q : Req) (c : Chip) : Chip :=
  let r := c.regWrite j n (q.w 0).toNat (q.w 1)
  r.2.answer n q r.1 [] (if r.1 = stOk then 0xFFFF else 0)
/-- CFG_WRITE. -/
def execCfgWrite (who : Issuer) (s : State) : Host.Outcome State Fault Refusal :=
  onChipJ (fun j => Chip.onReq (issuerNum who) 0x0901 (fun _ => true) (cfgWrite (issuerNum who) j)) s

/-- Whether an address is TIDE_CTRL, a KPR_TRAY register or PWR_CTRL, which have rows of their own. -/
def ownRow (a : Nat) : Bool := a == 0x20_0000 || (decide (0x20_2000 ≤ a) && decide (a < 0x20_3000)) || a == 0x20_5008

/-- REGISTER_WRITE: a write to a register with no row of its own. -/
def execRegisterWrite (who : Issuer) (a : Addr) (v : W64) (s : State) : Host.Outcome State Fault Refusal :=
  onChipJ (fun j => Chip.when (!ownRow a.toNat) (fun c => (c.regWrite j (issuerNum who) a.toNat v).2)) s
/-- TIDE_CTRL_WRITE. -/
def execTideCtrlWrite (who : Issuer) (v : W64) (s : State) : Host.Outcome State Fault Refusal :=
  onChipJ (fun j c => (c.regWrite j (issuerNum who) 0x20_0000 v).2) s
/-- KPR_TRAY_WRITE. -/
def execKprTrayWrite (who : Issuer) (off : BitVec 12) (v : W64) (s : State) : Host.Outcome State Fault Refusal :=
  onChipJ (fun j c => (c.regWrite j (issuerNum who) (0x20_2000 + off.toNat) v).2) s
/-- PWR_CTRL_WRITE. -/
def execPwrCtrlWrite (who : Issuer) (v : W64) (s : State) : Host.Outcome State Fault Refusal :=
  onChipJ (fun j c => (c.regWrite j (issuerNum who) 0x20_5008 v).2) s

/-! ### dev.query and contexts (R441, R442, R454) -/

/-- DEV_QUERY. -/
def devQuery (n : Nat) (q : Req) (c : Chip) : Chip :=
  let opened := maskOf 16 (fun i => (c.ctx i).opened)
  let m := c.ring.member
  c.okay n q [BitVec.ofNat 64 c.capacity, BitVec.ofNat 64 (c.capacity * 31 / 32 - 0x800_0000),
    mkWord [(32, 32, c.keeper.fwVersion.toNat), (16, 16, c.boot.set.version.toNat), (0, 16, opened)], c.tide.count,
    mkWord [(60, 4, c.pwr.ga.toNat), (56, 4, if m then c.ringNo.toNat else 0), (50, 6, if m then c.ring.pos.toNat else 0), (49, 1, b2n m),
      (46, 3, c.tide.st.code), (32, 8, (c.tiles.filter (fun e => e.2.st == .excluded)).length)]]
/-- DEV_QUERY. -/
def execDevQuery (who : Issuer) (s : State) : Host.Outcome State Fault Refusal :=
  onChip (Chip.onReq (issuerNum who) 0x0100 (fun _ => true) (devQuery (issuerNum who))) s

/-- CTX_OPEN: the profile in force, and the next generation; EVT_LOST starts again (R492). -/
def ctxOpen (n : Nat) (q : Req) (c : Chip) : Chip :=
  let p := BitVec.ofNat 2 (fld (q.w 0) 1 0)
  if p = 3 then c.answer n q stBadArg [] 0
  else if (c.ctx n).opened then c.refuse n q stBusy
  else
    let c := c.updCtx n (fun x => { x with opened := true, gen := x.gen + 1, evtLost := 0,
                                           compat := if p = 0 then c.boot.set.compat else p })
    c.okay n q [(c.ctx n).gen.setWidth 64]
/-- CTX_OPEN. -/
def execCtxOpen (who : Issuer) (s : State) : Host.Outcome State Fault Refusal :=
  onChip (Chip.onReq (issuerNum who) 0x0200 (fun _ => true) (ctxOpen (issuerNum who))) s

/-- Power down the groups of a tile that a mask does not name; their contents are lost (R232). -/
def Chip.dropGroups (c : Chip) (t : Nat) (keep : BitVec 8) : Chip :=
  let lost := (List.range 8).filter (fun g => (c.tile t).spd.powered.getLsbD g && !keep.getLsbD g)
  let c := lost.foldl (fun c g =>
    let a := t * 0x8_0000 + g * 0x1_0000
    { c with spdMem := tblClear c.spdMem a 0x1_0000, spdPoison := c.spdPoison.filter (fun w => !(within (w * 32) 32 a 0x1_0000)),
             spdErr := c.spdErr.filter (fun e => !(within (e.1 * 8) 8 a 0x1_0000)) }) c
  if lost.isEmpty then c else c.updTile t (fun x => { x with spd := { x.spd with powered := x.spd.powered &&& keep, retained := x.spd.retained &&& keep } })

/-- A tile unfrozen (R127, R262): its queue is discarded, its planes are invalid, TILE_FAULT is clear, its streams are closed. It runs
again only from the next launch or replay. -/
def Tile.unfrozen (x : Tile) : Tile :=
  let arr (a : Arr) : Arr := { a with p0 := { a.p0 with valid := false }, p1 := { a.p1 with valid := false }, queue := [] }
  { x with st := .idle, queue := [], a0 := arr x.a0, a1 := arr x.a1, a2 := arr x.a2, a3 := arr x.a3,
           faultId := 0, faultOp := 0, faultCause := 0, streams := [], sb := [], attns := [], dumps := [], watchHold := false,
           stop := none }

/-- Unfreeze a tile; after its run's end its groups go as R232 says. -/
def Chip.unfreezeTile (c : Chip) (t : Nat) : Chip :=
  let c := c.updTile t Tile.unfrozen
  if c.runsOn t then c else (c.updTile t (fun x => { x with streamLen := 0, fetched := 0 })).dropGroups t (c.tile t).retain

/-- Release a frozen master and raise UNFROZEN (R459): its source kind and the context whose ring takes it. -/
def Chip.unfrozen (c : Chip) (n kind id : Nat) (cause : Byte) : Chip :=
  let src : BitVec 4 := if kind = 0 then 1 else if kind = 1 then 5 else if kind = 2 then 3 else 6
  let tgt := if kind = 0 then c.lastRunCtx else if kind = 1 then id else 0
  let key := if kind = 1 then 6 * 4096 + id else if kind = 2 then 3 * 4096 + id else 7 * 4096 + id
  let c := if kind = 0 then c else { c with recov := { c.recov with stops := tblErase c.recov.stops key } }
  c.raise tgt 0x0706 src id (mkWord [(61, 3, kind), (49, 12, id), (45, 4, if n = 16 then 15 else n)]) (cause.setWidth 64)

/-- CTX_UNFREEZE: held until the master's harvest is stored (R514); a strait only at slack or with no run active (R422). -/
def ctxUnfreeze (n : Nat) (q : Req) (c : Chip) : Chip :=
  let kind := fld (q.w 0) 63 61
  let id := fld (q.w 0) 11 0
  if 3 < kind ∨ (kind = 1 ∧ 15 < id) ∨ (kind = 2 ∧ 3 < id) ∨ (kind = 3 ∧ 15 < id) then c.answer n q stBadArg [] 0
  else if c.harvQ.any (fun h => h.kind.toNat == kind && h.id.toNat == id) then c
  else match kind with
    | 0 =>
      let x := c.tile id
      if x.st ≠ .frozen then c.refuse n q stOk else ((c.unfreezeTile id).unfrozen n 0 id x.faultCause).refuse n q stOk
    | 1 =>
      let x := c.ctx id
      if !x.frozen then c.refuse n q stOk
      else ((c.updCtx id (fun x => { x with frozen := false, fcause := 0 })).unfrozen n 1 id x.fcause).refuse n q stOk
    | 2 =>
      let st := straitOf id
      let x := c.str st
      if !x.frozen then c.refuse n q stOk
      else if c.run.isSome && !c.slack.atSlack then c.refuse n q stNotAtSlack
      else ((c.updStr st (fun x => { x with frozen := false, faultCause := 0, faultType := 0, offend := [] })).unfrozen n 2 id x.faultCause).refuse n q stOk
    | _ =>
      if !c.tray.frozen.getLsbD id then c.refuse n q stOk
      else (({ c with tray := { c.tray with frozen := c.tray.frozen &&& ~~~(1#16 <<< id), offend := tblErase c.tray.offend id } }).unfrozen n 3 id 1).refuse n q stOk
/-- CTX_UNFREEZE. -/
def execCtxUnfreeze (who : Issuer) (s : State) : Host.Outcome State Fault Refusal :=
  onChip (Chip.onReq (issuerNum who) 0x0202 (fun _ => true) (ctxUnfreeze (issuerNum who))) s

/-! ### Memory (R283, R285, R288, R443) -/

/-- Ranges of LPDDR5X taken: regions and the tag areas of sealed ones. -/
def Chip.taken (c : Chip) : List (Nat × Nat) :=
  c.regions.flatMap (fun r => (r.base, r.size) :: (if r.sealedR then [(r.tags, r.size / 8)] else []))
/-- Whether a range is free of them. -/
def Chip.freeRange (c : Chip) (a n : Nat) : Bool := c.taken.all (fun r => !overlap a n r.1 r.2)

/-- The lowest free range of n bytes at a multiple of a unit: it starts at the base or where a taken range ends. -/
def Chip.lowest (c : Chip) (u n : Nat) : Option Nat :=
  let cands := lpBase :: c.taken.map (fun r => lpBase + cdiv (r.1 + r.2 - lpBase) u * u)
  (cands.filter (fun a => c.lpUser a n && c.freeRange a n)).foldl (fun (b : Option Nat) a => match b with
    | none => some a | some x => some (min x a)) none

/-- What is left of a range when another is removed from it. -/
def cutOut (a n : Nat) (m : Nat × Nat) : List (Nat × Nat) :=
  if !overlap a n m.1 m.2 then [m]
  else (if m.1 < a then [(m.1, a - m.1)] else []) ++ (if a + n < m.1 + m.2 then [(a + n, m.1 + m.2 - (a + n))] else [])

/-- Write a range of LPDDR5X to zero, clean, with every line and queued correction of it gone (R443, R276, R271); its contents are defined. -/
def Chip.zeroLp (c : Chip) (a n : Nat) : Chip :=
  let hit (g : Nat) : Bool := within (g * 64) 64 a n
  let one (x : Chan) : Chan :=
    { x with rmb := x.rmb.filter (fun l => !hit (l.2 - 1)), fills := x.fills.filter (fun e => !hit e.1), wb := x.wb.filter (fun g => !hit g), wbOrder := x.wbOrder.filter (fun g => !hit g) }
  { c with lpMem := tblClear c.lpMem a n, lpPoison := c.lpPoison.filter (fun g => !hit g), lpErr := c.lpErr.filter (fun e => !hit e.1),
           macBad := c.macBad.filter (fun g => !hit g), defined := c.defined.filter (fun g => !hit g),
           undef := c.undef.flatMap (fun r => (cutOut a n (r.1, r.2.1)).map (fun p => (p.1, p.2, r.2.2))), chans := c.chans.map (fun e => (e.1, one e.2)) }

/-- MEM_ALLOC. -/
def memAlloc (n : Nat) (q : Req) (c : Chip) : Chip :=
  let base := (q.w 0).toNat
  let sl := bit (q.w 1) 63
  let size := fld (q.w 1) 40 0
  if !c.boot.memOk then c.refuse n q stNotPermitted
  else if base % 0x40_0000 ≠ 0 then c.answer n q stBadArg [] 0
  else if size = 0 ∨ size % 0x40_0000 ≠ 0 then c.answer n q stBadArg [] 8
  else if base ≠ 0 ∧ !c.lpUser base size then c.answer n q stBounds [] 0
  else if !c.lpUser lpBase size then c.answer n q stBounds [] 8
  else
    let at_ := if base = 0 then c.lowest 0x40_0000 size else if c.freeRange base size then some base else none
    match at_ with
    | none => c.refuse n q stNoSpace
    | some a =>
      let num := ((List.range 1024).find? (fun k => (c.region k).isNone)).getD 1024
      let r : Region := { num := num, ctx := n, base := a, size := size, sealedR := sl, key := c.fresh.n, tags := 0 }
      let c' := { c with regions := c.regions ++ [{ r with sealedR := false }] }
      match (if sl then c'.lowest 0x8_0000 (size / 8) else some 0) with
      | none => c.refuse n q stNoSpace
      | some tags =>
        if num = 1024 ∨ (sl ∧ 256 ≤ (c.regions.filter (fun x => x.sealedR)).length) then c.refuse n q stNoSpace
        else
          let c := { c with regions := c.regions ++ [{ r with tags := tags }], fresh := ⟨c.fresh.n + 1⟩ }
          (c.zeroLp a size).okay n q [BitVec.ofNat 64 num, BitVec.ofNat 64 a]
/-- MEM_ALLOC. -/
def execMemAlloc (who : Issuer) (s : State) : Host.Outcome State Fault Refusal :=
  onChip (Chip.onReq (issuerNum who) 0x0300 (fun _ => true) (memAlloc (issuerNum who))) s

/-- Whether the active run uses a range through its image, berths or exports. -/
def Chip.runUses (c : Chip) (a n : Nat) : Bool :=
  match c.run with
  | none => false
  | some r => overlap a n r.image r.size || r.berths.any (fun b => overlap a n b.base b.size) || r.exports.any (fun x => overlap a n x.base x.size)

/-- Free a region: its keys and every mapping into it go with it (R288), and the contents of its place, and of its tags', are undefined from
then on (R443): nothing reads the plain bytes again. -/
def Chip.freeRegion (c : Chip) (r : Region) : Chip :=
  let c := c.zeroLp r.base r.size
  let c := if r.sealedR then c.zeroLp r.tags (r.size / 8) else c
  let c := { c with undef := (r.base, r.size, c.fresh.n) :: ((if r.sealedR then [(r.tags, r.size / 8, c.fresh.n)] else []) ++ c.undef),
                    fresh := ⟨c.fresh.n + 1⟩, regions := c.regions.filter (fun x => x.num != r.num) }
  c.updCtx r.ctx (fun x => { x with maps := x.maps.flatMap (cutOut r.base r.size) })

/-- MEM_FREE. -/
def memFree (n : Nat) (q : Req) (c : Chip) : Chip :=
  if !c.boot.memOk then c.refuse n q stNotPermitted
  else match c.region (fld (q.w 0) 9 0) with
    | none => c.answer n q stBadArg [] 0
    | some r =>
      if c.regionBusy r || c.wsets.any (fun w => decide (w.region = r.num)) || c.runUses r.base r.size then c.answer n q stBusy [] 0
      else (c.freeRegion r).refuse n q stOk
/-- MEM_FREE. -/
def execMemFree (who : Issuer) (s : State) : Host.Outcome State Fault Refusal :=
  onChip (Chip.onReq (issuerNum who) 0x0301 (fun _ => true) (memFree (issuerNum who))) s

/-- Tiles of the scratchpad window that a range touches. -/
def spdTiles (a n : Nat) : List Nat := unitsOf 0x8_0000 (a - spdBase) n

/-- MEM_MAP. -/
def memMap (n : Nat) (q : Req) (c : Chip) : Chip :=
  let a := (q.w 0).toNat
  let size := fld (q.w 1) 40 0
  if !c.boot.memOk then c.refuse n q stNotPermitted
  else if a % 64 ≠ 0 then c.answer n q stBadArg [] 0
  else if size = 0 ∨ size % 64 ≠ 0 then c.answer n q stBadArg [] 8
  else
    let spd := within a size spdBase 0x8000_0000
    let add (c : Chip) : Chip :=
      if 64 ≤ (c.ctx n).maps.length then c.refuse n q stNoSpace
      else (c.updCtx n (fun x => { x with maps := x.maps ++ [(a, size)] })).refuse n q stOk
    if spd then
      if (spdTiles a size).any c.excluded then c.answer n q stBounds [] 0
      else if c.ctxs.any (fun e => e.1 != n && e.2.maps.any (fun m => overlap a size m.1 m.2)) then c.answer n q stNotPermitted [] 0
      else add c
    else if !c.lpUser a size then c.answer n q stBounds [] 0
    else if !covered (c.ctxRegions n) a size then c.answer n q stNotPermitted [] 0
    else add c
/-- MEM_MAP: mem.map with UNMAP 0. -/
def execMemMap (who : Issuer) (s : State) : Host.Outcome State Fault Refusal :=
  onChip (Chip.onReq (issuerNum who) 0x0302 (fun q => !bit (q.w 1) 63) (memMap (issuerNum who))) s

/-- Whether a context's active run uses a range: its image, handles, codec windows, exports or berths. -/
def Chip.ctxRunUses (c : Chip) (n a len : Nat) : Bool :=
  match c.run with
  | none => false
  | some r => r.ctx == n && (c.runUses a len || r.meetsWin a len || r.tiles.any (fun t => (List.range 64).any (fun k =>
      let h := (c.tile t).hnd k
      (h.kind == 1 || h.kind == 2) && overlap a len (if h.kind = 1 then spdBase + t * 0x8_0000 + h.base else h.base) h.size)))

/-- MEM_UNMAP: also where it reaches the unpopulated range it completes with ST_BOUNDS (R2). -/
def memUnmap (n : Nat) (q : Req) (c : Chip) : Chip :=
  let a := (q.w 0).toNat
  let size := fld (q.w 1) 40 0
  if !c.boot.memOk then c.refuse n q stNotPermitted
  else if a % 64 ≠ 0 then c.answer n q stBadArg [] 0
  else if size = 0 ∨ size % 64 ≠ 0 then c.answer n q stBadArg [] 8
  else if c.unpopulated a size then c.answer n q stBounds [] 0
  else
    let ms := (c.ctx n).maps
    let new := ms.flatMap (cutOut a size)
    if !ms.any (fun m => overlap a size m.1 m.2) then c.refuse n q stOk
    else if c.ctxRunUses n a size then c.answer n q stBusy [] 0
    else if 64 < new.length then c.refuse n q stNoSpace
    else (c.updCtx n (fun x => { x with maps := new })).refuse n q stOk
/-- MEM_UNMAP: mem.map with UNMAP 1. -/
def execMemUnmap (who : Issuer) (s : State) : Host.Outcome State Fault Refusal :=
  onChip (Chip.onReq (issuerNum who) 0x0302 (fun q => bit (q.w 1) 63) (memUnmap (issuerNum who))) s

end Sys2Proof.Machine
end

