-- ==== Sys2Proof/Machine/Ring.lean ====
section
/-! DEFINITION. The ring commands that store a plan, form, join, re-orient and leave a ring, and request a slack (R45, R56, R57, R78, R82,
R418, R441, R445, R484, R532). -/
namespace Sys2Proof.Machine

/-- RING_PLAN: checked, and stored in both copies; only while no ring is formed or the ring is at slack. -/
def ringPlan (n : Nat) (busErr : Bool) (q : Req) (c : Chip) : Chip :=
  if c.ringBusy then c.refuse n q stBusy
  else if c.ring.member && !c.slack.atSlack then c.refuse n q stNotAtSlack
  else if busErr then c.refuse n q stBounds
  else
    let bs := c.hostRead q.ref.toNat (min q.refLen.toNat 4160)
    if q.ref = 0 ∨ q.refLen.toNat < 64 ∨ q.refLen.toNat ≠ 64 + 64 * planN bs then c.refuse n q stBadArg
    else if planReserved bs || !(planOf bs).ok c.boot.serial then c.refuse n q stBadArg
    else (c.storePlan bs).refuse n q stOk
/-- RING_PLAN. -/
def execRingPlan (who : Issuer) (busErr : Bool) (s : State) : Host.Outcome State Fault Refusal :=
  onChip (Chip.onReq (issuerNum who) 0x0400 (fun _ => true) (ringPlan (issuerNum who) busErr)) s

/-- Accept a command that formation serves. A module without identity is refused (R532), and one that holds no plan it appears in
(log 25). -/
def acceptForm (kind : FormKind) (hold : Chip → Bool) (n : Nat) (busErr : Bool) (q : Req) (c : Chip) : Chip :=
  if !c.boot.identityOk then c.refuse n q stNotPermitted
  else if c.ringBusy then c.refuse n q stBusy
  else if hold c then c.refuse n q stNotAtSlack
  else match c.ring.plan with
    | none => c.refuse n q stPlanMismatch
    | some p => match p.posOf c.boot.serial with
      | none => c.refuse n q stPlanMismatch
      | some pos => (c.goBg n q (.form busErr)).startForm kind p pos

/-- RING_FORM: on a ring that is formed, not while a run is active (R484). -/
def ringForm (n : Nat) (busErr : Bool) (q : Req) (c : Chip) : Chip := acceptForm .form (fun c => c.ring.member && c.run.isSome) n busErr q c
/-- RING_FORM. -/
def execRingForm (who : Issuer) (busErr : Bool) (s : State) : Host.Outcome State Fault Refusal :=
  onChip (Chip.onReq (issuerNum who) 0x0401 (fun _ => true) (ringForm (issuerNum who) busErr)) s

/-- RING_JOIN: not while a run is active (R484). -/
def ringJoin (n : Nat) (busErr : Bool) (q : Req) (c : Chip) : Chip := acceptForm .join (fun c => c.run.isSome) n busErr q c
/-- RING_JOIN. -/
def execRingJoin (who : Issuer) (busErr : Bool) (s : State) : Host.Outcome State Fault Refusal :=
  onChip (Chip.onReq (issuerNum who) 0x0402 (fun _ => true) (ringJoin (issuerNum who) busErr)) s

/-- RING_ORIENT: a formation of the ring again, not while a run is active (R484; DEDUCED, log 124). -/
def ringOrient (n : Nat) (busErr : Bool) (q : Req) (c : Chip) : Chip := acceptForm .orient (fun c => c.run.isSome) n busErr q c
/-- RING_ORIENT. -/
def execRingOrient (who : Issuer) (busErr : Bool) (s : State) : Host.Outcome State Fault Refusal :=
  onChip (Chip.onReq (issuerNum who) 0x0406 (fun _ => true) (ringOrient (issuerNum who) busErr)) s

/-- RING_LEAVE: the module is no member of a ring, and the time base is FREE; its count is local again (R57). -/
def ringLeave (n : Nat) (q : Req) (c : Chip) : Chip :=
  if c.ringBusy then c.refuse n q stBusy
  else if c.run.isSome && !c.slack.atSlack then c.refuse n q stNotAtSlack
  else
    let free := c.tide.st == .aligned || c.tide.st == .holdover || c.tide.st == .lost
    let c := { c with ring := { c.ring with form := .none, member := false, inForce := none, line := false, brk := 0 },
                      tide := { c.tide with st := if free then .free else c.tide.st } }
    c.clearSlack.refuse n q stOk
/-- RING_LEAVE. -/
def execRingLeave (who : Issuer) (s : State) : Host.Outcome State Fault Refusal :=
  onChip (Chip.onReq (issuerNum who) 0x0403 (fun _ => true) (ringLeave (issuerNum who))) s

/-- RING_SLACK: a scheduled slack is requested, and the cut mark is answered once it is known. A slack
whose cut is chosen is joined (R82). At slack the request has no effect on the ring, and is answered with the mark at which the ring is held
and the present count as T_REQ (DESIGN CHOICE, log 83). -/
def ringSlack (n : Nat) (q : Req) (c : Chip) : Chip :=
  if c.tide.st ≠ .aligned ∧ c.tide.st ≠ .holdover then c.refuse n q stNotPermitted
  else if c.ringBusy then c.refuse n q stBusy
  else if c.slack.atSlack then c.okay n q [c.slack.heldS, c.tide.count]
  else match c.slack.cut with
    | some s => (c.requestSlack .cmd).okay n q [s, c.tide.count]
    | none => (c.goBg n q (.slack c.tide.count)).requestSlack .cmd
/-- RING_SLACK. -/
def execRingSlack (who : Issuer) (s : State) : Host.Outcome State Fault Refusal :=
  onChip (Chip.onReq (issuerNum who) 0x0404 (fun _ => true) (ringSlack (issuerNum who))) s

end Sys2Proof.Machine
end

