-- ==== Sys2Proof/Machine/Image.lean ====
section
/-! DEFINITION. Program images in memory (R447, R448) and the checks of run.launch in their order (R449, with R64, R68, R87, R88, R94,
R100, R107, R113, R157, R209, R229 to R231, R240, R324, R351, R354, R424, R463, R465). -/
namespace Sys2Proof.Machine

/-! ### The image (R447, R448) -/

/-- A 64-bit word in memory. -/
def Chip.rd (c : Chip) (a : Nat) : W64 := wordAt (c.bytes a 8) 0

/-- Offset of section k of the image at a. -/
def Chip.secOff (c : Chip) (a k : Nat) : Nat := (c.rd (a + 0x40 + 16 * k)).toNat
/-- Entries in section k. -/
def Chip.secCount (c : Chip) (a k : Nat) : Nat := fld (c.rd (a + 0x48 + 16 * k)) 31 0
/-- Bytes of an entry of section k. -/
def secEntry (k : Nat) : Nat := if k = 0 then 64 else if k = 3 then 2 else if k = 4 then 8 else 16
/-- Bytes of section k. -/
def Chip.secLen (c : Chip) (a k : Nat) : Nat := c.secCount a k * secEntry k
/-- SIZE. -/
def Chip.imgSize (c : Chip) (a : Nat) : Nat := (c.rd (a + 8)).toNat
/-- Word 0x10 of the header. -/
def Chip.imgWord (c : Chip) (a : Nat) : W64 := c.rd (a + 0x10)

/-- n 32-bit entries of a list. -/
def Chip.list32 (c : Chip) (a n : Nat) : List Nat := (List.range n).map (fun i => leNat (c.bytes (a + 4 * i) 4))

/-- A schedule of an image: where its lists lie, its step boundaries and commit list, and whether it is a line schedule. -/
structure Sched where
  tiles   : Nat
  stepsAt : Nat
  nSteps  : Nat
  commitsAt : Nat
  nCommits : Nat
  berthsAt : Nat
  nBerths : Nat
  line    : Bool
  brk     : Nat
  bad     : Bool
deriving DecidableEq, Repr

/-- Schedule k of the image at a, its offsets turned into local addresses. -/
def Chip.sched (c : Chip) (a k : Nat) : Sched :=
  let e := a + c.secOff a 0 + 64 * k
  let w1 := c.rd (e + 0x10)
  let w2 := c.rd (e + 0x28)
  { tiles := a + (c.rd e).toNat, stepsAt := a + (c.rd (e + 8)).toNat, nSteps := fld w1 63 32, commitsAt := a + (c.rd (e + 0x18)).toNat,
    nCommits := fld w1 31 0, berthsAt := a + (c.rd (e + 0x20)).toNat, nBerths := fld w2 9 0, line := bit w2 63, brk := fld w2 62 57,
    bad := fld w2 56 10 != 0 || c.rd (e + 0x30) != 0 || c.rd (e + 0x38) != 0 }

/-- The schedules of an image. -/
def Chip.scheds (c : Chip) (a : Nat) : List Sched := (List.range (c.secCount a 0)).map (c.sched a)
/-- Its step boundaries. -/
def Chip.stepsOf (c : Chip) (s : Sched) : List Nat := c.list32 s.stepsAt s.nSteps
/-- Its commit list. -/
def Chip.commitsOf (c : Chip) (s : Sched) : List Nat := c.list32 s.commitsAt s.nCommits

/-- The address of a tile's record. -/
def recAt (s : Sched) (t : Nat) : Nat := s.tiles + 0x800 * t
/-- The tiles that have commands, in ascending index. -/
def Chip.usedTiles (c : Chip) (s : Sched) : List Nat := (List.range 4096).filter (fun t => bit (c.rd (recAt s t + 0x10)) 63)
/-- The address of a tile's stream, in the image at a. -/
def Chip.streamOf (c : Chip) (a : Nat) (s : Sched) (t : Nat) : Nat := a + (c.rd (recAt s t)).toNat
/-- LENGTH. -/
def Chip.lengthOf (c : Chip) (s : Sched) (t : Nat) : Nat := fld (c.rd (recAt s t + 8)) 31 0
/-- Word n of command i of a tile's stream. -/
def Chip.cmdOf (c : Chip) (a : Nat) (s : Sched) (t i n : Nat) : W64 := c.rd (c.streamOf a s t + 64 * i + 8 * n)
/-- Handle k of a tile's record. -/
def Chip.handleOf (c : Chip) (s : Sched) (t k : Nat) : W64 × W64 := (c.rd (recAt s t + 0x40 + 16 * k), c.rd (recAt s t + 0x48 + 16 * k))
/-- Sync entry k. -/
def Chip.syncOf (c : Chip) (s : Sched) (t k : Nat) : W64 := c.rd (recAt s t + 0x440 + 8 * k)

/-- Berth region r of a schedule; its first reservation is live from the launch (R101). An entry is a region of its own, with a succession of
its own, whatever memory other entries name (DESIGN CHOICE, log 92). -/
def Chip.berthOf (c : Chip) (s : Sched) (r : Nat) : Berth :=
  let e := s.berthsAt + 32 * r
  let w0 := c.rd e
  let w2 := c.rd (e + 0x10)
  let w3 := c.rd (e + 0x18)
  { west := bit w0 63, own := bit w0 62, base := fld w0 47 0, size := fld (c.rd (e + 8)) 40 0, stride := fld w2 47 32, first := fld w2 31 0,
    flen := fld w3 42 32, count := fld w3 31 0, cur := 0, st := if fld w3 31 0 = 0 then .released else .live, got := [], reads := [] }
/-- Reserved bits of its entry that are set. -/
def Chip.berthBad (c : Chip) (s : Sched) (r : Nat) : Bool :=
  let e := s.berthsAt + 32 * r
  fld (c.rd e) 61 48 != 0 || fld (c.rd (e + 8)) 63 41 != 0 || fld (c.rd (e + 0x10)) 63 48 != 0 || fld (c.rd (e + 0x18)) 63 43 != 0
/-- The berth regions of a schedule. -/
def Chip.berthsOf (c : Chip) (s : Sched) : List Berth := (List.range s.nBerths).map (c.berthOf s)

/-- An export entry. -/
def exportOf (w0 w1 : W64) : Export :=
  { tray := bit w0 63, x1 := bit w0 62, x0 := bit w0 61, w := bit w0 60, e := bit w0 59, write := bit w0 58, read := bit w0 57,
    accum := bit w0 56, attn := bit w0 55, base := fld w0 47 0, size := fld w1 40 0 }
/-- The words of entry i of section k, of 16 B entries. -/
def Chip.secPair (c : Chip) (a k i : Nat) : W64 × W64 := (c.rd (a + c.secOff a k + 16 * i), c.rd (a + c.secOff a k + 16 * i + 8))
/-- The words of a section of 16 B entries. -/
def Chip.secPairs (c : Chip) (a k : Nat) : List (W64 × W64) := (List.range (c.secCount a k)).map (c.secPair a k)
/-- The export list. -/
def Chip.exportsOf (c : Chip) (a : Nat) : List Export := (c.secPairs a 2).map (fun e => exportOf e.1 e.2)

/-- A codec window with its slot's current version (R323, R331). -/
def Chip.winOf (c : Chip) (e : W64 × W64) : CodecWin :=
  let slot := fld e.1 54 48
  { f8 := bit e.1 57, base := fld e.1 47 0, size := fld e.2 40 0, strait := if fld e.1 63 62 = 2 then some (straitOf (fld e.1 61 60)) else none,
    cslot := BitVec.ofNat 7 slot, cmode := BitVec.ofNat 2 (fld e.1 59 58), version := if (c.cslot slot).cur then 1 else 0 }
/-- The codec windows in use. -/
def Chip.winsOf (c : Chip) (a : Nat) : List CodecWin := ((c.secPairs a 1).filter (fun e => fld e.1 63 62 != 0)).map c.winOf

/-- The strait budgets (R111, R303). -/
def Chip.budgetsOf (c : Chip) (a : Nat) : List (Bool × Nat) :=
  (List.range (c.secCount a 4)).map (fun i => let w := c.rd (a + c.secOff a 4 + 8 * i); (bit w 63, fld w 31 0))

/-- The schedule that the ring selects (R107, R417): the ring schedule, or the line schedule of the break. -/
def Chip.selected (c : Chip) (a : Nat) : Option Sched :=
  if c.ring.line then (c.scheds a).find? (fun s => s.line && s.brk == c.ring.brk.toNat) else some (c.sched a 0)

/-- A launch or injection offset just past the last of the run's, and past its last step boundary: the run's end (R79; log 26). -/
def Chip.endOf (c : Chip) (a : Nat) (s : Sched) : Nat :=
  ((c.usedTiles s).foldl (fun m t => (List.range (c.lengthOf s t)).foldl (fun m i =>
    let w := c.cmdOf a s t i 0
    let m := max m (fld w 31 0)
    if fld w 63 56 = 0x43 then max m (fld (c.cmdOf a s t i 7) 63 32) else m) m) ((c.stepsOf s).getLastD 0)) + 1

/-! ### Poison found while the Keeper reads -/

/-- The Keeper reads a range of LPDDR5X: its latent errors and tag mismatches are met. -/
def Chip.scanLp (c : Chip) (a n : Nat) : Chip :=
  let gs := (c.lpErr.map (fun e => e.1)).filter (fun g => overlap (g * 64) 64 a n)
  let ms := c.macBad.filter (fun g => overlap (g * 64) 64 a n)
  ms.foldl (fun c g => c.lpMac g otherReader) (gs.foldl (fun c g => c.lpEcc g otherReader) c)

/-- Whether any granule of a range of LPDDR5X reads poisoned. -/
def Chip.poisonLp (c : Chip) (a n : Nat) : Bool := (c.lpPoison ++ c.macBad).any (fun g => overlap (g * 64) 64 a n)

/-! ### Checks 3 to 7 -/

/-- A check: it fails with a status and an ERR_OFF. -/
abbrev Check := Bool × W16 × W16

/-- The first check that fails. -/
def firstBad (cs : List Check) : Option (W16 × W16) := (cs.find? (fun k => k.1)).map (fun k => k.2)

/-- Ascending, each larger than the one before. -/
def rising : List Nat → Bool
  | a :: b :: r => decide (a < b) && rising (b :: r)
  | _ => true

/-- Ranges of an image by offset: the header and the sections. -/
def Chip.secRanges (c : Chip) (a : Nat) : List (Nat × Nat) := (0, 144) :: (List.range 5).map (fun k => (c.secOff a k, c.secLen a k))
/-- The lists that a schedule names, by local address. -/
def schedRanges (s : Sched) : List (Nat × Nat) :=
  [(s.tiles, 4096 * 0x800), (s.stepsAt, 4 * s.nSteps), (s.commitsAt, 4 * s.nCommits), (s.berthsAt, 32 * s.nBerths)]

/-- Check 3, first part: the range of the image, the poison of its header and sections, MAGIC, FORMAT and the limits. -/
def Chip.check3a (c : Chip) (n a : Nat) : Option (W16 × W16) :=
  let inOne (x len : Nat) : Bool := c.regions.any (fun r => r.ctx == n && within x len r.base r.size)
  let w := c.imgWord a
  if !inOne a 144 then some (stBounds, 0)
  else firstBad [
    (!inOne a (c.imgSize a) || (c.secRanges a).any (fun r => decide (c.imgSize a < r.1 + r.2)), stBounds, 0),
    ((c.secRanges a).any (fun r => c.poisonLp (a + r.1) r.2), stPoisoned, 0),
    (c.rd a != 0x4A42_5649_4D47_0001 || fld w 63 56 != 1 || fld w 34 0 != 0 || [3, 4, 5, 6, 7].any (fun i => c.rd (a + 8 * i) != 0), stBadArg, 0),
    ((List.range 5).any (fun k => c.secOff a k % 64 != 0) || c.secCount a 0 == 0 || decide (1 + fld w 49 43 < c.secCount a 0) ||
      decide (32 < c.secCount a 1) || decide (64 < c.secCount a 3) || decide (4 < c.secCount a 4), stBadArg, 0)]

/-- Check 3, second part: the lists of the schedules and the tiles' streams. -/
def Chip.check3b (c : Chip) (a : Nat) : Option (W16 × W16) :=
  let ss := c.scheds a
  let hi := a + c.imgSize a
  let lists := ss.flatMap schedRanges
  let out (r : Nat × Nat) : Bool := decide (hi < r.1 + r.2)
  match firstBad [
    (lists.any out, stBounds, 0),
    (lists.any (fun r => c.poisonLp r.1 r.2), stPoisoned, 0),
    (ss.any (fun s => s.bad || s.nSteps == 0 || !rising (c.stepsOf s)) || lists.any (fun r => (r.1 - a) % 64 != 0), stBadArg, 0)] with
  | some e => some e
  | none => firstBad [
    (ss.any (fun s => (c.usedTiles s).any (fun t => out (c.streamOf a s t, 64 * c.lengthOf s t))), stBounds, 0),
    (ss.any (fun s => (c.usedTiles s).any (fun t => (c.streamOf a s t - a) % 64 != 0)), stBadArg, 0)]

/-- The number of the last step of every earlier run is below F (R94). -/
def Chip.afterRuns (c : Chip) (f : Nat) : Bool := c.runs.all (fun r => decide (r.first.toNat + r.steps.length - 1 < f))

/-- Cross straits that an image uses (R424): by an export, a strait window, or a DMA, SIGNAL or ATTN_Q routed through it. -/
def Chip.crossUsed (c : Chip) (a : Nat) (x1 : Bool) : Bool :=
  let code := if x1 then 7 else 6
  (c.exportsOf a).any (fun e => if x1 then e.x1 else e.x0) ||
  (c.winsOf a).any (fun w => w.strait == some (if x1 then Strait.x1 else .x0)) ||
  (c.scheds a).any (fun s => (c.usedTiles s).any (fun t => (List.range (c.lengthOf s t)).any (fun i =>
    let op := fld (c.cmdOf a s t i 0) 63 56
    (op == 0x40 && fld (c.cmdOf a s t i 4) 55 53 == code) || (op == 0x02 && fld (c.cmdOf a s t i 2) 63 61 == code) ||
    (op == 0x50 && fld (c.cmdOf a s t i 4) 63 61 == code))))

/-- The COMPAT profile in force for a context (R230). -/
def Chip.profile (c : Chip) (n : Nat) : BitVec 2 := if (c.ctx n).compat = 0 then c.boot.set.compat else (c.ctx n).compat

/-- ROLE of the plan of the ring that is formed. -/
def Chip.planRole (c : Chip) : Nat := match c.ring.inForce with | some p => p.role.toNat | none => 3

/-- Check 5: the ring's size and role, stagger, profile, exclusions, the line schedule, and cross straits. -/
def Chip.check5 (c : Chip) (n a : Nat) : Option (W16 × W16) :=
  let w := c.imgWord a
  match c.selected a with
  | none => some (stPlanMismatch, 0)
  | some _ => firstBad [
    (fld w 49 43 != c.ringSize || fld w 51 50 != c.planRole, stPlanMismatch, 0),
    (fld w 51 50 == 2 && (c.scheds a).any (fun s => s.nBerths != 0), stPlanMismatch, 0),
    (fld w 42 35 != c.tide.stagger.toNat, stPlanMismatch, 0),
    (fld w 54 53 != (c.profile n).toNat, stPlanMismatch, 0),
    ((c.scheds a).any (fun s => (c.usedTiles s).any c.excluded), stPlanMismatch, 0),
    (c.crossUsed a false && c.strs.x0.train != .up, stPlanMismatch, 0),
    (c.crossUsed a true && c.strs.x1.train != .up, stPlanMismatch, 0)]

/-- The set that a launch binds (R113): the current one, or the pending one if B has reached its effect mark. -/
def Chip.boundSet (c : Chip) (n : Nat) (b : W64) : Option W16 :=
  match (c.ctx n).pendSet with
  | some (s, e) => if e.toNat ≤ b.toNat then some s else (c.ctx n).curSet
  | none => (c.ctx n).curSet

/-- Check 6. -/
def Chip.check6 (c : Chip) (n a : Nat) (b : W64) : Bool :=
  match c.boundSet n b with
  | some s => match c.wset s with | some w => w.resident && w.verified | none => false
  | none => (c.scheds a).all (fun s => s.nBerths == 0)

/-- Whether a context maps a range: its regions and its mappings. -/
def Chip.mapsRange (c : Chip) (n a len : Nat) : Bool := covered (c.ctxRegions n ++ (c.ctx n).maps) a len

/-- Whether two progressions of step indices hold entries less than two steps apart. -/
def stepsClose (f1 s1 c1 f2 s2 c2 : Nat) : Bool :=
  (List.range c1).any (fun i =>
    let x := f1 + i * s1
    decide (0 < c2) && decide (f2 ≤ x + 1) && decide (x ≤ f2 + min (c2 - 1) ((x + 1 - f2) / s2) * s2 + 1))

/-- Two berth regions that may not stand together (R100). -/
def berthClash (x y : Berth) : Bool :=
  overlap x.base x.size y.base y.size && stepsClose x.first x.stride x.count y.first y.stride y.count

/-- Pairs of a list, each earlier with each later. -/
def anyPair {α : Type} (p : α → α → Bool) : List α → Bool
  | [] => false
  | x :: r => r.any (p x) || anyPair p r

/-- A region that holds a commit berth of boundary k has a later reservation before the next boundary (R465). -/
def commitClash (commits : List Nat) (nSteps : Nat) (b : Berth) : Bool :=
  (commits.zip (commits.drop 1 ++ [nSteps])).any (fun e =>
    let k := e.1
    decide (0 < k) && decide (b.first ≤ k - 1) && (k - 1 - b.first) % b.stride == 0 && decide ((k - 1 - b.first) / b.stride + 1 < b.count) &&
      decide (k - 1 + b.stride < e.2))

/-- Check 7: berths and commit lists. Form and lists are checked in every schedule, places and clashes in the selected one, whose
reservations the launch makes (DESIGN CHOICE, log 90). -/
def Chip.check7 (c : Chip) (n a : Nat) : Option (W16 × W16) :=
  let ss := c.scheds a
  let s0 := c.sched a 0
  let lists := firstBad [
    (ss.any (fun s => decide (512 < s.nBerths)), stNoSpace, 0),
    (ss.any (fun s => (List.range s.nBerths).any (fun r => c.berthBad s r) || (c.berthsOf s).any (fun b =>
      b.flen == 0 || decide (1024 < b.flen) || b.size % 64 != 0 || b.size == 0 || decide (b.stride < 2))), stBadArg, 0),
    (ss.any (fun s => !rising (c.commitsOf s) || (c.commitsOf s).any (fun k => decide (s.nSteps ≤ k)) ||
      (s.line && c.commitsOf s != c.commitsOf s0)), stBadArg, 0)]
  match lists with
  | some e => some e
  | none => match c.selected a with
    | none => none
    | some s =>
      let bs := c.berthsOf s
      let win (b : Berth) : Bool := within b.base b.size spdBase 0x8000_0000 || within b.base b.size lpBase 0x0100_0000_0000
      let ok (b : Berth) : Bool := c.mapsRange n b.base b.size &&
        (if inSpd b.base then !(spdTiles b.base b.size).any c.excluded else c.lpUser b.base b.size)
      firstBad [
        (bs.any (fun b => !win b), stBadArg, 0),
        (bs.any (fun b => !ok b), stBounds, 0),
        (bs.any (fun b => overlap b.base b.size a (c.imgSize a)), stBadArg, 0),
        (bs.any (fun b => (c.exportsOf a).any (fun x => x.write && overlap b.base b.size x.base x.size)), stBadArg, 0),
        (anyPair berthClash bs, stBadArg, 0),
        (bs.any (commitClash (c.commitsOf s) s.nSteps), stBadArg, 0)]

/-! ### Check 8: tile records (R209, R229, R231, R354) -/

/-- A field is set that the KIND or MAP excludes, or a reserved one, or SIZE is no non-zero multiple of 64 (first row of R209). -/
def handleForm (e : W64 × W64) : Bool :=
  let h := hndOf e
  fld e.2 53 52 != 0 || fld e.2 47 41 != 0 ||
  (if h.kind = 0 then e.1 != 0 || e.2 != 0
   else decide (2 ≤ h.map) || (h.kind != 1 && (h.map != 0 || h.aow)) || (h.aow && h.map != 0) || (!h.aow && (h.int32 || h.ncon != 0)) ||
     (h.ncon == 0 && h.hold != 0) || (h.kind == 1 && decide (0x8_0000 ≤ h.base)) || (h.map != 1 && h.pitch != 0) ||
     (h.kind != 3 && h.slot != 0) || h.size == 0 || h.size % 64 != 0)

/-- The rows of R209 that concern one entry, in table order. -/
def Chip.handleChecks (c : Chip) (n : Nat) (power : BitVec 8) (e : W64 × W64) : List Check :=
  let h := hndOf e
  let far := h.kind == 2 || h.kind == 3
  let win := within h.base h.size spdBase 0x8000_0000 || within h.base h.size lpBase 0x0100_0000_0000
  [(handleForm e, stBadArg, 0),
   (h.kind == 1 && (h.base % 64 != 0 || h.size % 64 != 0 || decide (0x8_0000 < h.base + h.size)), stBadArg, 0),
   (h.map == 1 && (h.base % 1024 != 0 || h.size % 1024 != 0 || h.pitch == 0 || decide (512 < h.pitch)), stBadArg, 0),
   (h.kind == 1 && (unitsOf 0x1_0000 h.base h.size).any (fun g => !power.getLsbD g), stBadArg, 0),
   (far && !win, stBadArg, 0),
   (far && (!c.mapsRange n h.base h.size || (inSpd h.base && (spdTiles h.base h.size).any c.excluded) ||
      (inLp h.base && !c.lpUser h.base h.size)), stBounds, 0)]

/-- The local range of a handle of a tile: that of a tray handle which names this module's own slot, `self`, is local too (R346). -/
def Hnd.place (h : Hnd) (self t : Nat) : Nat × Nat :=
  if h.kind = 1 then (spdBase + t * 0x8_0000 + h.base, h.size)
  else if h.kind = 2 ∨ (h.kind = 3 ∧ h.slot = self) then (h.base, h.size) else (0, 0)

/-- The rows of R209 that concern the table as a whole. -/
def tableChecks (self t : Nat) (hs : List Hnd) : List Check :=
  let get (k : Nat) : Hnd := hs.getD k (hndOf (0, 0))
  let ix := List.range 64
  let aow := ix.filter (fun k => (get k).aow)
  let meets (p q : Nat × Nat) : Bool := overlap p.1 p.2 q.1 q.2
  let holdRange (h : Hnd) : Nat × Nat := (((get h.hold).place self t).1, h.ncon * h.size)
  [(decide (4 < aow.length), stBadArg, 0),
   (aow.any (fun k => let h := get k
      h.ncon != 0 && ((get h.hold).kind != 1 || (get h.hold).map != 0 || decide ((get h.hold).size < h.ncon * h.size))), stBadArg, 0),
   (aow.any (fun k => let h := get k
      let own := h.ncon != 0
      ix.any (fun j => j != k && !(own && j == h.hold) && (meets (h.place self t) ((get j).place self t) ||
        (own && meets (holdRange h) ((get j).place self t)))) || (own && meets (holdRange h) (h.place self t))), stBadArg, 0)]

/-- The rows of R209 on the handle table of tile t's record at e: those of one entry, then those of the whole table. -/
def Chip.handleRows (c : Chip) (n e t : Nat) : List Check :=
  let es := (List.range 64).map (fun k => (c.rd (e + 0x40 + 16 * k), c.rd (e + 0x48 + 16 * k)))
  es.flatMap (c.handleChecks n (BitVec.ofNat 8 (fld (c.rd (e + 0x10)) 7 0))) ++ tableChecks c.tray.self.toNat t (es.map hndOf)

/-- Check 8 for one tile: handles, the table, the masks, the sync table, and the record's reserved fields. -/
def Chip.tileChecks (c : Chip) (n : Nat) (native : Bool) (s : Sched) (t : Nat) : List Check :=
  let w := c.rd (recAt s t + 0x10)
  let power := BitVec.ofNat 8 (fld w 7 0)
  let keep := BitVec.ofNat 8 (fld w 15 8)
  let retain := BitVec.ofNat 8 (fld w 23 16)
  let x := c.tile t
  c.handleRows n (recAt s t) t ++
  [((keep ||| retain) &&& ~~~power != 0 || (native && (keep ||| retain) != 0), stBadArg, 0),
   (keep &&& ~~~(if x.lastCtx = n then x.spd.retained else 0) != 0, stPlanMismatch, 0),
   ((List.range 48).any (fun k => fld (c.syncOf s t k) 63 34 != 0), stBadArg, 0),
   (fld (c.rd (recAt s t + 8)) 63 32 != 0 || fld w 61 24 != 0 || [3, 4, 5, 6, 7].any (fun i => c.rd (recAt s t + 8 * i) != 0) ||
     (List.range 72).any (fun i => c.rd (recAt s t + 0x5C0 + 8 * i) != 0), stBadArg, 0)]

/-- Check 8: every tile record of the schedule, of tiles without commands too, in ascending tile index. -/
def Chip.check8 (c : Chip) (n a : Nat) (s : Sched) : Option (W16 × W16) :=
  let native := fld (c.imgWord a) 54 53 == 1
  (List.range 4096).findSome? (fun t => firstBad (c.tileChecks n native s t))

/-! ### Check 9: codec windows and exports (R324, R348, R351) -/

/-- The rows of R324. -/
def Chip.winChecks (c : Chip) (n a : Nat) (b : W64) (s : Sched) : List Check :=
  let es := (c.secPairs a 1).filter (fun e => fld e.1 63 62 != 0)
  let base (e : W64 × W64) : Nat := fld e.1 47 0
  let size (e : W64 × W64) : Nat := fld e.2 40 0
  let chan (e : W64 × W64) : Bool := fld e.1 63 62 == 1
  let place (e : W64 × W64) : Nat := fld e.1 63 60
  let chans := es.filter chan
  let shard := match c.boundSet n b with | some k => (match c.wset k with | some w => [(w.base, w.len)] | none => []) | none => []
  let held := (c.berthsOf s).map (fun x => (x.base, x.size)) ++ shard
  [(es.any (fun e => fld e.1 63 62 == 3 || (chan e && fld e.1 61 60 != 0) || bit e.1 55 || fld e.2 63 41 != 0 || fld e.1 59 58 == 0 ||
      (bit e.1 57 && fld e.1 59 58 == 1) || base e % 4096 != 0 || size e % 4096 != 0 || size e == 0), stBadArg, 0),
   (anyPair (fun x y => place x == place y && overlap (base x) (size x) (base y) (size y)) es, stBadArg, 0),
   (chans.any (fun e => !covered (c.ctxRegions n) (base e) (size e)), stBounds, 0),
   (chans.any (fun e => c.regions.any (fun r => r.sealedR && overlap (base e) (size e) r.base r.size)), stBadArg, 0),
   (chans.any (fun e => !bit e.1 56 && held.any (fun r => overlap (base e) (size e) r.1 r.2)), stBadArg, 0),
   (es.any (fun e => let k := c.cslot (fld e.1 54 48)
      k.owner != some n || !k.curValid || tabMode (k.tab k.cur) != fld e.1 59 58), stNotPermitted, 0)]

/-- Whether an export lies where R351 allows. -/
def Chip.exportPlace (c : Chip) (n : Nat) (used : List Nat) (x : Export) : Bool :=
  if inLp x.base then c.regions.any (fun r => r.ctx == n && within x.base x.size r.base r.size)
  else if inSpd x.base then within x.base x.size spdBase 0x8000_0000 && (spdTiles x.base x.size).all (fun t => used.contains t)
  else inPorts x.base && within x.base x.size 0x6000_0000 0x20_0000 &&
    (unitsOf 0x200 (x.base - 0x6000_0000) x.size).all (fun t => used.contains t)

/-- The rows of R351. -/
def Chip.exportChecks (c : Chip) (n a : Nat) (s : Sched) : List Check :=
  let es := c.secPairs a 2
  let xs := c.exportsOf a
  let used := c.usedTiles s
  let al (x : Export) : Nat := if inPorts x.base then 8 else 64
  [(decide (64 < es.length), stNoSpace, 0),
   (es.any (fun e => fld e.1 54 48 != 0 || fld e.2 63 41 != 0) || xs.any (fun x => !(x.tray || x.x1 || x.x0 || x.w || x.e) ||
      !(x.write || x.read || x.attn) || (x.accum && !x.write) || x.size == 0), stBadArg, 0),
   (xs.any (fun x => x.base % al x != 0 || x.size % al x != 0), stBadArg, 0),
   (xs.any (fun x => (x.attn && !within x.base x.size lpBase 0x0100_0000_0000) || (x.accum && !within x.base x.size spdBase 0x8000_0000)), stBadArg, 0),
   (xs.any (fun x => !c.exportPlace n used x), stBounds, 0),
   (xs.any (fun x => x.write && (c.berthsOf s).any (fun b => overlap b.base b.size x.base x.size)) ||
      anyPair (fun x y => x.write && y.write && overlap x.base x.size y.base y.size) xs, stBadArg, 0)]

/-- Tray names (R348). -/
def Chip.trayChecks (c : Chip) (s : Sched) : List Check :=
  [((c.usedTiles s).any (fun t => (List.range 64).any (fun k => let h := hndOf (c.handleOf s t k); h.kind == 3 && c.trayRefuses h.slot)),
    stBounds, 0)]

/-! ### All checks -/

/-- Checks 1 to 9 of R449, the first that fails. -/
def Chip.launchRefusal (c : Chip) (n : Nat) (q : Req) : Option (W16 × W16) :=
  let a := (q.w 0).toNat
  let b := q.w 1
  let one := firstBad [
    (c.tide.st != .aligned && c.tide.st != .holdover, stNotPermitted, 0xFFFF),
    (c.run.isSome || c.launching.isSome, stBusy, 0xFFFF)]
  let after (x : Option (W16 × W16)) (f : Unit → Option (W16 × W16)) : Option (W16 × W16) := match x with | some e => some e | none => f ()
  after one (fun _ => after (c.check3a n a) (fun _ => after (c.check3b a) (fun _ =>
    after (firstBad [(decide (b.toNat < c.now + 1175), stBadArg, 8), (!c.afterRuns (q.w 2).toNat, stBadArg, 16)]) (fun _ =>
    after (c.check5 n a) (fun _ =>
    after (firstBad [(!c.check6 n a b, stNotPermitted, 0xFFFF)]) (fun _ =>
    after (c.check7 n a) (fun _ => match c.selected a with
      | none => none
      | some s => after (c.check8 n a s) (fun _ => firstBad (c.winChecks n a b s ++ c.exportChecks n a s ++ c.trayChecks s)))))))))

/-- The run that an accepted launch describes. -/
def Chip.runFrom (c : Chip) (n : Nat) (q : Req) : Option Run :=
  let a := (q.w 0).toNat
  let w := c.imgWord a
  (c.selected a).map (fun s =>
    { num := c.keeper.nextRun, ctx := n, image := a, size := c.imgSize a, base := q.w 1, first := q.w 2, seed := q.w 3, det := bit w 55,
      compat := BitVec.ofNat 2 (fld w 54 53), grid := bit w 52, role := BitVec.ofNat 2 (fld w 51 50), line := s.line, brk := BitVec.ofNat 6 s.brk,
      tilesOff := s.tiles, steps := c.stepsOf s, commits := c.commitsOf s, endOff := c.endOf a s, berths := c.berthsOf s,
      exports := c.exportsOf a, wins := c.winsOf a, budget := c.budgetsOf a, tiles := c.usedTiles s, set := c.boundSet n (q.w 1), digest := [],
      state := .waiting, reached := 0, committed := 0, reported := 0, baseSeen := false, cancelling := false })

end Sys2Proof.Machine
end

