-- ==== Sys2Proof/Machine/Runs.lean ====
section
/-! DEFINITION. Launching a run and loading its tiles (R64, R94, R113, R118, R123, R125, R133, R207, R230 to R233, R331, R354, R449, R508), its
base mark (R71), run.status and run.cancel (R441, R450), and how a run ends (R79, R232, R242, R262, R422, R459, R513). -/
namespace Sys2Proof.Machine

/-! ### A tile takes a run (R118, R123, R133, R139, R207, R223, R231, R354) -/

/-- The 64 handles of a tile record at e (R207). -/
def Chip.recHandles (c : Chip) (e : Nat) : Tbl (W64 × W64) :=
  (List.range 64).foldl (fun t k => tblPut (0, 0) t k (c.rd (e + 0x40 + 16 * k), c.rd (e + 0x48 + 16 * k))) []

/-- The 48 sync objects of a tile record (R354). -/
def Chip.recSyncs (c : Chip) (e : Nat) : Tbl Sync :=
  (List.range 48).foldl (fun t k =>
    let w := c.rd (e + 0x440 + 8 * k)
    tblPut Sync.init t k (Sync.of (BitVec.ofNat 2 (fld w 33 32)) (BitVec.ofNat 32 (fld w 31 0)))) []

/-- An array with its queue empty, both planes invalid and unpoisoned, and plane 0 active (R133). -/
def Arr.fresh (a : Arr) : Arr := { a with p0 := Plane.init, p1 := Plane.init, active := false, queue := [] }

/-- The values of a tile's 48 sync objects. -/
def Tile.syncVals (x : Tile) : List W32 := (List.range 48).map (fun k => (x.sync k).count)

/-- The accumulate-on-write rounds of a handle table, none begun (R223, R235). -/
def aowsOf (hs : Tbl (W64 × W64)) : List Aow :=
  ((List.range 64).filter (fun n => let h := hndOf (tblGet (0, 0) hs n); h.kind == 1 && h.aow)).map (fun n => ⟨n, 0, [], 0⟩)

/-- A tile's engines, empty: what a launch and a replay leave (R223, R238, R262, R475, R508). The current control of R143 runs on. -/
def Tile.emptied (x : Tile) : Tile :=
  { x with queue := [], gang := 0, a0 := x.a0.fresh, a1 := x.a1.fresh, a2 := x.a2.fresh, a3 := x.a3.fresh,
           vec := none, fetchGot := false, port := [], sb := [], aows := x.aows.map (fun a => ⟨a.handle, 0, [], 0⟩), streams := [], attns := [], dumps := [], seals := [], pendShadow := none, watchHold := false,
           lastIssueAc := 0, stop := none }

/-- Load a used tile of a run whose record lies at e: fetcher, generation, handles and sync objects. -/
def Chip.loadTile (c : Chip) (r : Run) (t : Nat) : Chip :=
  let e := r.tilesOff + 0x800 * t
  let w := c.rd (e + 0x10)
  let syncs := c.recSyncs e
  let hs := c.recHandles e
  c.updTile t (fun x =>
    let x := { x.emptied with st := .running, gen := x.gen + 1, nextSeq := 0, streamAt := r.image + (c.rd e).toNat,
                              streamLen := fld (c.rd (e + 8)) 31 0, fetched := 0, idx := 0, handles := hs, aows := aowsOf hs, syncs := syncs, cohort := bit w 62,
                              lateRaised := false, conflictRaised := false, scopeRaised := [], pushMissAt := 0, attnMissAt := 0,
                              keep := BitVec.ofNat 8 (fld w 15 8), retain := BitVec.ofNat 8 (fld w 23 16), lastCtx := r.ctx,
                              checkInBatch := false, checkSeen := false }
    { x with commShadow := some ⟨0, x.syncVals, 0, 0⟩ })

/-- The power groups of a used tile (R231): KEEP stays with its contents, the rest of POWER is powered and zero, the others are off. -/
def Chip.loadGroups (c : Chip) (r : Run) (t : Nat) : Chip :=
  let w := c.rd (r.tilesOff + 0x800 * t + 0x10)
  (c.dropGroups t (BitVec.ofNat 8 (fld w 15 8))).updTile t (fun x => { x with spd := { x.spd with powered := BitVec.ofNat 8 (fld w 7 0) } })

/-- A tile's retained groups are retained no longer: they lose their contents, but those of a frozen tile only at its unfreeze (R232, R233). -/
def Chip.loseGroups (c : Chip) (t : Nat) : Chip :=
  let c := c.updTile t (fun x => { x with retain := 0, spd := { x.spd with retained := 0 } })
  if (c.tile t).st = .frozen then c else c.dropGroups t 0

/-- Groups retained for other contexts lose their contents when a run is launched (R233). -/
def Chip.loseRetained (c : Chip) (n : Nat) : Chip :=
  c.tiles.foldl (fun c e => if e.2.lastCtx ≠ n ∧ e.2.retain ≠ 0 then c.loseGroups e.1 else c) c

/-- The codec slots that a run's windows name, each with the version it binds (R331). -/
def Run.slots (r : Run) : List (Nat × W32) := (r.wins.map (fun w => (w.cslot.toNat, w.version))).eraseDups

/-- Add a reference to a version of a slot, or take one away. -/
def CSlot.refer (s : CSlot) (v : W32) (add : Bool) : CSlot :=
  let f (n : W16) : W16 := if add then n + 1 else n - 1
  if v = 0 then { s with refs0 := f s.refs0 } else { s with refs1 := f s.refs1 }

/-- A run binds its versions, or releases them. -/
def Chip.bindSlots (c : Chip) (r : Run) (add : Bool) : Chip :=
  r.slots.foldl (fun c p => c.updCslot p.1 (fun s => s.refer p.2 add)) c

/-- Cross-strait requests held without a run, and those that wait behind them, count their deadlines from the launch (R111). -/
def Str.release (now : Nat) (x : Str) : Str := { x with rxW := x.rxW.map (fun r => { r with held := false, atTk := now }) }

/-- Whether a run that is not over, or one being launched, is bound to a weight set. -/
def Chip.setBound (c : Chip) (n : W16) : Bool := (c.run.toList ++ c.launching.toList).any (fun r => r.set == some n)

/-- A set that is neither current nor pending of its context, and to which no run is bound, is freed (R116). A run that was cancelled counts as
over (DEDUCED, log 32). -/
def Chip.freeSet (c : Chip) (ctx : Nat) (s : Option W16) : Chip :=
  match s with
  | none => c
  | some n =>
    let x := c.ctx ctx
    if c.setBound n || x.curSet == some n || (match x.pendSet with | some p => p.1 == n | none => false) then c
    else { c with wsets := c.wsets.filter (fun w => w.num != n) }

/-- The run under load is not launched. -/
def Chip.loseLaunch (c : Chip) : Chip :=
  match c.launching with
  | none => c
  | some r => ({ c with launching := none }).freeSet r.ctx r.set

/-! ### RUN_LAUNCH (R449) -/

/-- The Keeper reads the image's header, sections and lists: the errors it meets are counted. -/
def Chip.readImage (c : Chip) (n a : Nat) : Chip :=
  if !c.regions.any (fun r => r.ctx == n && within a 144 r.base r.size) then c
  else
    let c := c.scanLp a 144
    let hi := c.imgSize a
    if (c.secRanges a).any (fun r => decide (hi < r.1 + r.2)) || !c.regions.any (fun r => r.ctx == n && within a hi r.base r.size) then c
    else
      let c := (c.secRanges a).foldl (fun c r => c.scanLp (a + r.1) r.2) c
      let ls := (c.scheds a).flatMap schedRanges
      if ls.any (fun r => decide (a + hi < r.1 + r.2)) then c else ls.foldl (fun c r => c.scanLp r.1 r.2) c

/-- RUN_LAUNCH: the checks in order; the image is then hashed and the tiles are loaded while the request waits. -/
def runLaunch (n : Nat) (q : Req) (c : Chip) : Chip :=
  let idle := c.run.isNone && c.launching.isNone && (c.tide.st == .aligned || c.tide.st == .holdover)
  let c := if idle then c.readImage n (q.w 0).toNat else c
  match c.launchRefusal n q with
  | some e => c.answer n q e.1 [] e.2
  | none => match c.runFrom n q with
    | none => c.answer n q stPlanMismatch [] 0
    | some r => ({ c with launching := some r }).goBg n q (.launch r.num)
/-- RUN_LAUNCH. -/
def execRunLaunch (who : Issuer) (s : State) : Host.Outcome State Fault Refusal :=
  onChip (Chip.onReq (issuerNum who) 0x0600 (fun _ => true) (runLaunch (issuerNum who))) s

/-- A completion that carries a generation is in flight to a tile: an acknowledgement that is still to come, or the records of an attention
request (R125). -/
def Chip.genInFlight (c : Chip) (t : Nat) (gen : BitVec 4) : Bool :=
  c.acks.any (fun a => a.tile == t && decide (a.id.toNat / 0x1000 = gen.toNat)) ||
  c.disp.reqs.any (fun r => r.from_.isNone && r.tile == t && decide (r.cmdId.toNat / 0x1000 = gen.toNat))

/-- The tiles of a run that the Keeper loads: a frozen tile takes commands only once it is unfrozen (R127). -/
def Chip.loadable (c : Chip) (r : Run) : List Nat := r.tiles.filter (fun t => (c.tile t).st != .frozen)

/-- The next generation of a run's tiles may be given (R125). -/
def Chip.gensFree (c : Chip) (r : Run) : Bool := (c.loadable r).all (fun t => !c.genInFlight t ((c.tile t).gen + 1))

/-- A run's windows with the versions that are current now (R331). -/
def Chip.bound (c : Chip) (r : Run) : Run :=
  { r with wins := r.wins.map (fun (w : CodecWin) => { w with version := if (c.cslot w.cslot.toNat).cur then 1 else 0 }) }

/-- Make a run the active one: its tiles are loaded, its berths and exports reserved with it, and its codec versions bound. -/
def Chip.startRun (c : Chip) (r : Run) : Chip :=
  let r := c.bound r
  let c := c.loseRetained r.ctx
  let c := (c.loadable r).foldl (fun c t => (c.loadGroups r t).loadTile r t) c
  let one (u : Cdc) : Cdc := { u with raisedCheck := false, raisedFormat := false }
  let rec_ := c.recov
  let c := { c with launching := none, runs := r :: c.runs, cdcs := c.cdcs.map (fun (e : Nat × Cdc) => (e.1, one e.2)),
                    keeper := { c.keeper with nextRun := c.keeper.nextRun + 1, wsetCtx := r.ctx },
                    recov := { rec_ with ledger := [], ledgerFull := false, refused := [], replays := 0, suspect := false, excluded := false,
                                         inFlightLost := false, downE := false, downW := false, cancelled := false, commitReps := [], mine := 0,
                                         sent := none } }
  let c := (c.updStr .x0 (Str.release c.now)).updStr .x1 (Str.release c.now)
  c.bindSlots r true

/-- run.launch's response. -/
def Run.answer (r : Run) : List Byte :=
  wordsBytes [mkWord [(39, 1, b2n r.set.isNone), (38, 1, b2n r.line), (32, 6, if r.line then r.brk.toNat else 0),
    (16, 16, match r.set with | some n => n.toNat | none => 0), (0, 16, r.num.toNat)]] ++ r.digest

/-- RUN_LAUNCH_LOADED: hashing and loading end before B − 1,175 tk. -/
def runLaunchLoaded (c : Chip) : Chip :=
  match c.launching with
  | none => c
  | some r => match c.bgOf (fun k => k == .launch r.num) with
    | none => c
    | some b =>
      Chip.when (c.keeper.state == .running && decide (c.now + 1175 ≤ r.base.toNat) && c.gensFree r) (fun c =>
        let c := c.scanLp r.image r.size
        if c.poisonLp r.image r.size then c.loseLaunch.endBg b stPoisoned [] 0xFFFF 0
        else
          let r := { r with digest := sha512 (c.bytes r.image r.size) }
          (c.startRun r).endBg b stOk r.answer 0xFFFF 0) c
/-- RUN_LAUNCH_LOADED. -/
def execRunLaunchLoaded (s : State) : Host.Outcome State Fault Refusal := onChip runLaunchLoaded s

/-- LAUNCH_LOAD_DEADLINE: at B − 1,175 tk hashing or loading is unfinished. -/
def launchLoadDeadline (c : Chip) : Chip :=
  match c.launching with
  | none => c
  | some r => match c.bgOf (fun k => k == .launch r.num) with
    | none => c
    | some b => Chip.when (c.keeper.state == .running && decide (r.base.toNat ≤ c.now + 1175))
        (fun c => c.loseLaunch.endBg b stTimeout [] 0xFFFF 0) c
/-- LAUNCH_LOAD_DEADLINE. -/
def execLaunchLoadDeadline (s : State) : Host.Outcome State Fault Refusal := onChip launchLoadDeadline s

/-! ### RUN_BASE_MARK (R71) -/

/-- The base mark is reached: the run no longer waits for B, its shift starts at 0, and the refresh grid is the image's. -/
def Chip.baseMark (c : Chip) : Chip :=
  match c.run with
  | none => c
  | some r =>
    if r.baseSeen then c
    else
      let c := c.updRun (fun r => { r with baseSeen := true, state := if r.state = .waiting then .running else r.state })
      { c with tide := { c.tide with shift := 0, grid := r.grid, refPeriod := if r.grid then 0x0728 else 0x0E50 } }

/-- RUN_BASE_MARK. -/
def runBaseMark (c : Chip) : Chip := match c.run with
  | some r => Chip.when (decide (r.base.toNat ≤ c.now)) Chip.baseMark c
  | none => c
/-- RUN_BASE_MARK. -/
def execRunBaseMark (s : State) : Host.Outcome State Fault Refusal := onChip runBaseMark s

/-! ### RUN_STATUS (R441) -/

/-- STATE of run.status. -/
def Chip.runState (c : Chip) (r : Run) : Nat :=
  match r.state with
  | .ended => 4
  | .cancelled => 5
  | .waiting => 0
  | _ => if c.recov.phase ≠ .none ∨ c.recov.open_ then 3 else if c.slack.atSlack then 2 else 1

/-- run.status's words. -/
def Chip.runWords (c : Chip) (r : Run) : List W64 :=
  [mkWord [(16, 16, (r.tiles.filter (fun t => (c.tile t).st == .frozen)).length), (0, 3, c.runState r)],
   addN r.first r.step, addN r.first r.committed]

/-- RUN_STATUS. -/
def runStatus (n : Nat) (q : Req) (c : Chip) : Chip :=
  match c.runOf (BitVec.ofNat 16 (fld (q.w 0) 15 0)) with
  | none => c.answer n q stBadArg [] 0
  | some r => c.okay n q (c.runWords r)
/-- RUN_STATUS. -/
def execRunStatus (who : Issuer) (s : State) : Host.Outcome State Fault Refusal :=
  onChip (Chip.onReq (issuerNum who) 0x0601 (fun _ => true) (runStatus (issuerNum who))) s

/-! ### The end of a run -/

/-- Whether a waiting transaction of an egress belongs to the run: of a tile's DMA or SIGNAL, or a ferry. -/
def TxTxn.ofRun (t : TxTxn) : Bool := match t.tag with
  | .plain => false
  | .rreadResp => false
  | _ => true

/-- The run's remote transfers whose last RWRITE has not begun to leave a strait: no acknowledgement of them comes. -/
def Chip.dropAcks (c : Chip) (s : Strait) : Chip :=
  let gone : List (Nat × Nat) := ((c.str s).egrW.filter (fun t => t.sent == 0)).filterMap (fun t => match t.tag with | .dmaLast k i => some (k, i) | _ => none)
  { c with acks := c.acks.filter (fun a => !(a.strait == straitNum s && gone.contains (a.tile, a.idx))) }

/-- The run's transactions that have not begun to leave are discarded from a strait's egress (R422, R475). -/
def Str.dropRun (x : Str) : Str :=
  let keep (q : List TxTxn) : List TxTxn := q.filter (fun t => !(t.ofRun && t.sent == 0))
  { x with egrF := keep x.egrF, egrW := keep x.egrW, egrC := keep x.egrC }

/-- The attention requests of this module's tiles that wait for a place leave the dispatcher. One that has been admitted goes on, and its
records are discarded as they come (R124, R125). -/
def Chip.dropRequests (c : Chip) : Chip :=
  { c with disp := { c.disp with reqs := c.disp.reqs.filter (fun r => r.from_.isSome || r.admitted) } }

/-- Everything of the run that waits beside its tiles is dropped: pushes, egress queues, attention requests. -/
def Chip.dropTraffic (c : Chip) : Chip :=
  let c := { c with pushes := S4.all [] }
  ([Strait.e, .w, .x0, .x1].foldl (fun c s => (c.dropAcks s).updStr s Str.dropRun) c).dropRequests

/-- A tile at the end of its run: its engines stop and its streams close; a tile that is not frozen powers down the groups it does not
retain (R232). -/
def Chip.leaveTile (c : Chip) (t : Nat) : Chip :=
  let keep : BitVec 8 := (c.tile t).retain
  let note (x : Tile) : Tile := { x with spd := { x.spd with retained := keep &&& x.spd.powered } }
  if (c.tile t).st = .frozen then (c.updTile t (fun x => { x with streams := [] })).updTile t note
  else ((c.updTile t (fun x => { x.emptied with st := .idle, streamLen := 0, fetched := 0 })).dropGroups t keep).updTile t note

/-- RECOVERY_DONE (R488) ends a recovery: with Rp, or 0 when the run ended. -/
def Chip.recoveryDone (c : Chip) (rp : W64) : Chip :=
  let r := c.recov
  let c := c.evMod 0x0802 (mkWord [(56, 8, r.result.toNat), (48, 8, r.cls.toNat), (40, 8, r.replays.toNat)]) rp
  { c with recov := { c.recov with phase := .none, open_ := false, rp := none, cutStop := none, excluded := false, suspect := false, downE := false,
                                   downW := false, inFlightLost := false, cancelled := false, mine := 0, sent := none } }

/-- Answer the run.cancel requests that wait for a run. -/
def Chip.answerCancel (c : Chip) (r : Run) : Chip :=
  c.keeper.bgs.foldl (fun c b => match b.kind with
    | .cancel n => if n = r.num then c.endBg b stOk (wordsBytes (c.runWords r)) 0xFFFF 0 else c
    | _ => c) c

/-- The active run ends: kind 0 after its drain step, 1 cancelled, 2 by a recovery with its RESULT (R459, R471). A recovery that is not
done is done now, CANCELLED in the second case, and its cut holds no later run (DEDUCED from R471, log 28). -/
def Chip.endRun (c : Chip) (kind : Nat) (result : Byte) : Chip :=
  match c.run with
  | none => c
  | some r =>
    let c := r.tiles.foldl Chip.leaveTile c
    let c := ({ c.dropTraffic with watches := [] }).bindSlots r false
    let st : RunState := if kind = 0 then .ended else .cancelled
    let done := { r with state := st, cancelling := false, berths := r.berths.map (fun b => { b with st := .released, reads := [] }) }
    let c := { c with runs := done :: c.runs.drop 1, recov := { c.recov with ledger := [], refused := [], cutStop := none } }
    let c := if c.recov.open_ || c.recov.phase != .none then
        let c := { c with recov := { c.recov with result := if kind = 1 then 0x19 else result } }
        c.recoveryDone 0 |>.clearSlack
      else c
    let c := c.freeSet r.ctx r.set
    let c := c.evRun 0x0702 (mkWord [(48, 16, r.num.toNat), (40, 8, kind), (32, 8, if kind = 2 then result.toNat else 0)]) (addN r.first r.committed)
    c.answerCancel done

/-! ### RUN_CANCEL (R450, R478) -/

/-- A tile that is not frozen stops as R262 states: it issues and requests nothing more. -/
def Tile.halt (now : Nat) (x : Tile) : Tile :=
  if x.st = .frozen then x else { (x.stopFeeds now) with st := .idle, queue := [], streams := [], attns := [], dumps := [], sb := [] }

/-- A cancelled run's tiles stop. -/
def Chip.stopRun (c : Chip) : Chip :=
  match c.run with
  | none => c
  | some r =>
    let c := r.tiles.foldl (fun c t => c.updTile t (Tile.halt c.nowAc)) c
    c.updRun (fun r => { r with cancelling := true })

/-- Whether every tile of a cancelled run has stopped: no vector or output of an array is still to land, and no push that has started
is still to leave on a strait that works (R422). -/
def Chip.stopped (c : Chip) (r : Run) : Bool :=
  r.tiles.all (fun t => (c.tile t).vec.isNone && (c.tile t).port.isEmpty && (c.tile t).queues.all (fun q => q.all (fun m => m.feeds.isEmpty))) &&
  [Strait.e, .w].all (fun s => (c.str s).train != .up || (c.str s).frozen || (c.pushes.get s).all (fun p => !p.started || p.sent))

/-- RUN_CANCEL: a run that has ended answers at once; during a recovery the cancel completes after the drain. -/
def runCancel (n : Nat) (q : Req) (c : Chip) : Chip :=
  match c.runOf (BitVec.ofNat 16 (fld (q.w 0) 15 0)) with
  | none => c.answer n q stBadArg [] 0
  | some r =>
    if r.state = .ended ∨ r.state = .cancelled then c.okay n q (c.runWords r)
    else if c.runBusy r.num then c.refuse n q stBusy
    else
      let c := c.goBg n q (.cancel r.num)
      if c.recov.phase = .none ∨ c.recov.phase = .held then c.stopRun else { c with recov := { c.recov with cancelled := true } }
/-- RUN_CANCEL. -/
def execRunCancel (who : Issuer) (s : State) : Host.Outcome State Fault Refusal :=
  onChip (Chip.onReq (issuerNum who) 0x0602 (fun _ => true) (runCancel (issuerNum who))) s

end Sys2Proof.Machine
end

