-- ==== Sys2Proof/Machine/Contexts.lean ====
section
/-! DEFINITION. Closing a context (R442), the end of a cancelled run (R450), the module's identity (R441, R532, R533) and loads of codec
tables (R313, R314, R331 to R334). -/
namespace Sys2Proof.Machine

/-! ### CTX_CLOSE (R442) -/

/-- Step 1: the unread requests of a mailbox complete with ST_NOT_PERMITTED, at most k of them. -/
def refuseUnread (n : Nat) : Nat → Chip → Chip
  | 0, c => c
  | k + 1, c =>
    let avail := ((c.ctx n).reqTail - (c.ctx n).reqHead).toNat
    let r := c.nextReq n
    if avail = 0 ∨ avail < r.2.1 then c
    else refuseUnread n k ((c.updCtx n (fun x => { x with reqHead := x.reqHead + BitVec.ofNat 32 r.2.1 })).respond n r.1 stNotPermitted [] 0xFFFF 0)

/-- The request read and not yet started completes with it too. -/
def Chip.refuseCur (c : Chip) (n : Nat) : Chip := match (c.ctx n).cur with
  | some q => c.refuse n q stNotPermitted
  | none => c

/-- What a background request leaves when it is abandoned: a stage no set, a launch no run, a table load no held slot, an update a
partial image in its slot (R540). -/
def Chip.undo (c : Chip) : BgKind → Chip
  | .form _ => c
  | .slack _ => c
  | .stage set _ => { c with wsets := c.wsets.filter (fun w => w.num != set) }
  | .verify _ _ _ _ => c
  | .launch _ => c.loseLaunch
  | .cancel _ => c
  | .ctxClose _ => c
  | .table slot _ _ => c.updCslot slot (fun s => { s with held := false })
  | .update _ _ => c

/-- Step 2: the background requests of a mailbox are abandoned, each with ST_NOT_PERMITTED. -/
def Chip.abandon (c : Chip) (n : Nat) : Chip :=
  c.keeper.bgs.foldl (fun c b => if b.who = n then (c.undo b.kind).endBg b stNotPermitted [] 0xFFFF 0 else c) c

/-- A slot of a closed context: both versions empty, and released (R334). A slot of another stays. -/
def CSlot.leave (s : CSlot) (n : Nat) : CSlot := if s.owner = some n then CSlot.init else s

/-- Step 4: the context's sets, regions, keys, slots and retained groups go; it is closed. -/
def Chip.closed (c : Chip) (n : Nat) : Chip :=
  let c := { c with wsets := c.wsets.filter (fun w => w.ctx != n) }
  let c := (c.regions.filter (fun r => r.ctx == n)).foldl Chip.freeRegion c
  let c := (List.range 128).foldl (fun c k => c.updCslot k (fun s => s.leave n)) c
  let mine : List Nat := (c.tiles.filter (fun e => e.2.lastCtx == n && e.2.retain != 0 && !c.runsOn e.1)).map (fun e => e.1)
  let c := mine.foldl Chip.loseGroups c
  c.updCtx n (fun x => { x with opened := false, compat := 0, maps := [], curSet := none, pendSet := none })

/-- The mailbox of a context that ctx 0 or a reset of its function closed: every index is 0. -/
def Chip.mailboxReset (c : Chip) (n : Nat) : Chip :=
  c.updCtx n (fun x => { x with reqTail := 0, reqHead := 0, rspTail := 0, rspHead := 0, evtTail := 0, evtHead := 0, rsps := [], gap := 0 })

/-- Close a context: its own close leaves its mailbox's indices, another's resets them. -/
def Chip.closeOf (c : Chip) (target : Nat) (other : Bool) : Chip :=
  let c := c.closed target
  if other then c.mailboxReset target else c

/-- Whether a context's run is active. -/
def Chip.ctxRuns (c : Chip) (n : Nat) : Bool := c.run.isSome && c.runCtx == n

/-- The closes that waited for a run, once no run of their context is active. -/
def Chip.finishCloses (c : Chip) : Chip :=
  let c := c.keeper.bgs.foldl (fun c b => match b.kind with
    | .ctxClose target => if c.ctxRuns target then c else (c.closeOf target (b.who != target)).endBg b stOk [] 0xFFFF 0
    | _ => c) c
  c.keeper.closing.foldl (fun c n =>
    if c.ctxRuns n then c else (({ c with keeper := { c.keeper with closing := setDel c.keeper.closing n } } : Chip)).closeOf n true) c

/-- The active run ends, and with it the closes that waited. -/
def Chip.endAll (c : Chip) (kind : Nat) (result : Byte) : Chip := (c.endRun kind result).finishCloses

/-- Steps 1 and 2 of a close. -/
def Chip.closeReqs (c : Chip) (target : Nat) : Chip := ((refuseUnread target 64 (c.refuseCur target)).abandon target)

/-- Step 3: the context's run is cancelled, or will be when the recovery in hand ends; with none, the close finishes. -/
def Chip.closeRun (c : Chip) (target : Nat) : Chip :=
  if c.ctxRuns target then
    if c.recov.phase = .none ∨ c.recov.phase = .held then c.stopRun else { c with recov := { c.recov with cancelled := true } }
  else c.finishCloses

/-- CTX_CLOSE. The management mailbox has no context of its own to close (DESIGN CHOICE, log 31). -/
def ctxClose (n : Nat) (q : Req) (c : Chip) : Chip :=
  let other := bit (q.w 0) 4
  let target := if other then fld (q.w 0) 3 0 else n
  if target = 16 then c.answer n q stBadArg [] 0
  else
    let c := c.updCtx n (fun x => { x with cur := none })
    let c := c.closeReqs target
    let c := { c with keeper := { c.keeper with bgs := c.keeper.bgs ++ [({ who := n, req := q, kind := .ctxClose target, since := c.up } : Bg)] } }
    c.closeRun target
/-- CTX_CLOSE. -/
def execCtxClose (who : Issuer) (s : State) : Host.Outcome State Fault Refusal :=
  onChip (Chip.onReq (issuerNum who) 0x0201 (fun _ => true) (ctxClose (issuerNum who))) s

/-- RUN_CANCEL_DONE: every tile of the cancelled run has stopped, and what it had been granted has landed. -/
def runCancelDone (c : Chip) : Chip :=
  match c.run with
  | none => c
  | some r => Chip.when (c.keeper.state == .running && r.cancelling && (c.recov.phase == .none || c.recov.phase == .held) && c.stopped r)
      (fun c => c.endAll 1 0) c
/-- RUN_CANCEL_DONE. -/
def execRunCancelDone (s : State) : Host.Outcome State Fault Refusal := onChip runCancelDone s

/-! ### DEV_IDENTITY (R441, R532, R533) -/

/-- The module's identity key (R533). -/
def identityKey : Nat := pufKey (label "JBV-IDENTITY")

/-- DEV_IDENTITY: zeros on a module without identity. -/
def devIdentity (n : Nat) (q : Req) (c : Chip) : Chip :=
  if c.boot.identityOk then
    c.answer n q stOk (wordsBytes [c.boot.serial, mkWord [(48, 16, c.boot.rev.toNat)]] ++ publicKey identityKey) 0xFFFF
  else c.answer n q stOk (zeros 149) 0xFFFF
/-- DEV_IDENTITY. -/
def execDevIdentity (who : Issuer) (s : State) : Host.Outcome State Fault Refusal :=
  onChip (Chip.onReq (issuerNum who) 0x0101 (fun _ => true) (devIdentity (issuerNum who))) s

/-! ### MEM_TABLE (R313, R314, R333) -/

/-- The version that the next load of a slot writes: the one not current; 0 while there is none. -/
def CSlot.next (s : CSlot) : Bool := s.curValid && !s.cur

/-- A load completes: the version holds the table and is current, and the requester owns the slot. -/
def CSlot.load (s : CSlot) (n : Nat) (tbl : List Byte) : CSlot :=
  let v := s.next
  { s with owner := some n, held := false, curValid := true, cur := v, tab0 := if v then s.tab0 else tbl, tab1 := if v then tbl else s.tab1 }

/-- MEM_TABLE: the refusals, then the load at once, or once the references have drained. -/
def memTable (n : Nat) (q : Req) (c : Chip) : Chip :=
  let slot := fld (q.w 0) 6 0
  let time := fld (q.w 0) 63 32
  let tbl := slice q.payload 8 144
  let s := c.cslot slot
  if !c.boot.memOk then c.refuse n q stNotPermitted
  else if s.owner.isSome && s.owner != some n then c.answer n q stNotPermitted [] 0
  else if c.slotBusy slot then c.answer n q stBusy [] 0
  else if !tabOk tbl then c.answer n q stBadArg [] 8
  else if c.slotRefs slot s.next = 0 then (c.updCslot slot (fun s => s.load n tbl)).refuse n q stOk
  else if time = 0 then c.refuse n q stTableBusy
  else (c.updCslot slot (fun s => { s with held := true })).goBg n q (.table slot tbl (c.up + time))
/-- MEM_TABLE. -/
def execMemTable (who : Issuer) (s : State) : Host.Outcome State Fault Refusal :=
  onChip (Chip.onReq (issuerNum who) 0x0303 (fun _ => true) (memTable (issuerNum who))) s

/-- The load that a slot holds. -/
def Chip.tableBg (c : Chip) (slot : Nat) : Option Bg := c.bgOf (fun k => match k with | .table s _ _ => s == slot | _ => false)

/-- TABLE_REFS_DRAINED. -/
def tableRefsDrained (slot : Nat) (c : Chip) : Chip :=
  match c.tableBg slot with
  | none => c
  | some b => match b.kind with
    | .table _ tbl _ =>
      Chip.when (c.keeper.state == .running && decide (c.slotRefs slot (c.cslot slot).next = 0))
        (fun c => (c.updCslot slot (fun s => s.load b.who tbl)).endBg b stOk [] 0xFFFF 0) c
    | _ => c
/-- TABLE_REFS_DRAINED. -/
def execTableRefsDrained (slot : BitVec 7) (s : State) : Host.Outcome State Fault Refusal := onChip (tableRefsDrained slot.toNat) s

/-- TABLE_LOAD_TIMEOUT. -/
def tableLoadTimeout (slot : Nat) (c : Chip) : Chip :=
  match c.tableBg slot with
  | none => c
  | some b => match b.kind with
    | .table _ _ deadline =>
      Chip.when (c.keeper.state == .running && decide (c.slotRefs slot (c.cslot slot).next ≠ 0) && decide (deadline ≤ c.up))
        (fun c => (c.updCslot slot (fun s => { s with held := false })).endBg b stTableBusy [] 0xFFFF 0) c
    | _ => c
/-- TABLE_LOAD_TIMEOUT. -/
def execTableLoadTimeout (slot : BitVec 7) (s : State) : Host.Outcome State Fault Refusal := onChip (tableLoadTimeout slot.toNat) s

end Sys2Proof.Machine
end

