-- ==== Sys2Proof/Machine/Commits.lean ====
section
/-! DEFINITION. Steps, berth releases, scheduled slacks and commits (R78 to R84, R94, R102, R463 to R467, R479 to R482, R513). -/
namespace Sys2Proof.Machine

/-! ### Work that is over -/

/-- Nothing that a tile has issued is still in flight, its pushes' source reads and its attention requests included (R466). -/
def Chip.tileStill (c : Chip) (t : Nat) : Bool :=
  let x := c.tile t
  x.streams.all (fun s => s.2.held.isEmpty) && x.attns.isEmpty && x.dumps.isEmpty && x.vec.isNone && !x.matrixOpen &&
    (c.pushes.e ++ c.pushes.w).all (fun p => p.tile != t || p.read)

/-- Whether nothing of a tile whose launch mark passes a test is left to issue. -/
def Chip.issuedAll (c : Chip) (t : Nat) (later : Nat → Bool) : Bool :=
  let x := c.tile t
  match x.queue with
  | q :: _ => later (c.mark q.launch)
  | [] => x.fetched == x.streamLen

/-- Whether a tile has done its work before the cut: it does not run, or what is left is held by the cut. -/
def Chip.tileDone (c : Chip) (t : Nat) : Bool :=
  (c.tile t).st != .running || (c.tileStill t && c.issuedAll t c.cutHolds)

/-- Whether the work launched before the cut has completed at this member (R473, R479): its tiles, its ferries, its transactions. -/
def Chip.workDone (c : Chip) : Bool :=
  match c.run with
  | none => true
  | some r =>
    r.tiles.all c.tileDone &&
    (c.pushes.e ++ c.pushes.w).all (fun p => (p.read && p.sent) || c.cutHolds (c.mark p.cmd.inject)) &&
    [Strait.e, .w, .x0, .x1].all (fun s => !((c.str s).egrF ++ (c.str s).egrW ++ (c.str s).egrC).any TxTxn.ofRun)

/-! ### Steps and berths (R94, R102, R465) -/

/-- The commit boundaries after the first, as step indices: the commit list and the end of the run's drain step (R463). -/
def Run.bounds (r : Run) : List Nat := r.commits.filter (fun b => decide (0 < b)) ++ [r.steps.length]

/-- STEP_BOUNDARY: the next boundary's mark at this module is reached, or, after the last step, the end of the drain step (R102). -/
def stepBoundary (c : Chip) : Chip :=
  match c.run with
  | none => c
  | some r =>
    let m := c.boundaryMark r r.reached
    Chip.when (decide (r.reached ≤ r.steps.length) && decide (m ≤ c.now) && !c.cutHolds m && c.timed)
      (fun c => c.baseMark.updRun (fun r => { r with reached := r.reached + 1 })) c
/-- STEP_BOUNDARY. -/
def execStepBoundary (s : State) : Host.Outcome State Fault Refusal := onChip stepBoundary s

/-- Whether the step that holds a reservation has ended (R100, R102): its own step for an own pair, the one after for a half. -/
def Run.heldOver (r : Run) (b : Berth) : Bool := decide (b.tagIx + (if b.own then 2 else 3) ≤ r.reached)

/-- A region's reservation is released, and its next becomes live. -/
def Berth.advance (b : Berth) : Berth :=
  if b.cur + 1 < b.count then { b with cur := b.cur + 1, got := [] } else { b with st := .released }

/-- Release a region's reservation, if its step is over, its reads have ended, and no later commit holds it. -/
def Chip.releaseBerth (c : Chip) (n : Nat) : Chip :=
  match c.run with
  | none => c
  | some r => match r.berths[n]? with
    | none => c
    | some b => Chip.when (b.st == .live && b.reads.isEmpty && r.heldOver b && !r.commitBerth b) (fun c => c.updBerth n Berth.advance) c

/-- BERTH_RELEASE. -/
def execBerthRelease (r : BitVec 9) (s : State) : Host.Outcome State Fault Refusal := onChip (fun c => c.releaseBerth r.toNat) s

/-! ### Slack (R478 to R482) -/

/-- SLACK_REQ_PIN: SLACK_REQ# low on 118 edges; an armed request is registered. -/
def slackReqPin (c : Chip) : Chip :=
  let armed := c.slack.armed
  let c := { c with slack := { c.slack with pinLow := true, armed := false } }
  if armed then (c.evMod 0x0803 c.tide.count 0).requestSlack .pin else c
/-- SLACK_REQ_PIN. -/
def execSlackReqPin (s : State) : Host.Outcome State Fault Refusal := onChip slackReqPin s

/-- SLACK_REQ_RELEASE: high on 118 edges; a further request may be registered. -/
def slackReqRelease (c : Chip) : Chip := { c with slack := { c.slack with pinLow := false, armed := true } }
/-- SLACK_REQ_RELEASE. -/
def execSlackReqRelease (s : State) : Host.Outcome State Fault Refusal := onChip slackReqRelease s

/-- The step number of the rollback boundary. -/
def Chip.rollbackNo (c : Chip) : W64 := match c.run with | some r => addN r.first r.committed | none => c.recov.commit

/-- The units stop at a forced cut, and a recovery starts at this member (R472, R480, R489). -/
def Chip.startRecovery (c : Chip) (s : W64) : Chip :=
  let c := c.baseMark
  let rec_ := c.recov
  let c := { c with recov := { rec_ with phase := .quiesce, cnt := rec_.cnt + 1, replays := rec_.replays + 1, open_ := true, phaseAt := c.up,
                                         rollback := c.rollbackNo.setWidth 32, cutStop := some c.nowAc, rp := none } }
  c.evMod 0x0801 s (mkWord [(58, 6, c.slack.origin.toNat)])

/-- Whether the slack in hand is forced, as far as this member knows. -/
def Chip.forcedHere (c : Chip) : Bool := c.slack.forced || (match c.slack.req with | some r => r.2 == .forced | none => false)

/-- SLACK_CUT_MARK: the cut takes effect at S + p × s; a forced one of an active run starts the recovery. -/
def slackCutMark (c : Chip) : Chip :=
  match c.slack.cut with
  | none => c
  | some s =>
    Chip.when (!c.slack.inEffect && c.cutHolds c.now) (fun c =>
      let c := { c with slack := { c.slack with inEffect := true } }
      if c.forcedHere && c.run.isSome && (c.recov.phase == .none || c.recov.phase == .cut) && !c.recov.open_ then c.startRecovery s else c) c
/-- SLACK_CUT_MARK. -/
def execSlackCutMark (s : State) : Host.Outcome State Fault Refusal := onChip slackCutMark s

/-- Every commit boundary before the cut has been declared. -/
def Chip.commitsDone (c : Chip) : Bool :=
  match c.run with
  | none => true
  | some r => r.bounds.all (fun b => decide (b ≤ r.committed) || c.cutHolds (c.boundaryMark r b))

/-- The ring is held at a slack with mark S (R479, R482). -/
def Chip.holdAt (c : Chip) (s : W64) : Chip :=
  let c := { c with slack := { c.slack with atSlack := true, heldS := s, cut := some s, inEffect := true, req := none, forced := false, sched := false } }
  let c := c.updRun (fun r => { r with state := .atSlack })
  c.evMod 0x0703 s c.rollbackNo

/-- SLACK_REACHED. -/
def slackReached (c : Chip) : Chip :=
  match c.slack.cut with
  | none => c
  | some s =>
    Chip.when (c.slack.inEffect && !c.slack.atSlack && c.recov.phase == .none && !c.recov.open_ && c.workDone && c.commitsDone)
      (fun c => c.baseMark.holdAt s) c
/-- SLACK_REACHED. -/
def execSlackReached (s : State) : Host.Outcome State Fault Refusal := onChip slackReached s

/-- By how much a run's shift grows when a boundary is moved by d (R84, R476): a whole number of refresh periods under REFRESH_ALIGN. -/
def Chip.growth (c : Chip) (d : Nat) : Nat := if c.boot.set.refreshAlign then cdiv d 3664 * 3664 else d

/-- RING_RESUME: R45, the ring busy, not at slack, and R too early are refused; a held recovery replays from the new mark (R482). -/
def ringResume (n : Nat) (q : Req) (c : Chip) : Chip :=
  let r := q.w 0
  if c.tide.st ≠ .aligned ∧ c.tide.st ≠ .holdover then c.refuse n q stNotPermitted
  else if c.ringBusy then c.refuse n q stBusy
  else if c.slack.atSlack = false ∨ (c.recov.phase ≠ .none ∧ c.recov.phase ≠ .held) then c.refuse n q stNotAtSlack
  else if r.toNat < c.now + c.tide.lead.toNat then c.answer n q stBadArg [] 0
  else
    let d := BitVec.ofNat 64 (c.growth (r - c.slack.heldS).toNat)
    let held := c.recov.phase == .held
    let rp := c.slack.heldS + d
    let c := if c.run.isSome then { c with tide := { c.tide with shift := c.tide.shift + d } } else c
    let c := c.clearSlack.updRun (fun r => { r with state := if r.baseSeen then .running else .waiting })
    let c := if held then { c with recov := { c.recov with phase := .none, rp := some rp, cutStop := none } } else { c with recov := { c.recov with cutStop := none } }
    (c.evMod 0x0704 r c.tide.shift).okay n q [c.tide.shift]
/-- RING_RESUME. -/
def execRingResume (who : Issuer) (s : State) : Host.Outcome State Fault Refusal :=
  onChip (Chip.onReq (issuerNum who) 0x0405 (fun _ => true) (ringResume (issuerNum who))) s

/-! ### Commits (R463, R466, R467) -/

/-- COMMIT_SHADOW: at its next commit boundary, with everything issued before it completed and its last shadow promoted, a tile copies
its state into the pending shadow; its seal contexts are emptied (R508). -/
def commitShadow (t : Nat) (c : Chip) : Chip :=
  match c.run with
  | none => c
  | some r =>
    let x := c.tile t
    match r.bounds.find? (fun b => decide (x.shadowStep < b)) with
    | none => c
    | some b =>
      let m := c.boundaryMark r b
      Chip.when (r.tiles.contains t && x.st == .running && x.pendShadow.isNone && decide (m ≤ c.now) && !c.cutHolds m && c.tileStill t &&
          c.issuedAll t (fun k => decide (m ≤ k)))
        (fun c => c.updTile t (fun x => { x with pendShadow := some ⟨b, x.syncVals, x.idx, x.nextSeq⟩, seals := [] })) c
/-- COMMIT_SHADOW. -/
def execCommitShadow (t : TileId) (s : State) : Host.Outcome State Fault Refusal := onChip (commitShadow t.toNat) s

/-- A tile's pending shadow is promoted; its checks belong to the batch that is committed (R154). -/
def Tile.promote (x : Tile) : Tile :=
  { x with commShadow := if x.pendShadow.isSome then x.pendShadow else x.commShadow, pendShadow := none, checkInBatch := false, checkSeen := false }

/-- Commit b, a step index, is declared: shadows are promoted, the previous commit berths are released, the ledger is cleared, watches of
the steps it closes are disarmed, and the run's last one ends it (R459; DEDUCED, log 27). -/
def Chip.commit (c : Chip) (b : Nat) : Chip :=
  match c.run with
  | none => c
  | some r =>
    let c := r.tiles.foldl (fun c t => c.updTile t Tile.promote) c
    let c := c.updRun (fun r => { r with committed := b })
    let rec_ := c.recov
    let c := { c with recov := { rec_ with commit := addN r.first b, ledger := [], ledgerFull := false, refused := [], replays := 0, commitReps := [] },
                      watches := c.watches.filter (fun w => decide (b ≤ w.step)) }
    let c := (List.range r.berths.length).foldl (fun c n => c.releaseBerth n) c
    if b = r.steps.length then c.endAll 0 0 else c

/-- The tide master declares a commit once it holds the report of every position, and no forced request is registered. -/
def Chip.tryDeclare (c : Chip) : Chip :=
  match c.run with
  | none => c
  | some r =>
    match r.bounds.find? (fun b => decide (r.committed < b)) with
    | none => c
    | some b =>
      let all := (List.range c.ringSize).all (fun p => c.recov.commitReps.contains (p, b))
      Chip.when (c.tide.master && all && !c.forcedHere && c.recov.phase == .none) (fun c =>
        let c := if c.ringSize = 1 then c else c.send (.commitDeclare (BitVec.ofNat 32 b))
        c.commit b) c

/-- The tide master notes a report. -/
def Chip.noteReport (c : Chip) (pos b : Nat) : Chip :=
  let l : List (Nat × Nat) := c.recov.commitReps.filter (fun e => e.1 != pos) ++ [(pos, b)]
  ({ c with recov := { c.recov with commitReps := l } }).tryDeclare

/-- COMMIT_REPORT: every used tile has its pending shadow of the next boundary, and no forced request is registered here (R478). -/
def commitReport (c : Chip) : Chip :=
  match c.run with
  | none => c
  | some r =>
    match r.bounds.find? (fun b => decide (r.reported < b)) with
    | none => c
    | some b =>
      let ready := r.tiles.all (fun t => ((c.tile t).pendShadow.map (fun s => s.step == b)).getD false)
      Chip.when (ready && !c.forcedHere && c.recov.phase == .none && decide (c.boundaryMark r b ≤ c.now)) (fun c =>
        let c := c.updRun (fun r => { r with reported := b })
        if c.tide.master then c.noteReport c.tide.position.toNat b
        else c.send (.commitReport c.tide.position (BitVec.ofNat 32 b))) c
/-- COMMIT_REPORT. -/
def execCommitReport (s : State) : Host.Outcome State Fault Refusal := onChip commitReport s

/-- COMMIT_REPORT_ARRIVAL: at the tide master; c is the boundary's step index (DESIGN CHOICE, log 122). -/
def commitReportArrival (pos : BitVec 6) (b : W32) (c : Chip) : Chip :=
  if c.tide.master && c.run.isSome then c.noteReport pos.toNat b.toNat else c
/-- COMMIT_REPORT_ARRIVAL. -/
def execCommitReportArrival (pos : BitVec 6) (c : W32) (s : State) : Host.Outcome State Fault Refusal := onChip (commitReportArrival pos c) s

/-- COMMIT_DECLARE: a declaration reaches a member that has reported the boundary. -/
def commitDeclare (b : W32) (c : Chip) : Chip :=
  match c.run with
  | none => c
  | some r => Chip.when (!c.tide.master && decide (r.committed < b.toNat) && decide (r.reported = b.toNat) && c.recov.phase != .restore)
      (fun c => c.commit b.toNat) c
/-- COMMIT_DECLARE. -/
def execCommitDeclare (c : W32) (s : State) : Host.Outcome State Fault Refusal := onChip (commitDeclare c) s

end Sys2Proof.Machine
end

