-- ==== Sys2Proof/Machine/Recovery.lean ====
section
/-! DEFINITION. Recovery (R43, R472 to R478, R482 to R484, R487 to R489): quiesce, drain, the tide master's decision, the restore and the
replay mark. -/
namespace Sys2Proof.Machine

/-! ### Drain (R473) -/

/-- Whether a type of transaction belongs to the run: all but an RREAD (R405). -/
def runTxn (bs : List Byte) : Bool := txnType bs != 3

/-- The drain of a strait begins: what has not begun to leave is discarded, and what waits in a receive buffer, its credits returned. -/
def Str.drain (x : Str) : Str :=
  let keep (q : List TxTxn) : List TxTxn := q.filter (fun t => decide (0 < t.sent) || !runTxn t.txn.bytes)
  let gone (q : List RxTxn) : Nat := (q.filter (fun r => runTxn r.txn.bytes)).foldl (fun n r => n + r.flits) 0
  let stay (q : List RxTxn) : List RxTxn := q.filter (fun r => !runTxn r.txn.bytes)
  let y := ((x.free 0 (gone x.rxF)).free 1 (gone x.rxW)).free 2 (gone x.rxC)
  { y with egrF := keep x.egrF, egrW := keep x.egrW, egrC := keep x.egrC, rxF := stay x.rxF, rxW := stay x.rxW, rxC := stay x.rxC }

/-- The drain begins. -/
def Chip.startDrain (c : Chip) : Chip :=
  let keep (q : List Push) : List Push := q.filter (fun p => p.started && !p.sent)
  let c := { c with pushes := ⟨keep c.pushes.e, keep c.pushes.w, keep c.pushes.x0, keep c.pushes.x1⟩, recov := { c.recov with phase := .drain, phaseAt := c.up } }
  (c.updStr .e Str.drain).updStr .w Str.drain

/-- Whether a main strait is drained: no flit of the run at its egress and every flit sent acknowledged; one that is down has nothing to
drain. -/
def Str.drained (x : Str) : Bool :=
  !x.isUp || (!(x.egrF ++ x.egrW ++ x.egrC).any (fun t => runTxn t.txn.bytes) && x.replay.isEmpty && x.resend.isEmpty)

/-- Whether the ring in force uses a main strait: the plan cables it, and it is not the line's break (R105). -/
def Chip.linkPlanned (c : Chip) (s : Strait) : Bool :=
  let n := c.ringSize
  let p := c.ring.pos.toNat
  let b := c.ring.brk.toNat
  farValid (c.planRec.far.get s) && !(c.ring.line && ((s == .w && decide (p = b)) || (s == .e && decide ((p + 1) % n = b))))

/-- This member's report (R473). A time base in holdover counts as aligned (R45, R56; DEDUCED, log 85). A tile that is suspect is reported as such and not as a frozen master (DEDUCED, log 30). -/
def Chip.ownReport (c : Chip) : MemberReport :=
  let r := c.recov
  let badTile (t : Nat) : Bool := (c.tile t).st == .frozen && (c.tile t).faultCause != 0x0B
  let frozen := match c.run with
    | some run => run.tiles.any badTile || (c.ctx run.ctx).frozen || [Strait.e, .w].any (fun s => c.linkPlanned s && (c.str s).frozen)
    | none => false
  { pos := c.tide.position, downE := c.linkPlanned .e && (r.downE || !(c.str .e).isUp), downW := c.linkPlanned .w && (r.downW || !(c.str .w).isUp),
    cls := r.mine, excluded := r.excluded, frozen := frozen, suspect := r.suspect, ledger := r.ledgerFull || r.inFlightLost,
    cancelled := r.cancelled || (match c.run with | some run => run.cancelling | none => false),
    aligned := c.timed }

/-- Send this member's report to the tide master, which holds its own. -/
def Chip.sendReport (c : Chip) : Chip :=
  if c.tide.master then c else ({ c with recov := { c.recov with sent := some c.ownReport } }).send (.report c.ownReport)

/-- The drain ends: the member reports and waits for the decision. -/
def Chip.reportIn (c : Chip) : Chip := ({ c with recov := { c.recov with phase := .decide } }).sendReport

/-- What is detected after the report and before the decision is sent too: the report again, as it stands now (R478). -/
def Chip.reportAgain (c : Chip) : Chip :=
  Chip.when (c.recov.phase == .decide && c.keeper.state == .running && c.run.isSome && c.recov.sent != some c.ownReport) Chip.sendReport c

/-- Whether both main straits are drained or treated as down. -/
def Chip.bothDrained (c : Chip) : Bool := (c.strs.e.drained || c.recov.downE) && (c.strs.w.drained || c.recov.downW)

/-- DRAIN_DONE: once the work before the cut has completed the drain begins; once both main straits are drained it ends. A member
reports when its Keeper runs (R478). -/
def drainDone (c : Chip) : Chip :=
  let c := if c.recov.phase == .quiesce && c.workDone then c.startDrain else c
  Chip.when (c.recov.phase == .drain && c.bothDrained && c.keeper.state == .running) Chip.reportIn c
/-- DRAIN_DONE. -/
def execDrainDone (s : State) : Host.Outcome State Fault Refusal := onChip drainDone s

/-- QUIESCE_TIMEOUT: 117,500 tk after the cut unfinished work is stopped, each unit recording its stop stamp. -/
def quiesceTimeout (c : Chip) : Chip :=
  match c.run with
  | none => c
  | some r => Chip.when (c.recov.phase == .quiesce && decide (c.recov.phaseAt + 117500 ≤ c.up) && !c.workDone) (fun c =>
      let c := r.tiles.foldl (fun c t => c.updTile t (Tile.halt c.nowAc)) c
      ({ c with recov := { c.recov with cutStop := some c.nowAc } }).startDrain) c
/-- QUIESCE_TIMEOUT. -/
def execQuiesceTimeout (s : State) : Host.Outcome State Fault Refusal := onChip quiesceTimeout s

/-- DRAIN_TIMEOUT: a main strait not drained 58,750 tk after the quiesce is treated as down. -/
def drainTimeout (st : Strait) (c : Chip) : Chip :=
  Chip.when (c.recov.phase == .drain && straitMain st && decide (c.recov.phaseAt + 58750 ≤ c.up) && !(c.str st).drained) (fun c =>
    let r := c.recov
    let c := { c with recov := { r with downE := r.downE || st == .e, downW := r.downW || st == .w } }
    if c.bothDrained && c.keeper.state == .running then c.reportIn else c) c
/-- DRAIN_TIMEOUT. -/
def execDrainTimeout (st : Strait) (s : State) : Host.Outcome State Fault Refusal := onChip (drainTimeout st) s

/-! ### The decision (R474, R483) -/

/-- The reports by position, this member's own among them. -/
def Chip.reports (c : Chip) (rs : List MemberReport) : List MemberReport :=
  let n := c.ringSize
  let all := c.ownReport :: rs.filter (fun r => r.pos != c.tide.position)
  (List.range n).filterMap (fun p => all.find? (fun r => r.pos.toNat == p))

/-- The positions that have not reported. -/
def missing (n : Nat) (rs : List MemberReport) : List Nat := (List.range n).filter (fun p => !rs.any (fun r => r.pos.toNat == p))

/-- The links that are down, each by the position east of it. -/
def downLinks (n : Nat) (rs : List MemberReport) : List Nat :=
  (rs.flatMap (fun r => (if r.downE then [(r.pos.toNat + 1) % n] else []) ++ (if r.downW then [r.pos.toNat] else []))).eraseDups

/-- A member that has not reported has left the ring: both its links are reported down (R478, R484; DEDUCED, log 30). -/
def departed (n : Nat) (rs : List MemberReport) (p : Nat) : Bool :=
  let d := downLinks n rs
  d.contains p && d.contains ((p + 1) % n)

/-- CLASS of a recovery: the class that the member the first request came from detected, else the first that any detected (R478). -/
def recClass (origin : Nat) (rs : List MemberReport) : Byte :=
  match rs.find? (fun r => r.pos.toNat == origin && r.cls != 0) with
  | some r => r.cls
  | none => (match rs.find? (fun r => r.cls != 0) with | some r => r.cls | none => 0)

/-- The outcome, and the break if it is a line, which needs every member aligned (R104): the first of R474's list that applies. -/
def outcome (n : Nat) (rs : List MemberReport) (cls : Byte) (lineOk : Nat → Bool) (det : Bool) (replays : Nat) (sched : Bool) : Byte × Nat :=
  let gone := missing n rs
  let down := downLinks n rs
  if rs.any (fun r => r.cancelled) then (0x19, 0)
  else if gone.any (fun p => !departed n rs p) then (0x16, 0)
  else if rs.any (fun r => r.frozen) then (0x11, 0)
  else if rs.any (fun r => r.suspect) then (0x17, 0)
  else if cls = 0x0A || rs.any (fun r => r.excluded || r.cls == 0x0A) then (0x10, 0)
  else if !down.isEmpty || !gone.isEmpty then
    (match down with
      | [b] => if gone.isEmpty && rs.all (fun r => r.aligned) && lineOk b then (0x01, b) else (0x12, 0)
      | _ => (0x12, 0))
  else if !det then (0x15, 0)
  else if rs.any (fun r => r.ledger) then (0x14, 0)
  else if 4 ≤ replays then (0x13, 0)
  else if sched then (0x18, 0) else (0x00, 0)

/-- Whether a line may form with a break (R417, R483): the ring is no line yet, the settings allow it, the image has its schedule. -/
def Chip.lineAllowed (c : Chip) (r : Run) (b : Nat) : Bool :=
  !c.ring.line && c.boot.set.lineMode && (c.scheds r.image).any (fun s => s.line && s.brk == b)

/-- The decision on the reports. -/
def Chip.decideOn (c : Chip) (r : Run) (rs : List MemberReport) : Decision :=
  let n := c.ringSize
  let rs := c.reports rs
  let cls := recClass c.slack.origin.toNat rs
  let o := outcome n rs cls (c.lineAllowed r) r.det c.recov.replays.toNat c.slack.sched
  { result := o.1, cls := cls, brk := BitVec.ofNat 6 o.2, tDec := c.tide.count }

/-! ### The restore (R475, R476) -/

/-- A used tile as its committed shadow says, its engines empty and its current control idle; its handles come from the image. A tile
that is frozen stays so (R127). -/
def Tile.restore (x : Tile) (s : Shadow) (hs : Tbl (W64 × W64)) : Tile :=
  let one (t : Tbl Sync) (k : Nat) : Tbl Sync := tblPut Sync.init t k (Sync.of (x.sync k).mode (s.syncs.getD k 0))
  { x.emptied with st := if x.st = .frozen then .frozen else .idle, warm := .idle, level := 0, stop := if x.st = .frozen then x.stop else none, fetched := s.idx, idx := s.idx, nextSeq := s.nextSeq, handles := hs, aows := aowsOf hs, syncs := (List.range 48).foldl one x.syncs,
                   checkInBatch := x.checkSeen }

/-- Restore one tile of a run. -/
def Chip.restoreTile (c : Chip) (r : Run) (t : Nat) : Chip :=
  match (c.tile t).commShadow with
  | some s => c.updTile t (fun x => x.restore s (c.recHandles (r.tilesOff + 0x800 * t)))
  | none => c

/-- A berth region as it stood at boundary k: its commit berth live and complete, a later reservation live and empty. -/
def Berth.rollback (b : Berth) (k : Nat) : Berth :=
  match (List.range b.count).find? (fun j => decide (k ≤ b.first + j * b.stride + 1)) with
  | none => { b with st := .released, reads := [] }
  | some j => { b with cur := j, st := .live, reads := [], got := if b.first + j * b.stride + 1 = k then b.planned else [] }

/-- Every member restores its state at the rollback boundary, and shifts its schedule if it replays (R476). -/
def Chip.restore (c : Chip) (d : Decision) : Chip :=
  match c.run with
  | none => c
  | some r =>
    let c := c.baseMark
    let k := r.committed
    let mc := c.markU (r.steps.getD k r.endOff)
    let d' := BitVec.ofNat 64 (c.growth (d.tDec.toNat + 235000 + c.tide.lead.toNat - mc))
    let c := r.tiles.foldl (fun c t => c.restoreTile r t) c
    let c := c.dropTraffic
    let c := c.updRun (fun r => { r with berths := r.berths.map (fun b => b.rollback k), reached := k + 1, reported := k })
    let c := { c with watches := c.watches.map (fun (w : Watch) => if k ≤ w.step then { w with ready := true, copying := false } else w) }
    let again := decide (d.result = 0x00)
    let c := if again then { c with tide := { c.tide with shift := c.tide.shift + d' } } else c
    let rp : Option W64 := if again then some (BitVec.ofNat 64 mc + d') else none
    let c : Chip := { c with recov := { c.recov with phase := .restore, mc := BitVec.ofNat 64 mc, rp := rp, commitReps := [] } }
    if c.tide.st == .lost then
      let v : FormVerdict := ⟨true, stOk, c.ring.vr, if c.ring.line then some c.ring.brk else none⟩
      ({ c with ring := { c.ring with kind := .again } }).measure v
    else c

/-- A line forms after a link was lost (R483): LINE_MODE, and the ring is measured again as a line. -/
def Chip.formLine (c : Chip) (b : BitVec 6) (roll : W64) : Chip :=
  let c := c.evMod 0x0804 (mkWord [(58, 6, b.toNat)]) roll
  let res := c.ring.result
  let res := if c.ring.pos = b then { res with w := 1 } else if (c.ring.pos.toNat + 1) % c.ringSize = b.toNat then { res with e := 1 } else res
  ({ c with ring := { c.ring with result := res, kind := .line } }).measure ⟨true, stOk, c.ring.vr, some b⟩

/-- A member acts on the decision. After ENDED_LINKS the ring stays held, so that a new plan can be stored (DEDUCED from R484, log 28). -/
def Chip.applyDecision (c : Chip) (d : Decision) : Chip :=
  let s := c.slack.cut.getD c.tide.count
  let roll := c.rollbackNo
  let c := if c.recov.open_ then c else c.startRecovery s
  let own := c.ownReport.cancelled
  let c := { c with recov := { c.recov with result := d.result, cls := d.cls } }
  if own || d.result = 0x19 then c.endAll 1 0x19
  else if d.result = 0x00 || d.result = 0x18 then c.restore d
  else if d.result = 0x01 then (c.endAll 2 d.result).formLine d.brk roll
  else if d.result = 0x12 then
    let c := c.endAll 2 d.result
    { c with slack := { c.slack with atSlack := true, heldS := s, cut := some s, inEffect := true } }
  else c.endAll 2 d.result

/-- The tide master decides, sends its decision both ways and acts on it. -/
def Chip.decideNow (c : Chip) (r : Run) (rs : List MemberReport) : Chip :=
  let d := c.decideOn r rs
  let c := if c.ringSize = 1 then c else c.send (.decision d)
  c.applyDecision d

/-- RECOVERY_DECIDE: the tide master holds every report. -/
def recoveryDecide (rs : List MemberReport) (c : Chip) : Chip :=
  match c.run with
  | none => c
  | some r => Chip.when (c.tide.master && c.keeper.state == .running && c.recov.phase == .decide && (missing c.ringSize (c.reports rs)).isEmpty) (fun c => c.decideNow r rs) c
/-- RECOVERY_DECIDE. -/
def execRecoveryDecide (rs : List MemberReport) (s : State) : Host.Outcome State Fault Refusal := onChip (recoveryDecide rs) s

/-- Whether this member takes the place of a tide master that has left: it is the lowest position that reports (R43). -/
def Chip.succeeds (c : Chip) (rs : List MemberReport) : Bool :=
  let all := c.reports rs
  let n := c.ringSize
  (match c.ring.inForce with
    | some p => !all.any (fun r => r.pos == p.master) && departed n all p.master.toNat
    | none => false) && all.all (fun r => decide (c.tide.position.toNat ≤ r.pos.toNat))

/-- This member takes over as tide master (R43): the plan in force names it from now on, it has its own sources (R40), and it is in
holdover on no source with its count kept. The next tick leaves holdover for its primary source. -/
def Chip.takeOver (c : Chip) : Chip :=
  match c.ring.inForce with
  | none => c
  | some p =>
    let src := tideSources p true c.tide.path
    { c with ring := { c.ring with inForce := some { p with master := c.tide.position } },
             tide := { c.tide with master := true, refPri := src.1, refSec := src.2, refActive := 7, hops := 0,
                                   st := if c.tide.st = .aligned then .holdover else c.tide.st, holdSince := c.up } }

/-- DECISION_DEADLINE: 470,000 tk after t_req the tide master decides without the missing reports; the successor of one that has left
decides in its place. -/
def decisionDeadline (rs : List MemberReport) (c : Chip) : Chip :=
  match c.run with
  | none => c
  | some r =>
    let c := if !c.tide.master && c.recov.phase == .decide && c.succeeds rs then c.takeOver else c
    Chip.when (c.tide.master && c.keeper.state == .running && c.recov.open_ && (c.recov.phase == .quiesce || c.recov.phase == .drain || c.recov.phase == .decide) &&
        decide (c.recov.tReq + 470000 ≤ c.now)) (fun c => c.decideNow r rs) c
/-- DECISION_DEADLINE. -/
def execDecisionDeadline (rs : List MemberReport) (s : State) : Host.Outcome State Fault Refusal := onChip (decisionDeadline rs) s

/-- RECOVERY_DECISION: also at a member that took the cut for a scheduled one (log 28). -/
def recoveryDecision (d : Decision) (c : Chip) : Chip :=
  let inIt := c.recov.phase == .quiesce || c.recov.phase == .drain || c.recov.phase == .decide ||
    ((c.recov.phase == .none || c.recov.phase == .cut) && c.slack.inEffect && !c.recov.open_)
  Chip.when (c.run.isSome && inIt) (fun c => c.applyDecision d) c
/-- RECOVERY_DECISION. -/
def execRecoveryDecision (d : Decision) (s : State) : Host.Outcome State Fault Refusal := onChip (recoveryDecision d) s

/-- A restored tile takes commands again, of the next generation (R123, R475). -/
def Tile.again (x : Tile) : Tile := { x with st := .running, gen := x.gen + 1 }

/-- The tiles of a run that a replay starts: those it can load whose handle table, checked again at the replay (R209), breaks no rule. The spec
names no outcome for a table that does; its tile takes no command of the replay (DESIGN CHOICE, log 97). -/
def Chip.replayTiles (c : Chip) (r : Run) : List Nat :=
  (c.loadable r).filter (fun t => (firstBad (c.handleRows r.ctx (r.tilesOff + 0x800 * t) t)).isNone)

/-- RESTORE_DONE: the member's state is restored, its generations are free and its time base is aligned; a HELD_SLACK is now held. -/
def restoreDone (c : Chip) : Chip :=
  match c.run with
  | none => c
  | some r =>
    Chip.when (c.recov.phase == .restore && c.gensFree r && (c.tide.st == .aligned || c.tide.st == .holdover) && c.keeper.state == .running) (fun c =>
      if c.recov.cancelled then c.endAll 1 0x19
      else
        let c := (c.replayTiles r).foldl (fun c t => c.updTile t Tile.again) c
        if c.recov.result = 0x18 then ({ c with recov := { c.recov with phase := .held } }).holdAt c.recov.mc
        else ({ c with recov := { c.recov with phase := .none } }).updRun (fun r => { r with state := .running })) c
/-- RESTORE_DONE. -/
def execRestoreDone (s : State) : Host.Outcome State Fault Refusal := onChip restoreDone s

/-- REPLAY_MARK: at Rp work is admitted again; RESUMED for a replay, and RECOVERY_DONE. A scheduled slack that was asked for after the
decision, too late for HELD_SLACK, is taken by the tide master now (DESIGN CHOICE, log 108). -/
def replayMark (c : Chip) : Chip :=
  match c.recov.rp with
  | none => c
  | some m =>
    Chip.when (c.recov.open_ && c.recov.phase == .none && c.run.isSome && decide (m.toNat ≤ c.now)) (fun c =>
      let last := m.toNat - c.recov.detect
      let rec_ := c.recov
      let c : Chip := { c with recov := { rec_ with last := BitVec.ofNat 32 last, worst := BitVec.ofNat 32 (max rec_.worst.toNat last) } }
      let late := c.slack.sched && c.tide.master && decide (c.recov.result = 0#8)
      let c : Chip := c.clearSlack
      let c : Chip := if late then c.masterTakes m c.tide.position .cmd else c
      let c : Chip := if c.recov.result = 0#8 then c.evMod 0x0704 m c.tide.shift else c
      c.recoveryDone m) c
/-- REPLAY_MARK. -/
def execReplayMark (s : State) : Host.Outcome State Fault Refusal := onChip replayMark s

end Sys2Proof.Machine
end

