-- ==== Sys2Proof/Machine/Clock.lean ====
section
/-! DEFINITION. What a passing arithmetic cycle does (R8, R44): the compute slots of the tiles that run (R137, R142, R202, R203,
R216), the counters of R493 and R578, and the tide count; and the stall limits (R220, R261, R304, R369). -/
namespace Sys2Proof.Machine

/-! ### Issue by opcode -/

/-- How an opcode issues. -/
def issueOf (op : Nat) : Option Issue :=
  if op = 0x01 then some waitIssue else if op = 0x02 then some signalIssue else if op = 0x03 then some fenceIssue
  else if op = 0x10 then some matmulIssue else if op = 0x11 then some loadwIssue else if op = 0x12 then some swapwIssue
  else if op = 0x13 then some gangIssue
  else if 0x20 ≤ op ∧ op ≤ 0x36 then some (vecIssue (vecMap id))
  else if 0x40 ≤ op ∧ op ≤ 0x42 then some xferIssue else if op = 0x43 then some pushIssue
  else if op = 0x50 then some attnIssue else if op = 0x58 then some markIssue else if op = 0x59 then some dumpIssue
  else none

/-- What holds the head of a tile's queue (R578): nothing to issue, its own wait, or (as `res`) any other hold. -/
def Chip.headHold (c : Chip) (t : Nat) : Hold :=
  match (c.tile t).queue with
  | [] => .idle
  | q :: _ =>
    if c.now < c.mark q.launch ∨ (c.tile t).st ≠ .running then .idle
    else match issueOf q.op with
      | some i => match i.hold c t q with
        | .none => .res
        | h => h
      | none => .res

/-! ### Compute slots -/

/-- The bank of a word of the window. -/
def bankOf (w : Nat) : Nat := w % 32

/-- Order a use of a slot: earlier due first, a write before a read. -/
def slotKey (u : Nat × Nat × Nat) : Nat := 2 * u.2.1 + (if u.1 = u.2.1 then 0 else 1)

/-- The uses a vector command takes in this ac, one per bank (R203), and those left. -/
def takeSlots (now : Nat) (us : List (Nat × Nat × Nat)) : List Nat × List (Nat × Nat × Nat) :=
  let ready := us.filter (fun u => decide (u.1 ≤ now))
  let best := ready.filter (fun u => ready.all (fun v => bankOf v.2.2 != bankOf u.2.2 || decide (slotKey u ≤ slotKey v)))
  let one := best.foldl (fun (acc : List (Nat × Nat × Nat)) u =>
    if acc.any (fun v => bankOf v.2.2 == bankOf u.2.2) then acc else acc ++ [u]) []
  (one.map (fun u => bankOf u.2.2), one.foldl (fun l u => l.erase u) us)

/-- Split words into those whose bank is free, taking each bank once, and those that lose. -/
def grantWords : List Nat → List Nat → List Nat × List Nat × List Nat
  | used, [] => (used, [], [])
  | used, w :: ws =>
    if used.contains (bankOf w) then let r := grantWords used ws; (r.1, r.2.1, w :: r.2.2)
    else let r := grantWords (bankOf w :: used) ws; (r.1, w :: r.2.1, r.2.2)

/-- The ranges of an array's next LOADW read: the weight row of step r, or after the last row its scale bytes (R134, R151). -/
def lwNext (h sc : Hnd) (t a : Nat) (m : MCmd) : List (Nat × Nat) :=
  let q := m.cmd
  let b := if m.mode = 1 then 0 else a
  if m.fed < 16 then h.ranges t (fld (q.w 2) 19 0 + b * fld (q.w 3) 19 0 + m.fed * fld (q.w 2) 51 32) (rowBytes q.lwFmt)
  else sc.ranges t (fld (q.w 4) 19 0 + b * 16) 16

/-- The ranges of a MATMUL's next vector, and of its scale byte (R148). -/
def mmNext (h sc : Hnd) (t a : Nat) (m : MCmd) : List (Nat × Nat) × List (Nat × Nat) :=
  let q := m.cmd
  let b := if 2 ≤ m.mode.toNat then 0 else a
  (h.ranges t (fld (q.w 2) 19 0 + b * fld (q.w 3) 19 0 + m.fed * fld (q.w 2) 51 32) (q.mmVec m.mode.toNat),
   if fld (q.w 4) 11 10 = 0 then [] else sc.ranges t (fld (q.w 4) 39 20 + b * 128 + m.fed) 1)

/-- The words of ranges, as word numbers of the window. -/
def rangeWords (rs : List (Nat × Nat)) : List Nat := (rs.flatMap (fun r => unitsOf 32 (r.1 - spdBase) r.2)).eraseDups

/-- A serialised access (R216): counted, shown, raised once per run per tile. -/
def Chip.conflict (c : Chip) (t : Nat) (q : QCmd) (lost : List Nat) : Chip :=
  match lost with
  | [] => c
  | w :: _ =>
    let first := !(c.tile t).conflictRaised
    let c := c.updTile t (fun x =>
      let spd := { x.spd with conflict := true, conflictCnt := addN x.spd.conflictCnt lost.length }
      { x with conflictRaised := true, spd := spd })
    if first then c.evTile t 0x0301 (mkWord [(48, 16, q.id.toNat), (43, 5, bankOf w)]) (c.tile t).spd.conflictCnt else c

/-- What the compute slots of one ac have served so far: the banks taken, and the words of a LOADW's scale bytes that it has been
served or denied in this ac, each with its command's index, since a LOADW reads such a word once for all its arrays (R134). -/
structure SlotUse where
  used   : List Nat
  served : List (Nat × Nat)
  denied : List (Nat × Nat)

/-- One matrix command of an array competes for its read's banks, which is due from `due` on. When every word is served, the bytes join
its feeds: a LOADW's next row, or a MATMUL's next vector, whose entry is 6 ac later or, after a bubble, at the next vector interval
(R129, R134, R142). -/
def Chip.serveRead (c : Chip) (t a now due : Nat) (u : SlotUse) (m : MCmd) : Chip × SlotUse :=
  let x := c.tile t
  let q := m.cmd
  let mm := q.op == 0x10
  let h := x.hnd (fld (q.w 2) 25 20)
  let sc := x.hnd (if mm then fld (q.w 4) 17 12 else fld (q.w 3) 53 48)
  let rs := if mm then mmNext h sc t a m else (lwNext h sc t a m, [])
  let once := !mm && decide (16 ≤ m.fed)
  let need := if m.tried then m.need else rangeWords (rs.1 ++ rs.2)
  let g := grantWords u.used (need.filter (fun w => !u.served.contains (q.idx, w) && !u.denied.contains (q.idx, w)))
  let as := m.together a
  let lost := g.2.2 ++ need.filter (fun w => u.denied.contains (q.idx, w))
  let u : SlotUse := { used := g.1, served := if once then g.2.1.map (fun w => (q.idx, w)) ++ u.served else u.served,
                       denied := if once then g.2.2.map (fun w => (q.idx, w)) ++ u.denied else u.denied }
  let due := if mm && m.fed == 0 && !m.tried then now else due
  let c := if m.tried then c else c.conflict t q g.2.2
  if !lost.isEmpty then (c.updTile t (fun x => x.updMCmd as q.idx (fun y => { y with need := lost, tried := true, dueAc := due })), u)
  else
    let r := c.fetchAll (tileReader true) rs.1
    let s := r.1.fetchAll (tileReader true) rs.2
    let iv := if mm then q.mmInterval else if q.lwFmt = 6 ∧ m.fed < 16 then 2 else 1
    let late := cdiv (now - due) iv
    let at_ := if mm then due + late * iv + 6 else now + 6
    let f : Feed := ⟨at_, r.2.1, s.2.1.headD 0, r.2.2 || s.2.2⟩
    let c := if m.fed = 0 then s.1.traceTile 1 t 0x01 a false (q.w 0) (q.w 1) 0 0 else s.1
    (c.updTile t (fun x =>
      let x := x.updMCmd as q.idx (fun y =>
        { y with feeds := y.feeds ++ [f], fed := y.fed + 1, lastAc := if mm then at_ else now,
                 dueAc := if mm then at_ + iv - 6 else now + iv, need := [], tried := false })
      { x with cnt := { x.cnt with arrBusy := addN x.cnt.arrBusy as.length,
                                   bubble := if mm then addN x.cnt.bubble (late * as.length) else x.cnt.bubble } }), u)

/-- The next command of an array's queue, of an opcode, that has reads to make. -/
def Arr.reading (x : Arr) (op : Nat) : Option MCmd :=
  x.queue.find? (fun m => m.cmd.op == op && decide (m.fed < (if op = 0x10 then m.cmd.mmLen else m.cmd.lwReads)))

/-- The ac from which a command's next read may be made in every array that it moves in. -/
def Tile.readFromAll (x : Tile) (a : Nat) (m : MCmd) : Option Nat :=
  (m.together a).foldl (fun z b => z.bind (fun n =>
    if (x.arr b).queue.any (fun y => y.cmd.idx == m.cmd.idx) then (x.readFrom b m).map (fun k => max n k) else none)) (some 0)

/-- The compute slots of a tile in one ac (R202): the vector unit, then LOADW reads in array order, then array feeds in array
order; a ganged command reads once. -/
def Chip.computeSlots (c : Chip) (t now : Nat) : Chip :=
  let v := match (c.tile t).vec with | some v => takeSlots now v.slots | none => ([], [])
  let c := if v.1.isEmpty then c else c.updTile t (fun x => { x with vec := x.vec.map (fun y => { y with slots := v.2 }) })
  if (c.tile t).st ≠ .running then c
  else
    let go (op : Nat) (acc : Chip × SlotUse) : Chip × SlotUse :=
      (List.range 4).foldl (fun acc a =>
        match ((acc.1.tile t).arr a).reading op with
        | some m =>
          if (m.together a).length = 1 ∨ a = 0 then
            match (acc.1.tile t).readFromAll a m with
            | some due => if due ≤ now then acc.1.serveRead t a now due acc.2 m else acc
            | none => acc
          else acc
        | none => acc) acc
    (go 0x10 (go 0x11 (c, ⟨v.1, [], []⟩))).1

/-! ### Vectors entering (R137, R142, R143) -/

/-- A MATMUL's entries from an ac on, and its next read, moved back by some ac. -/
def MCmd.delay (m : MCmd) (now n : Nat) : MCmd :=
  if m.fed = 0 then m
  else { m with feeds := m.feeds.map (fun f => if now ≤ f.at_ then { f with at_ := f.at_ + n } else f), lastAc := m.lastAc + n,
                dueAc := m.dueAc + n }

/-- The MATMULs of a queue from one on, moved back so that none enters before `free` or before the one ahead of it has entered. -/
def respace (now : Nat) : Nat → List MCmd → List MCmd
  | _, [] => []
  | free, m :: r =>
    if m.cmd.op ≠ 0x10 ∨ m.fed = 0 then m :: respace now free r
    else
      let first := match m.feeds.find? (fun f => decide (now ≤ f.at_)) with
        | some f => f.at_
        | none => m.dueAc + 6
      let y := if m.entered now then m else m.delay now (free - first)
      y :: respace now (y.lastAc + y.cmd.mmInterval) r

/-- The vector that was to enter some arrays in this ac, and all that follow it, enter some ac later. -/
def Tile.putOff (x : Tile) (as : List Nat) (idx now n : Nat) : Tile :=
  x.updQueues as (fun q => q.takeWhile (fun y => y.cmd.idx != idx) ++ respace now (now + n) (q.dropWhile (fun y => y.cmd.idx != idx)))

/-- What enters an array in this ac. A vector waits while its MATMUL is not at the head (R138) or the tile is not warm (R143). Where its
output would find its buffer's port held by the vector unit, a bubble enters, and what is still to enter does so one vector interval
later (R129, R142). -/
def Tile.enterAc (x : Tile) (a now : Nat) : Tile :=
  match (x.arr a).queue.find? (fun m => m.cmd.op == 0x10 && m.feeds.any (fun f => f.at_ == now)) with
  | none => x
  | some m =>
    let as := m.together a
    let bufs := if m.mode = 3 then [0] else if m.mode = 4 then [0, 1] else as
    if as.length ≠ 1 ∧ a ≠ 0 then x
    else if m.begun = false ∨ x.warm ≠ .warm then x.putOff as m.cmd.idx now 1
    else if x.vec.any (fun v => bufs.any (fun b => v.ports.contains (now + modeLatency m.mode.toNat, b))) then
      let x := x.putOff as m.cmd.idx now m.cmd.mmInterval
      { x with lastUse := now, cnt := { x.cnt with bubble := addN x.cnt.bubble as.length } }
    else { x with lastUse := now }

/-! ### Counters (R493, R578) -/

/-- The counters of a tile for one ac. -/
def Chip.countAc (c : Chip) (t now : Nat) (busy0 : W64) : Chip :=
  let x := c.tile t
  let used := (x.cnt.arrBusy - busy0).toNat
  let warm := if x.warm = .warm then 4 - min 4 used else if x.warm = .idle then 0 else 4
  let n := { x.cnt with vecBusy := addN x.cnt.vecBusy (b2n x.vec.isSome), dmaBusy := addN x.cnt.dmaBusy (b2n (decide (0 < x.actives))),
                        warm := addN x.cnt.warm warm }
  let issuedNow := decide (x.lastIssueAc = now) && decide (0 < x.idx)
  let h := if issuedNow then Hold.none else c.headHold t
  let n := if h = .idle then n else { n with notIdle := n.notIdle + 1 }
  let n := match h with
    | .wait => { n with wait := n.wait + 1 }
    | .cls => { n with stallClass := n.stallClass + 1 }
    | .res => { n with stallRes := n.stallRes + 1 }
    | _ => n
  c.setTile t { x with cnt := n, spd := if h = .scoreboard then { x.spd with sbWait := x.spd.sbWait + 1 } else x.spd }

/-- One ac of one tile: what lands at its port, the compute slots and then the port slots of its banks, so that a compute read sees what was
stored before the port slot of its ac (R205, R206); the two fabric cycles of its DMA engine (R243); and the counters. -/
def Chip.tileAc (c : Chip) (t : Nat) : Chip :=
  let now := c.nowAc
  let busy0 := (c.tile t).cnt.arrBusy
  let c := c.portLandings t now
  let c := if (c.tile t).st == .running then c.updTile t (fun x => [0, 1, 2, 3].foldl (fun x a => x.enterAc a now) x) else c
  let c := (c.computeSlots t now).portAc t now
  (((c.engineAsk t 0).engineAsk t 1).countAc t now busy0)

/-- One ac of a strait's codec unit (R330): while it is full and a coded transfer waits to send, coded flits are held, which is shown
and counted in each of the two fabric cycles. -/
def Chip.codecAc (c : Chip) (st : Strait) : Chip :=
  let u := c.cdc (64 + straitNum st)
  if u.encFree = 0 then c
  else
    let held := c.codecFull st && c.tiles.any (fun e => e.2.st == .running && e.2.streams.any (fun y => match y.2.active with
      | some x => !y.2.checking && decide (x.readyAc ≤ c.nowAc) && decide (x.moved < c.unitCount e.1 x) && c.codedOn st e.1 x
      | none => false))
    c.updCdc (64 + straitNum st) (fun u => { u with throttle := held, throttleCnt := addN u.throttleCnt (2 * b2n held) })

/-- The end of a tick: the tide master chooses the cut of the requests that reached it (R82), and holdover ends for a source that is
valid (R37), as at a tide master that has just taken over (R43). A member whose report has changed sends it again (R478). -/
def Chip.endTick (c : Chip) : Chip :=
  let c := c.chooseSlack.reportAgain
  match c.tide.pick with
  | some s => if c.tide.st = .holdover then { c with tide := { c.tide with st := .aligned, refActive := s } } else c
  | none => c

/-- One ac: every tile that holds anything, then the count of ac and, after the eighth, of ticks. -/
def Chip.passAc (c : Chip) : Chip :=
  let c := c.tiles.foldl (fun c e => c.tileAc e.1) c
  let c := [Strait.e, .w, .x0, .x1].foldl Chip.codecAc c
  let c := if c.tide.phase = 7 then c.endTick else c
  { c with tide := { c.tide with acs := c.tide.acs + 1, phase := c.tide.phase + 1,
                                 count := if c.tide.phase = 7 then c.tide.count + 1 else c.tide.count } }

/-- What a step does on an empty queue (DESIGN CHOICE, log 4): one ac passes in a module that runs. The tide count never passes
its last value (R44). -/
def passAc (s : State) : Host.Outcome State Fault Refusal :=
  if !s.live then .next s
  else if s.chip.tide.phase = 7 ∧ s.chip.tide.count = BitVec.allOnes 64 then .fault .tideWouldWrap
  else .next { s with chip := s.chip.passAc }

/-! ### STALL_LIMIT (R103, R220, R261, R304, R369) -/

/-- The limit for work counted from a mark: the later of the second step boundary after it, the run's end being one, and 2 ms. -/
def Chip.stallLimit (c : Chip) (from_ : Nat) : Nat :=
  match c.run with
  | none => from_ + 235000
  | some r =>
    match ((r.steps ++ [r.endOff]).map c.mark).filter (fun m => decide (from_ < m)) with
    | _ :: m :: _ => max m (from_ + 235000)
    | _ => from_ + 235000

/-- Whether work counted from a mark has passed its limit. -/
def Chip.stalled (c : Chip) (from_ : Nat) : Bool := decide (c.stallLimit from_ ≤ c.now)

/-- What of a tile has passed its limit, if anything: the code of STALL_CYCLE, the command, and the count from which it counts. -/
def Chip.stallOf (c : Chip) (t : Nat) : Option (Nat × QCmd × Nat) :=
  let x := c.tile t
  let xs := x.streams.flatMap (fun s => s.2.held.map (fun y => (1, y.cmd, y.launch)))
  let as := x.attns.map (fun a => (1, a.cmd, a.launch))
  let ps := ((c.pushes.e ++ c.pushes.w).filter (fun p => p.tile == t && !p.started && p.cmd.gate && !c.gateOpen p)).map
    (fun p => (3, p.cmd, c.mark p.cmd.inject))
  let hd := match x.queue with
    | q :: _ => if c.markReached t q && !c.otherHold t q then
        (match (match issueOf q.op with | some i => i.hold c t q | none => .none) with
          | .res => if 0x40 ≤ q.op ∧ q.op ≤ 0x50 then [(2, q, c.mark q.launch)] else []
          | .scoreboard => [(4, q, c.mark q.launch)]
          | .wait => [(5, q, c.mark q.launch)]
          | _ => [])
      else []
    | [] => []
  (xs ++ as ++ ps ++ hd).find? (fun e => c.stalled e.2.2)

/-- A stall limit of a tile has passed: STALL_CYCLE, and the tile freezes with cause 0x0C. -/
def stallLimitRow (t : Nat) (c : Chip) : Chip :=
  if (c.tile t).st ≠ .running then c
  else match c.stallOf t with
    | none => c
    | some e =>
      let q := e.2.1
      let c := if e.1 ≤ 3 then c.updTile t (fun x => { x with stall := true }) else c
      let c := c.freezeTile t 0x0C q.id q.opB false
      c.evTile t 0x0204 (mkWord [(48, 16, q.id.toNat), (40, 8, e.1)]) (BitVec.ofNat 64 e.2.2)
/-- STALL_LIMIT. -/
def execStallLimit (t : TileId) (s : State) : Host.Outcome State Fault Refusal := onChip (stallLimitRow t.toNat) s

/-- FERRY_HOLD_STALL (R110, R402): a held ferry or signal of a strait has waited past the stall limit. -/
def execFerryHoldStall (st : Strait) (s : State) : Host.Outcome State Fault Refusal := onChip (ferryHoldStall st Chip.stallLimit) s

/-- PER_BANK_REFRESH (R277): a scheduled access waiting at the channel is load. -/
def execPerBankRefresh (ch : ChanId) (s : State) : Host.Outcome State Fault Refusal :=
  onChip (perBankRefresh (fun k c => (c.chanReqs k).any (fun r => r.ddl.isSome)) ch.toNat) s

end Sys2Proof.Machine
end

