-- ==== Sys2Proof/Machine/ObsCmds.lean ====
section
/-! DEFINITION. The obs.* commands: counter dumps (R494), the pan's configuration, arming, stopping and readout (R498 to R502), tensor watches
(R511) and harvests (R490, R514 to R516). -/
namespace Sys2Proof.Machine

/-- Bytes of the buffer a request names; none with no REF. -/
def Req.room (q : Req) : Nat := if q.ref = 0 then 0 else q.refLen.toNat

/-- Write a result at REF and complete, or complete with ST_BOUNDS after a PCIe error (R435). -/
def Chip.toRef (c : Chip) (n : Nat) (q : Req) (busErr : Bool) (bs : List Byte) (rsp : List W64) : Chip :=
  if busErr then c.refuse n q stBounds
  else (c.hostWrite q.ref.toNat bs).answerRef n q stOk (wordsBytes rsp) bs.length

/-! ### OBS_COUNTERS (R494) -/

/-- The blocks a BLOCKS mask names, in order, each with the 64-bit words copied of it. -/
def dumpBlocks (mask first count : Nat) : List (Blk × Nat) :=
  let on (k : Nat) (l : List (Blk × Nat)) : List (Blk × Nat) := if mask / 2 ^ k % 2 = 1 then l else []
  let ts := (List.range count).map (· + first)
  on 0 (ts.map (fun t => (.tile t, 32))) ++ on 1 (ts.map (fun t => (.spd t, 256))) ++
  on 2 ((List.range 64).map (fun ch => (.lpc ch, 32)) ++ [(.lpcMod, 32)]) ++ on 3 ((List.range 64).map (fun ch => (.chn ch, 32))) ++
  on 4 ((List.range 68).map (fun u => (.cdc u, 32)) ++ [(.cdcMod, 128)]) ++ on 5 ([Strait.e, .w, .x0, .x1].map (fun s => (.str s, 32))) ++
  on 6 [(.tide, 32)]

/-- OBS_COUNTERS: latched at one tick; a word the issuer may not read refuses the whole. -/
def obsCounters (n : Nat) (busErr : Bool) (j : Jtag) (q : Req) (c : Chip) : Chip :=
  let w := q.w 0
  let mask := fld w 39 32
  let count := fld w 24 12
  let first := fld w 11 0
  let bl := dumpBlocks mask first count
  let size := 64 + bl.foldl (fun k b => k + 8 * b.2) 0
  if 4096 < first + count then c.answer n q stBadArg [] 0
  else if q.room < size then c.refuse n q stBadArg
  else if bl.any (fun b => (List.range b.2).any (fun i => !c.sees n b.1 (8 * i))) then c.answer n q stNotPermitted [] 0
  else
    let head := wordsBytes [c.tide.count, mkWord [(32, 8, mask), (12, 13, count), (0, 12, first)], BitVec.ofNat 64 size, 0, 0, 0, 0, 0]
    c.toRef n q busErr (head ++ bl.flatMap (fun b => c.blkBytes j b.1 b.2)) [c.tide.count]
/-- OBS_COUNTERS. -/
def execObsCounters (who : Issuer) (busErr : Bool) (s : State) : Host.Outcome State Fault Refusal :=
  onChipJ (fun j => Chip.onReq (issuerNum who) 0x0700 (fun _ => true) (obsCounters (issuerNum who) busErr j)) s

/-! ### obs.trace (R498 to R502) -/

/-- OP of obs.trace. -/
def Req.traceOp (q : Req) : Nat := fld (q.w 0) 3 0

/-- Whether a selection is allowed: in SERVICE a context selects its own tiles and kinds 0 to 3 and 8. -/
def Chip.selAllowed (c : Chip) (n first count kinds : Nat) : Bool :=
  c.visOpen || n == 16 || ((List.range count).all (fun i => c.ownTile n (first + i)) && decide (kinds / 16 % 16 = 0))

/-- OBS_TRACE_CONFIGURE, and the reserved OPs. An accepted configuration discards the capture before it (DESIGN CHOICE, log 33). -/
def obsTraceConfigure (n : Nat) (q : Req) (c : Chip) : Chip :=
  let w4 := q.w 4
  let w5 := q.w 5
  let spill := q.w 1
  let size := (q.w 2).toNat
  let mode := fld (q.w 0) 5 4
  let cap := if spill = 0 then 524288 else size / 32
  if q.traceOp ≠ 0 ∨ mode = 3 then c.answer n q stBadArg [] 0
  else if c.pan.live && c.pan.owner != some n then c.refuse n q stBusy
  else if spill ≠ 0 ∧ (size = 0 ∨ size % 0x40_0000 ≠ 0 ∨ 0x1_0000_0000 < size) then c.answer n q stBadArg [] 16
  else if 4096 < fld w4 51 39 then c.answer n q stBadArg [] 0x20
  else if 4 < fld w5 63 60 then c.answer n q stBadArg [] 0x28
  else if !c.selAllowed n (fld w4 63 52) (fld w4 51 39) (fld w4 8 0) then c.answer n q stNotPermitted [] 0x20
  else if spill ≠ 0 && !(inLp spill.toNat && covered (c.ctxRegions n) spill.toNat size) then c.answer n q stNotPermitted [] 8
  else if mode = 2 ∧ cap < fld (q.w 3) 31 0 + fld (q.w 3) 63 32 + 2 then c.refuse n q stNoSpace
  else
    ({ c with pan := { c.pan with owner := some n, mode := BitVec.ofNat 2 mode, st := .idle, spill := spill, spillSize := if spill = 0 then 0 else size,
                                  post := fld (q.w 3) 63 32, pre := fld (q.w 3) 31 0, sel := [w4, w5, q.w 6, q.w 7], recs := [], total := 0, lostCap := 0,
                                  bufs := [] } }).refuse n q stOk
/-- OBS_TRACE_CONFIGURE. -/
def execObsTraceConfigure (who : Issuer) (s : State) : Host.Outcome State Fault Refusal :=
  onChip (Chip.onReq (issuerNum who) 0x0701 (fun q => q.traceOp == 0 || decide (3 < q.traceOp)) (obsTraceConfigure (issuerNum who))) s

/-- An empty capture, armed. -/
def Pan.arm (p : Pan) : Pan :=
  { p with st := .armed, recs := [], total := 0, lostCap := 0, postLeft := 0, bufs := [], trigIdx := BitVec.allOnes 64 }

/-- OBS_TRACE_ARM: by the issuer that owns the pan. -/
def obsTraceArm (n : Nat) (q : Req) (c : Chip) : Chip :=
  if c.pan.owner ≠ some n then c.refuse n q stNotPermitted else ({ c with pan := c.pan.arm }).refuse n q stOk
/-- OBS_TRACE_ARM. -/
def execObsTraceArm (who : Issuer) (s : State) : Host.Outcome State Fault Refusal :=
  onChip (Chip.onReq (issuerNum who) 0x0701 (fun q => q.traceOp == 1) (obsTraceArm (issuerNum who))) s

/-- Take the waiting records while the capture runs, at most k. -/
def panDrain : Nat → Chip → Chip
  | 0, c => c
  | k + 1, c => if c.pan.live && !c.pan.bufs.isEmpty then panDrain k c.panAccept else c

/-- OBS_TRACE_STOP: at the tick of acceptance; the records stamped before it are kept if there is room. -/
def obsTraceStop (n : Nat) (q : Req) (c : Chip) : Chip :=
  if c.pan.owner ≠ some n then c.refuse n q stNotPermitted
  else if !c.pan.live then c.refuse n q stOk
  else
    let old (r : TRec) : Bool := decide (fld r.w0 63 16 ≠ c.now % 2 ^ 48)
    let one (b : PanBuf) : PanBuf := { b with recs := b.recs.filter old }
    let bufs := c.pan.bufs.map one
    let c := { c with pan := { c.pan with bufs := bufs } }
    let c := panDrain (bufs.foldl (fun k b => k + b.recs.length + 2) 0) c
    ({ c with pan := { c.pan with st := .stopped, bufs := [] } }).refuse n q stOk
/-- OBS_TRACE_STOP. -/
def execObsTraceStop (who : Issuer) (s : State) : Host.Outcome State Fault Refusal :=
  onChip (Chip.onReq (issuerNum who) 0x0701 (fun q => q.traceOp == 2) (obsTraceStop (issuerNum who))) s

/-- The header of a readout. -/
def Chip.traceHead (c : Chip) : List Byte :=
  let p := c.pan
  wordsBytes [c.boot.serial,
    mkWord [(58, 6, c.ring.pos.toNat), (54, 4, c.ringNo.toNat), (52, 2, p.mode.toNat), (51, 1, b2n (decide (p.trigIdx ≠ BitVec.allOnes 64))),
      (50, 1, b2n (decide (p.spill ≠ 0)))],
    BitVec.ofNat 64 p.recs.length, BitVec.ofNat 64 p.lostCap, p.trigIdx, mkWord [(32, 32, c.tide.residual.toNat), (16, 16, p.stampHigh.toNat)], p.xoff0, p.xoff1]

/-- OBS_TRACE_READ: only while the pan is stopped. -/
def obsTraceRead (n : Nat) (busErr : Bool) (q : Req) (c : Chip) : Chip :=
  if c.pan.owner ≠ some n then c.refuse n q stNotPermitted
  else if c.pan.st ≠ .stopped then c.refuse n q stBusy
  else
    let bs := c.traceHead ++ c.pan.recs.flatMap TRec.bytes
    if q.room < bs.length then c.refuse n q stBadArg else c.toRef n q busErr bs []
/-- OBS_TRACE_READ. -/
def execObsTraceRead (who : Issuer) (busErr : Bool) (s : State) : Host.Outcome State Fault Refusal :=
  onChip (Chip.onReq (issuerNum who) 0x0701 (fun q => q.traceOp == 3) (obsTraceRead (issuerNum who) busErr)) s

/-! ### OBS_WATCH (R511) -/

/-- The stream index of the last command of a tile's stream with a layer and operator whose launch offset lies in a step. -/
def Chip.watchTarget (c : Chip) (r : Run) (t : Nat) (layer oper step : Nat) : Option Nat :=
  let x := c.tile t
  ((List.range x.streamLen).filter (fun i =>
    let w0 := wordAt (c.bytes (x.streamAt + 64 * i) 8) 0
    let w1 := wordAt (c.bytes (x.streamAt + 64 * i + 8) 8) 0
    let off := fld w0 31 0
    fld w1 31 16 == layer && fld w1 15 0 == oper && r.steps.any (fun s => decide (s ≤ off)) && r.stepOf off == step)).getLast?

/-- OBS_WATCH: the statuses in R511's order. -/
def obsWatch (n : Nat) (q : Req) (c : Chip) : Chip :=
  let w := q.w 0
  let t := fld w 43 32
  let k := fld w 49 44
  let step := (q.w 1).toNat
  let off := (q.w 2).toNat
  let len := (q.w 3).toNat
  match c.run with
  | none => c.refuse n q stNotPermitted
  | some r =>
    match (if r.tiles.contains t then c.watchTarget r t (fld w 15 0) (fld w 31 16) step else none) with
    | none => c.answer n q stBadArg [] 0
    | some ix =>
      let h := c.hnd t k
      if (h.kind ≠ 1 ∧ h.kind ≠ 2) ∨ h.fits off len = false then c.answer n q stBounds [] 16
      else if len = 0 ∨ len % 64 ≠ 0 ∨ 0x400_0000 < len ∨ q.room < len + 64 then c.answer n q stBadArg [] 24
      else if c.watches.any (fun v => v.tile == t) || decide (8 ≤ c.watches.length) then c.answer n q stNotPermitted [] 0
      else
        let done := (c.tile t).cmdDone ix ((c.pushes.e ++ c.pushes.w).filter (fun p => p.tile = t))
        let v : Watch := { tile := t, ctx := n, handle := k, oper := BitVec.ofNat 16 (fld w 31 16), layer := BitVec.ofNat 16 (fld w 15 0), step := step,
                           off := off, len := len, ref := q.ref, target := ix, fires := 0, ready := !done, copying := false }
        ({ c with watches := c.watches ++ [v] }).refuse n q stOk
/-- OBS_WATCH. -/
def execObsWatch (who : Issuer) (s : State) : Host.Outcome State Fault Refusal :=
  onChip (Chip.onReq (issuerNum who) 0x0702 (fun _ => true) (obsWatch (issuerNum who))) s

/-! ### OBS_HARVEST (R490, R516) -/

/-- Whether a harvest of a master may be returned to an issuer. -/
def Chip.harvestOk (c : Chip) (n kind id : Nat) : Bool :=
  if n = 16 then true
  else match kind with
    | 0 => if (match c.runs with | r :: _ => r.tiles.contains id | [] => false) then c.ownTile n id || (n == 0 && c.visOpen) else c.visOpen
    | 1 => c.visOpen || id == n
    | 2 => c.visOpen
    | 3 => c.visOpen || n == 0
    | _ => c.visOpen && (n == 0 || c.runs.isEmpty || c.lastRunCtx == n)

/-- The cause recorded for a master. -/
def Chip.harvestCause (c : Chip) (kind id : Nat) : Nat :=
  match kind with
  | 0 => (c.tile id).faultCause.toNat
  | 1 => (c.ctx id).fcause.toNat
  | 2 => (c.str (straitOf id)).faultCause.toNat
  | 3 => b2n (c.tray.frozen.getLsbD id)
  | _ => 0

/-- The slot with the newest stored harvest of a master. -/
def Chip.newestHarvest (c : Chip) (kind id : Nat) : Option (Nat × Harvest) :=
  (c.harvests.filter (fun e => e.2.kind.toNat == kind && e.2.id.toNat == id)).foldl (fun (b : Option (Nat × Harvest)) e =>
    match b with
    | some x => if x.2.at_.toNat ≤ e.2.at_.toNat then some e else b
    | none => some e) none

/-- OBS_HARVEST: the newest stored one of the master, whose slot is freed, or one taken at once. -/
def obsHarvest (n : Nat) (busErr : Bool) (q : Req) (c : Chip) : Chip :=
  let kind := fld (q.w 0) 63 61
  let id := fld (q.w 0) 11 0
  if 4 < kind ∨ (kind = 1 ∧ 15 < id) ∨ (kind = 2 ∧ 3 < id) ∨ (kind = 3 ∧ 15 < id) then c.answer n q stBadArg [] 0
  else if !c.harvestOk n kind id then c.answer n q stNotPermitted [] 0
  else
    let kept := if kind = 4 then none else c.newestHarvest kind id
    let bs := match kept with
      | some e => e.2.bytes
      | none => c.harvestBytes (BitVec.ofNat 3 kind) id (c.harvestCause kind id)
    if busErr || decide (q.room < bs.length) then c.refuse n q stBounds
    else
      let c := match kept with | some e => { c with harvests := tblErase c.harvests e.1 } | none => c
      c.toRef n q false bs []
/-- OBS_HARVEST. -/
def execObsHarvest (who : Issuer) (busErr : Bool) (s : State) : Host.Outcome State Fault Refusal :=
  onChip (Chip.onReq (issuerNum who) 0x0703 (fun _ => true) (obsHarvest (issuerNum who) busErr)) s

end Sys2Proof.Machine
end

