-- ==== Sys2Proof/Machine/Keeper.lean ====
section
/-! DEFINITION. The Keeper's watchdog and its restart (R427, R428, R457, R540). -/
namespace Sys2Proof.Machine

/-- A response that still waits for room is a request not yet answered: its opcode and tag. -/
def Rsp.asReq (r : Rsp) : Req :=
  { opcode := r.opcode, gen := BitVec.ofNat 4 (r.tag.toNat / 4096), seq := BitVec.ofNat 12 r.tag.toNat, len := 0, ref := 0, refLen := 0,
    payload := [] }

/-- The requests of a mailbox that were accepted and are not yet answered: answers that wait, the one started, those in the
background. -/
def Chip.unanswered (c : Chip) (n : Nat) : List (Nat × Req) :=
  ((c.ctx n).rsps.map Rsp.asReq ++ (c.ctx n).cur.toList ++ (c.keeper.bgs.filter (fun b => decide (b.who = n))).map (fun b => b.req)).map (fun q => (n, q))

/-- What a reset of the Keeper loses (R428, R540): every request accepted and not yet answered, which are kept to be answered
after the restart, and with it what it was doing. -/
def Chip.loseRequests (c : Chip) : Chip :=
  let lost := (List.range 17).flatMap (fun n => c.unanswered n)
  let c := c.keeper.bgs.foldl (fun c b => c.undo b.kind) c
  let c := (List.range 17).foldl (fun c n => c.updCtx n (fun x => { x with cur := none, rsps := [] })) c
  { c with keeper := { c.keeper with bgs := [], lostReqs := c.keeper.lostReqs ++ lost } }

/-- A second: an expiry within it of the last one halts the Keeper (R427). -/
def secondTk : Nat := 117500000

/-- WATCHDOG_EXPIRY: a forced slack of the ring, then the Keeper is reset, or halts where a second expiry follows within 1 s. -/
def watchdogExpiry (c : Chip) : Chip :=
  Chip.when (c.keeper.state == .running || c.keeper.state == .restarting) (fun c =>
    let again := (c.keeper.lastExpiry.map (fun t => decide (c.up ≤ t + secondTk))).getD false
    let c := (c.forceSlack 0x07).loseRequests
    { c with keeper := { c.keeper with state := if again then .halted else .restarting, lastExpiry := some c.up, expiryCount := c.tide.count } }) c
/-- WATCHDOG_EXPIRY. -/
def execWatchdogExpiry (s : State) : Host.Outcome State Fault Refusal := onChip watchdogExpiry s

/-- The record that goes before any other after a restart (R457): the events raised less those written, in every ring that has room. -/
def Chip.lossRecord (c : Chip) : Chip :=
  let e : Ev := { code := 0x0707, kind := 0, id := 0, stamp := c.tide.count, d0 := c.keeper.evtRaised - c.keeper.evtWritten,
                  d1 := 0x8000000000000000 }
  ((List.range 17).filter c.isOpen).foldl
    (fun c n => if (c.ctx n).evtFull then c.updCtx n (fun x => { x with evtLost := x.evtLost + 1, gap := x.gap + 1 }) else c.putEv n e) c

/-- KEEPER_RESTART: the firmware reloaded from the Keeper reserve passes its check. With LPDDR5X disabled the reserve holds no copy,
and the check fails (DEDUCED, log 35). -/
def keeperRestart (c : Chip) : Chip :=
  Chip.when (c.keeper.state == .restarting) (fun c =>
    if !c.boot.memOk then { c with keeper := { c.keeper with state := .halted } }
    else
      let lost := c.keeper.lostReqs
      let c := { c with keeper := { c.keeper with state := .running, restartCnt := c.keeper.restartCnt + 1, wdtExpired := true, lostReqs := [] } }
      let c := ((List.range 17).filter c.isOpen).foldl (fun c n => c.updCtx n (fun x => { x with gen := x.gen + 1 })) c
      let c := c.lossRecord
      let c := lost.foldl (fun c q => c.respond q.1 q.2 stTimeout [] 0xFFFF 0) c
      let c := c.evMod 0x0701 c.keeper.restartCnt c.keeper.expiryCount
      c.keeper.closing.foldl (fun c n => (c.closeReqs n).closeRun n) c) c
/-- KEEPER_RESTART. -/
def execKeeperRestart (s : State) : Host.Outcome State Fault Refusal := onChip keeperRestart s

end Sys2Proof.Machine
end

