-- ==== Sys2Proof/Machine/Boot.lean ====
section
/-! DEFINITION. The serial NOR's boot records and images, the boot, attestation and updates (R520 to R541). -/
namespace Sys2Proof.Machine

/-! ### Boot state records (R522) -/

/-- A boot state record. -/
structure BootRec where
  seq      : Nat
  boot     : Nat
  attempts : Nat
  trialValid : Bool
  trial    : Bool
  fw       : Bool
  set      : Bool
deriving DecidableEq, Repr

/-- The start where no record is valid: FW 0, SET 0, no trial, BOOT 0. -/
def BootRec.fresh : BootRec := ⟨0, 0, 0, false, false, false, false⟩

/-- A record's bytes. -/
def BootRec.bytes (r : BootRec) : List Byte :=
  norRecord [mkWord [(32, 32, r.seq), (0, 32, r.boot)],
    mkWord [(8, 3, r.attempts), (6, 1, b2n r.trialValid), (5, 1, b2n r.trial), (4, 1, b2n r.fw), (0, 1, b2n r.set)], 0, 0, 0, 0, 0]

/-- The record that 64 bytes hold, if their CRC matches. -/
def bootRecOf (bs : List Byte) : Option BootRec :=
  let w0 := wordAt bs 0
  let w1 := wordAt bs 8
  if fld (wordAt bs 0x38) 31 0 = crc32 (bs.take 0x38) then
    some ⟨fld w0 63 32, fld w0 31 0, fld w1 10 8, bit w1 6, bit w1 5, bit w1 4, bit w1 0⟩
  else none

/-- The boot state area: its start, and its records. -/
def bootArea : Nat := 0x0320_0000
def bootPlaces : Nat := 0x4000

/-- The valid record with the highest SEQ. -/
def Chip.bootRec (c : Chip) : Option BootRec :=
  ((List.range bootPlaces).filterMap (fun k => bootRecOf (c.norBytes (bootArea + 64 * k) 64))).foldl
    (fun (b : Option BootRec) r => match b with | some x => if x.seq < r.seq then some r else some x | none => some r) none

/-- Whether a 64 B place of the NOR is erased. -/
def Chip.blank (c : Chip) (a : Nat) : Bool := (c.norBytes a 64).all (fun b => b == 0xFF)

/-- Write a record after the last place that is not erased; a full area is erased first and takes the record in force again. -/
def Chip.putBootRec (c : Chip) (r : BootRec) : Chip :=
  let next := (List.range bootPlaces).foldl (fun m k => if c.blank (bootArea + 64 * k) then m else k + 1) 0
  if next < bootPlaces then c.norProg (bootArea + 64 * next) r.bytes
  else
    let old := match c.bootRec with | some o => o.bytes | none => []
    (c.norErase bootArea 0x10_0000).norProg bootArea (old ++ r.bytes)

/-- Change the record in force by writing its successor. -/
def Chip.nextBootRec (c : Chip) (f : BootRec → BootRec) : Chip :=
  let r := f (c.bootRec.getD BootRec.fresh)
  c.putBootRec { r with seq := r.seq + 1 }

/-! ### Images (R526 to R529) -/

/-- Whether all of n bytes are zero. -/
def allZero (bs : List Byte) : Bool := bs.all (fun b => b == 0)

/-- What an image's checks come to: accepted, or what of them fails. -/
inductive Verdict where
  | ok | malformed | signature | digest | version
deriving DecidableEq, Repr

/-- An entry of the section table: kind, length, offset and digest. -/
structure Section where
  kind : Nat
  len  : Nat
  off  : Nat
  hash : List Byte
deriving DecidableEq, Repr

/-- Section k of a manifest. -/
def sectionOf (m : List Byte) (k : Nat) : Section :=
  { kind := fld (wordAt m (0x20 + 80 * k)) 63 56, len := fld (wordAt m (0x20 + 80 * k)) 31 0, off := fld (wordAt m (0x28 + 80 * k)) 31 0,
    hash := slice m (0x30 + 80 * k) 64 }

/-- Sections in use. -/
def sectionsOf (m : List Byte) : List Section := (List.range (fld (wordAt m 8) 23 16)).map (sectionOf m)

/-- Whether no two of a list of ranges meet. -/
def apart : List (Nat × Nat) → Bool
  | [] => true
  | r :: rs => rs.all (fun s => !overlap r.1 r.2 s.1 s.2) && apart rs

/-- Bytes of the sections of the kinds that pass a test. -/
def kindBytes (ss : List Section) (p : Nat → Bool) : Nat := ((ss.filter (fun s => p s.kind)).map (fun s => s.len)).foldl (· + ·) 0

/-- Whether a firmware manifest is well formed in an image of len bytes: MAGIC, FORMAT, its reserved bytes, and the sections. -/
def fwShape (m : List Byte) (len : Nat) : Bool :=
  let n := fld (wordAt m 8) 23 16
  let size := (wordAt m 0x10).toNat
  let ss := sectionsOf m
  wordAt m 0 == 0x4A425646574D0001 && fld (wordAt m 8) 31 24 == 1 && decide (1 ≤ n) && decide (n ≤ 8) && fld (wordAt m 8) 15 0 == 0 &&
  wordAt m 0x18 == 0 && decide (1536 ≤ size) && decide (size ≤ 0x180_0000) && decide (size ≤ len) &&
  (List.range 8).all (fun k => fld (wordAt m (0x20 + 80 * k)) 55 32 == 0 && fld (wordAt m (0x28 + 80 * k)) 63 32 == 0 &&
    decide ((k < n) ↔ 1 ≤ (sectionOf m k).kind ∧ (sectionOf m k).kind ≤ 3) && (decide (k < n) || decide ((sectionOf m k).kind = 0))) &&
  ss.all (fun s => decide (s.off % 4096 = 0) && decide (1536 ≤ s.off) && decide (s.off + s.len ≤ size)) &&
  apart (ss.map (fun s => (s.off, s.len))) &&
  decide (kindBytes ss (· == 1) ≤ 0x18_0000) && decide (kindBytes ss (fun k => k == 2 || k == 3) ≤ 0x100_0000) &&
  allZero (slice m 0x2A0 0x60) && allZero (slice m 0x385 0x7B) && allZero (slice m 0x484 0x7C) && allZero (slice m 0x584 0x7C)

/-- FW_VERSION of a manifest. -/
def fwVersionOf (m : List Byte) : Nat := fld (wordAt m 8) 63 32

/-- R527: a firmware image, read by address and length, of len bytes, against the settings in force. -/
def fwCheck (rd : Nat → Nat → List Byte) (len : Nat) (set : Settings) : Verdict :=
  let m := rd 0 1536
  let key := slice m 0x300 133
  if !fwShape m len then .malformed
  else if sha512 key ≠ Config.rootKeyHash ∨ !ecdsaOk key (slice m 0x400 132) (sha512 (slice m 0 0x400)) ∨
      !ecdsaOk set.opKey (slice m 0x500 132) (sha512 (slice m 0 0x500)) then .signature
  else if fwVersionOf m < set.minFw.toNat then .version
  else if (sectionsOf m).any (fun s => sha512 (rd s.off s.len) != s.hash) then .digest
  else .ok

/-- The fields of a settings image (R528). -/
def settingsOf (m : List Byte) : Settings :=
  let w := wordAt m 0x18
  { version := BitVec.ofNat 16 (fld (wordAt m 8) 63 48), minFw := BitVec.ofNat 32 (fld (wordAt m 0x10) 63 32),
    operatorId := BitVec.ofNat 32 (fld (wordAt m 0x10) 31 0), stagger := BitVec.ofNat 8 (fld w 63 56),
    compat := BitVec.ofNat 2 (fld w 55 54), refreshAlign := bit w 53, visOpen := bit w 52, lineMode := bit w 51, autoOrient := bit w 50,
    exclude := (List.range (fld w 49 43)).map (fun i => leNat (slice m (0x20 + 2 * i) 2)), opKey := slice m 0x100 133 }

/-- Whether a settings image is well formed: MAGIC, FORMAT, its reserved bytes, COMPAT and TILE_EXCLUDE. -/
def setShape (m : List Byte) : Bool :=
  let w := wordAt m 0x18
  let n := fld w 49 43
  wordAt m 0 == 0x4A42565345540001 && fld (wordAt m 8) 47 40 == 1 && fld (wordAt m 8) 39 0 == 0 && fld (wordAt m 8) 63 48 != 0 &&
  fld w 42 0 == 0 && (fld w 55 54 == 1 || fld w 55 54 == 2) && decide (n ≤ 64) && rising (settingsOf m).exclude &&
  (settingsOf m).exclude.all (fun t => decide (t < 4096)) && allZero (slice m (0x20 + 2 * n) (128 - 2 * n)) &&
  allZero (slice m 0xA0 0x60) && allZero (slice m 0x185 0x7B) && allZero (slice m 0x284 0x7C) && allZero (slice m 0x384 0x7C) &&
  allZero (slice m 0x484 0x7C)

/-- R529: a settings image under the root key. -/
def setCheck (m : List Byte) (root : Option (List Byte)) : Verdict :=
  if !setShape m then .malformed
  else match root with
    | none => .signature
    | some key =>
      let s := settingsOf m
      if ecdsaOk key (slice m 0x200 132) (sha512 (leBytes 8 s.operatorId.toNat ++ s.opKey)) &&
          ecdsaOk s.opKey (slice m 0x400 132) (sha512 (slice m 0 0x400)) then .ok
      else .signature

/-- NOR addresses of the slots: A, then B (R521). -/
def fwSlotAt (b : Bool) : Nat := if b then 0x0180_0000 else 0
def setSlotAt (b : Bool) : Nat := if b then 0x0310_0000 else 0x0300_0000

/-- The root key: the first of the three places whose SHA-512 is the boot ROM's (R529). -/
def Chip.rootKey (c : Chip) : Option (List Byte) :=
  [c.norBytes 0x0350_1000 133, c.norBytes (fwSlotAt false + 0x300) 133, c.norBytes (fwSlotAt true + 0x300) 133].find?
    (fun k => sha512 k == Config.rootKeyHash)

/-- The checks of a slot's image. -/
def Chip.fwSlotCheck (c : Chip) (b : Bool) (set : Settings) : Verdict := fwCheck (fun a n => c.norBytes (fwSlotAt b + a) n) 0x180_0000 set
def Chip.setSlotCheck (c : Chip) (b : Bool) : Verdict := setCheck (c.norBytes (setSlotAt b) 1280) c.rootKey

/-! ### The boot (R531 to R537) -/

/-- A failure's code: KPR_BOOT.LAST_FAIL and a fault-log record (R534). -/
def Chip.bootFail (c : Chip) (code : Nat) : Chip :=
  let c := c.faultLog 1 code
  { c with boot := { c.boot with lastFail := BitVec.ofNat 8 code } }

/-- Step 1: GA, and the front end's cause; where the fault log goes on, after its newest record. -/
def bootStart (ga : BitVec 4) (cause : Byte) (c : Chip) : Chip :=
  let place (k : Nat) : Nat := 0x0360_0000 + 64 * (k % 0x4_0000)
  let pos := ((List.range 0x4_0000).find? (fun k => c.blank (place k) && !c.blank (place (k + 0x3_FFFF)))).getD 0
  { c with pwr := { c.pwr with ga := ga, lastOff := cause }, boot := { c.boot with logPos := pos } }

/-- Step 3: the record in force, with BOOT one higher, and ATTEMPTS too for a pending trial. -/
def bootRecord (c : Chip) : Chip :=
  let old := c.bootRec
  let r := old.getD BootRec.fresh
  let r := { r with seq := r.seq + 1, boot := (r.boot + 1) % 2 ^ 32, attempts := if r.trialValid then min 4 (r.attempts + 1) else r.attempts }
  let c := c.putBootRec r
  let c := { c with boot := { c.boot with bootNum := BitVec.ofNat 32 r.boot } }
  if old.isSome then c else c.bootFail 1

/-- The identity certificate. -/
def Chip.cert (c : Chip) : List Byte := c.norBytes 0x0350_0000 512

/-- Whether the certificate verifies and names the derived identity key (R532). -/
def Chip.certOk (c : Chip) : Bool :=
  let m := c.cert
  (match c.rootKey with | some k => ecdsaOk k (slice m 0x100 132) (sha512 (slice m 0 0x100)) | none => false) &&
    slice m 0x10 133 == publicKey identityKey

/-- Step 4: the seed and the certificate. -/
def bootIdentity (seedOk : Bool) (c : Chip) : Chip :=
  let m := c.cert
  if !seedOk then c.bootFail 7
  else if !c.certOk then ({ c with boot := { c.boot with seedOk := true } }).bootFail 8
  else { c with boot := { c.boot with seedOk := true, identityOk := true, serial := wordAt m 0, rev := BitVec.ofNat 16 (fld (wordAt m 8) 63 48) } }

/-- Put a slot's settings in force (R530). -/
def Chip.useSettings (c : Chip) (b : Bool) : Chip :=
  let m := c.norBytes (setSlotAt b) 1280
  let s := settingsOf m
  { c with boot := { c.boot with set := s, setValid := true, setSlot := b, setMeas := sha512 (slice m 0 0x300) },
           tide := { c.tide with stagger := s.stagger, align := s.refreshAlign } }

/-- Step 5: the settings of slot SET, or else of the other. -/
def bootSettings (c : Chip) : Chip :=
  let b := (c.bootRec.getD BootRec.fresh).set
  if c.setSlotCheck b = .ok then c.useSettings b
  else
    let c := c.bootFail (2 + b2n b)
    if c.setSlotCheck (!b) = .ok then c.useSettings (!b) else c.bootFail (2 + b2n (!b))

/-- Run a slot's firmware: its version and measurement. -/
def Chip.useFirmware (c : Chip) (b trial fallback : Bool) : Chip :=
  let m := c.norBytes (fwSlotAt b) 0x600
  { c with boot := { c.boot with fwSlot := b, fwTrial := trial, fallback := fallback, fwMeas := sha512 (slice m 0 0x400) },
           keeper := { c.keeper with fwVersion := BitVec.ofNat 32 (fwVersionOf m) } }

/-- The code of a slot rejected under R527. -/
def fwFail (b : Bool) (v : Verdict) : Nat := if v = .version then 9 else 4 + b2n b

/-- Step 6: the slot that R535 chooses, or else the other; whether one runs. -/
def bootFirmware (c : Chip) : Chip × Bool :=
  let r := c.bootRec.getD BootRec.fresh
  let spent := r.trialValid && decide (4 ≤ r.attempts)
  let trial := r.trialValid && !spent
  let c := if spent then (c.nextBootRec (fun r => { r with trialValid := false })).bootFail 6 else c
  let b := if trial then r.trial else r.fw
  let v := c.fwSlotCheck b c.boot.set
  if v = .ok then (c.useFirmware b trial false, true)
  else
    let c := c.bootFail (fwFail b v)
    let v := c.fwSlotCheck (!b) c.boot.set
    if v = .ok then (c.useFirmware (!b) false true, true) else (c.bootFail (fwFail (!b) v), false)

/-- The attestation report's fixed part, bytes 0x080 to 0x1FF (R538). -/
def Chip.reportMid (c : Chip) : List Byte :=
  Config.romMeasurement ++ c.boot.fwMeas ++ c.boot.setMeas ++ publicKey c.attestKey ++ zeros 0x3B

/-- Step 7: AK is certified by IK, and IK is locked (R533). Without the seed there are no keys. -/
def bootKeys (c : Chip) : Chip :=
  if c.boot.seedOk then
    { c with boot := { c.boot with akCert := Config.signature identityKey (sha512 c.reportMid) c.fresh.n, ikLocked := true },
             fresh := ⟨c.fresh.n + 1⟩ }
  else { c with boot := { c.boot with ikLocked := true } }

/-- The code of a training (R576). -/
def trainCode : TrainKind → Nat
  | .ca => 0 | .wck2ck => 1 | .readDq => 2 | .writeDq => 3

/-- Repair at boot (R273): every logged uncorrectable address that no repair record names yet, while its package has resources left. -/
def bootRepair (c : Chip) : Chip :=
  let recs := (List.range 0x4_0000).filterMap (fun k =>
    let b := c.norBytes (0x0360_0000 + 64 * k) 64
    if fld (wordAt b 0x38) 31 0 = crc32 (b.take 0x38) then some (fld (wordAt b 0) 63 48, (wordAt b 0x10).toNat) else none)
  let bad := ((recs.filter (fun r => r.1 == 3)).map (fun r => r.2)).eraseDups.filter (fun a => !recs.contains (5, a))
  bad.foldl (fun c a => if Config.repairLeft a then c.faultLog 5 a else c) c

/-- Step 9: training, repair, the excluded tiles and the plan. -/
def bootTrain (fail : Option (ChanId × TrainKind)) (c : Chip) : Chip :=
  let bad (ch : Nat) : Bool := match fail with | some f => f.1.toNat == ch | none => false
  let c := (List.range 64).foldl (fun c ch => c.updChan ch (fun x => { x with st := if bad ch then 3 else 2 })) c
  let c := match fail with
    | some f => c.faultLog 4 f.1.toNat
    | none => bootRepair { c with boot := { c.boot with memOk := true } }
  let c := c.boot.set.exclude.foldl (fun c t => c.updTile t (fun x => { x with st := .excluded })) c
  { c with ring := { c.ring with plan := c.loadPlan } }

/-- Step 10: a trial or a fallback is written down (R536), and the Keeper is up; MEM_TRAIN_FAIL is the first event it writes (R268). -/
def bootReady (fail : Option (ChanId × TrainKind)) (c : Chip) : Chip :=
  let b := c.boot
  let c := if b.fwTrial then c.nextBootRec (fun r => { r with fw := b.fwSlot, trialValid := false, attempts := 0 })
    else if b.fallback then c.nextBootRec (fun r => { r with fw := b.fwSlot }) else c
  let c := { c with boot := { c.boot with stage := 3 }, keeper := { c.keeper with state := .running } }
  match fail with
  | some f => c.evChan f.1.toNat 0x0401 (BitVec.ofNat 64 (trainCode f.2)) 0
  | none => c

/-- Steps 2 to 10 (R534), or the recovery service (R537). -/
def bootSteps (b : BootInputs) (c : Chip) : Chip :=
  let c := bootSettings (bootIdentity b.seedOk (bootRecord (pllLock c)))
  if !c.boot.setValid then { c with boot := { c.boot with stage := 4 } }
  else
    let f := bootFirmware c
    if !f.2 then { f.1 with boot := { f.1.boot with stage := 4 } }
    else bootReady b.trainFail (bootTrain b.trainFail (bootKeys f.1))

/-- POWER_ON_BOOT: time 0 of R534, once after each module reset. A PCIe link whose PERST# is off trains from now (R558). -/
def execPowerOnBoot (b : BootInputs) (s : State) : Host.Outcome State Fault Refusal :=
  .next (if s.live && s.chip.keeper.state == .booting && s.chip.boot.stage == 0 then
    { s with chip := bootSteps b (bootStart b.ga s.front.cause s.chip),
             pcie := if s.pcie.perst then s.pcie else { s.pcie with barsSet := true, vfEnable := true } }
  else s)

/-! ### SEC_ATTEST (R538) -/

/-- The report: 1,536 B. -/
def Chip.report (c : Chip) (nonce : List Byte) (sign : Bool) : List Byte :=
  let head := wordsBytes [mkWord [(56, 8, 1), (32, 16, c.boot.set.version.toNat), (0, 32, c.boot.set.operatorId.toNat)], c.boot.serial,
    mkWord [(32, 32, c.keeper.fwVersion.toNat), (0, 32, c.boot.bootNum.toNat)], (c.kprWord 0x48).getD 0, c.tide.count, c.keeper.restartCnt, 0, 0]
  let body := head ++ slice nonce 0 32 ++ zeros 32 ++ c.reportMid ++ slice c.boot.akCert 0 132 ++ zeros 0x7C
  body ++ (if sign then slice (Config.signature c.attestKey (sha512 body) c.fresh.n) 0 132 else zeros 132) ++ zeros 0x7C ++ c.cert

/-- SEC_ATTEST, answered at once. -/
def secAttest (n : Nat) (busErr : Bool) (q : Req) (c : Chip) : Chip :=
  if !c.boot.identityOk then c.refuse n q stNotPermitted
  else if q.room < 1536 then c.refuse n q stBounds
  else
    let bs := c.report (q.payload.take 32) (bit (q.w 4) 0)
    (({ c with fresh := ⟨c.fresh.n + 1⟩ } : Chip)).toRef n q busErr bs [1536]
/-- SEC_ATTEST. -/
def execSecAttest (who : Issuer) (busErr : Bool) (s : State) : Host.Outcome State Fault Refusal :=
  onChip (Chip.onReq (issuerNum who) 0x0800 (fun _ => true) (secAttest (issuerNum who) busErr)) s

/-! ### SEC_UPDATE (R539, R540) -/

/-- The slot that an update writes: of firmware the one the record in force does not name, of settings the one not in force. -/
def Chip.updateSlot (c : Chip) (target : BitVec 2) : Bool :=
  if target = 0 then !(c.bootRec.getD BootRec.fresh).fw
  else if c.boot.setValid then !c.boot.setSlot else !(c.bootRec.getD BootRec.fresh).set
/-- Its address and size. -/
def Chip.updateAt (c : Chip) (target : BitVec 2) : Nat × Nat :=
  if target = 0 then (fwSlotAt (c.updateSlot target), 0x180_0000) else (setSlotAt (c.updateSlot target), 0x10_0000)

/-- The update under way. -/
def Chip.updateBg (c : Chip) : Option Bg := c.bgOf (fun k => match k with | .update _ _ => true | _ => false)

/-- SEC_UPDATE: the copy begins by erasing the slot (log 36). The recovery service takes firmware only while settings are valid. -/
def secUpdate (n : Nat) (busErr : Bool) (q : Req) (c : Chip) : Chip :=
  let target := BitVec.ofNat 2 (fld (q.w 0) 1 0)
  let len := q.refLen.toNat
  if 2 ≤ target.toNat then c.answer n q stBadArg [] 0
  else if q.ref = 0 ∨ (target = 0 ∧ 0x180_0000 < len) ∨ (target = 1 ∧ len ≠ 1280) then c.refuse n q stBadArg
  else if target = 0 ∧ !c.boot.setValid then c.refuse n q stNotPermitted
  else if c.updateBg.isSome then c.refuse n q stBusy
  else if busErr then c.refuse n q stBounds
  else
    let a := c.updateAt target
    (c.norErase a.1 a.2).goBg n q (.update target (c.hostRead q.ref.toNat len))
/-- SEC_UPDATE. -/
def execSecUpdate (who : Issuer) (busErr : Bool) (s : State) : Host.Outcome State Fault Refusal :=
  onChip (Chip.onReq (issuerNum who) 0x0801 (fun _ => true) (secUpdate (issuerNum who) busErr)) s

/-- What new settings must keep to (R539): a higher version, a MIN_FW_VERSION that the running firmware meets, and the old operator's
signature on a new operator key. With no settings in force, or no firmware running, there is nothing to compare with (log 36). -/
def Chip.setRules (c : Chip) (m : List Byte) : Verdict :=
  let s := settingsOf m
  let old := c.boot.set
  if c.boot.setValid && s.opKey != old.opKey && !ecdsaOk old.opKey (slice m 0x300 132) (sha512 (slice m 0 0x300)) then .signature
  else if (c.boot.setValid && decide (s.version.toNat ≤ old.version.toNat)) || (!c.service && decide (c.keeper.fwVersion.toNat < s.minFw.toNat))
  then .version
  else .ok

/-- The verdict on an image in the slot. -/
def Chip.updateVerdict (c : Chip) (target : BitVec 2) (img : List Byte) : Verdict :=
  if target = 0 then fwCheck (fun a n => slice img a n) img.length c.boot.set
  else match setCheck img c.rootKey with
    | .ok => c.setRules img
    | v => v

/-- The status of a verdict. -/
def Verdict.status : Verdict → W16
  | .ok => stOk | .malformed => stBadArg | .signature => stSignature | .digest => stDigest | .version => stNotPermitted

/-- SEC_UPDATE_DONE: the slot holds the copy; it is compared with the image at REF, checked, and the boot state record written. -/
def secUpdateDone (c : Chip) : Chip :=
  match c.updateBg with
  | none => c
  | some b => match b.kind with
    | .update target img => Chip.when (c.serves b.who) (fun c =>
        let slot := c.updateSlot target
        let c := c.norProg (c.updateAt target).1 img
        if c.hostRead b.req.ref.toNat img.length ≠ img then c.endBg b stDigest [] 0xFFFF 0
        else
          let v := c.updateVerdict target img
          let c := if v = .ok then
              c.nextBootRec (fun r => if target = 0 then { r with trialValid := true, trial := slot, attempts := 0 } else { r with set := slot })
            else c
          c.endBg b v.status [] 0xFFFF 0) c
    | _ => c
/-- SEC_UPDATE_DONE. -/
def execSecUpdateDone (s : State) : Host.Outcome State Fault Refusal := onChip secUpdateDone s

end Sys2Proof.Machine
end

