-- ==== Sys2Proof/Machine/Jtag.lean ====
section
/-! DEFINITION. The test access ports (R564 to R570): instructions, the pins they take, and the hub die's three data registers. -/
namespace Sys2Proof.Machine

/-! ### Instructions (R564 to R566) -/

/-- Load an instruction into a TAP. -/
def Jtag.load (j : Jtag) (tap : Tap) (ir : Byte) : Jtag :=
  match tap with
  | .hub => { j with irHub := ir } | .c0 => { j with irC0 := ir } | .c1 => { j with irC1 := ir }

/-- A TAP's number: 0 hub, 1 and 2 the compute dies. -/
def tapNum : Tap → Nat
  | .hub => 0 | .c0 => 1 | .c1 => 2

/-- An instruction is current in a TAP of a powered module: the test condition of R489 follows it. -/
def State.instr (tap : Tap) (ir : Byte) (s : State) : State :=
  if s.front.powered then
    let j := s.jtag.load tap ir
    { s with jtag := j, chip := { s.chip with pan := { s.chip.pan with test := j.test } } }
  else s

/-- It takes the pins (R566): every die stops, until the next module reset. -/
def State.takePins (s : State) : State := if s.front.powered then { s with jtag := { s.jtag with pinsTaken := true } } else s

/-- Shift bits out of a TAP of a powered module. -/
def State.tdo (tap : Tap) (bits : List Bool) (s : State) : State := if s.front.powered then { s with chip := s.chip.send (.tdo tap bits) } else s

/-- TAP_RESET: IDCODE in every TAP; the pins stay taken. -/
def execTapReset (s : State) : Host.Outcome State Fault Refusal := .next (((s.instr .hub 0x01).instr .c0 0x01).instr .c1 0x01)
/-- BYPASS: the bypass register captures 0 (R564: as IEEE 1149.1 has it). -/
def execBypass (tap : Tap) (s : State) : Host.Outcome State Fault Refusal := .next ((s.instr tap 0xFF).tdo tap [false])
/-- IDCODE: 32 bits, the least significant first. -/
def execIdcode (tap : Tap) (s : State) : Host.Outcome State Fault Refusal :=
  let w := idcodeOf s.chip.boot.rev tap
  .next ((s.instr tap 0x01).tdo tap ((List.range 32).map (fun i => w.getLsbD i)))

/-- Capture the boundary register, whose levels come from outside (log 10). -/
def State.capture (tap : Tap) (s : State) : State :=
  if s.front.powered then { (s.tdo tap (Config.pinSample s.chip.fresh.n)) with
    chip := { (s.tdo tap (Config.pinSample s.chip.fresh.n)).chip with fresh := ⟨s.chip.fresh.n + 1⟩ } } else s

/-- SAMPLE_PRELOAD: the pins are captured, and what is shifted in is held for a later EXTEST or CLAMP. -/
def execSamplePreload (tap : Tap) (bits : List Bool) (s : State) : Host.Outcome State Fault Refusal :=
  let t := (s.instr tap 0x02).capture tap
  .next (if s.front.powered then { t with jtag := { t.jtag with preload := tblPut [] t.jtag.preload (tapNum tap) bits } } else t)

/-- EXTEST. -/
def execExtest (tap : Tap) (s : State) : Host.Outcome State Fault Refusal := .next (((s.instr tap 0x06).takePins).capture tap)
/-- EXTEST_PULSE. -/
def execExtestPulse (tap : Tap) (s : State) : Host.Outcome State Fault Refusal := .next (((s.instr tap 0x07).takePins).capture tap)
/-- EXTEST_TRAIN. -/
def execExtestTrain (tap : Tap) (s : State) : Host.Outcome State Fault Refusal := .next (((s.instr tap 0x08).takePins).capture tap)
/-- CLAMP: the pins hold the preloaded values; the bypass register is selected. -/
def execClamp (tap : Tap) (s : State) : Host.Outcome State Fault Refusal := .next (((s.instr tap 0x09).takePins).tdo tap [false])
/-- HIGHZ: the outputs are in high impedance; the bypass register is selected. -/
def execHighz (tap : Tap) (s : State) : Host.Outcome State Fault Refusal := .next (((s.instr tap 0x0A).takePins).tdo tap [false])

/-- What a TAP's pins do once they are taken. -/
inductive PinDrive where
  | mission | values (bits : List Bool) | highz
deriving DecidableEq, Repr

/-- The pins of a TAP's die (R565, R566): its own until an instruction takes them. -/
def Jtag.pins (j : Jtag) (tap : Tap) : PinDrive :=
  let ir := j.ir tap
  if !j.pinsTaken then .mission
  else if ir = 0x0A then .highz
  else if ir = 0x06 ∨ ir = 0x07 ∨ ir = 0x08 ∨ ir = 0x09 then .values (tblGet [] j.preload (tapNum tap))
  else .mission

/-! ### MEMTEST (R570) -/

/-- Start a test of a channel. -/
def State.memtest (op : BitVec 2) (ch : ChanId) (s : State) : State :=
  let t := (s.instr .hub 0x20).takePins
  if s.front.powered then { t with jtag := { t.jtag with mtChan := ch, mtOp := op, mtDone := false, mtFail := 0 } } else t
/-- MEMTEST_DQ. -/
def execMemtestDq (ch : ChanId) (s : State) : Host.Outcome State Fault Refusal := .next (s.memtest 1 ch)
/-- MEMTEST_CA. -/
def execMemtestCa (ch : ChanId) (s : State) : Host.Outcome State Fault Refusal := .next (s.memtest 2 ch)
/-- MEMTEST_DONE: the test that runs ends, with a bit for each net that failed. -/
def execMemtestDone (fail : BitVec 31) (s : State) : Host.Outcome State Fault Refusal :=
  .next (if s.front.powered && s.jtag.mtOp != 0 && !s.jtag.mtDone then { s with jtag := { s.jtag with mtDone := true, mtFail := fail } } else s)

/-! ### CTRL_ACCESS (R568) -/

/-- The local address of the harvest slots: the reserve's parts in the order of R430's table (DEDUCED, log 39). -/
def Chip.harvestBase (c : Chip) : Nat := lpBase + c.reserveOff + 0x280_0000

/-- The 8 bytes of the control space at an address, none where R429 maps nothing. -/
def Chip.ctrlWord (c : Chip) (j : Jtag) (a : Nat) : Option W64 :=
  if 0x10_0000 ≤ a ∧ a < 0x11_0000 then some (wordAt ((List.range 8).map (fun i => c.pageByte 16 (a - 0x10_0000 + i))) 0)
  else if 0x100_0000 ≤ a ∧ a < 0x120_0000 then some (wordAt (memRead 0 c.attWin (a - 0x100_0000) 8) 0)
  else c.ctlWord j a

/-- The slot an address lies in. -/
def Chip.slotAt (c : Chip) (a : Nat) : Option Nat :=
  if c.harvestBase ≤ a ∧ a < c.harvestBase + 0x100_0000 then some ((a - c.harvestBase) / 0x10_0000) else none

/-- What the port reads at an address: control space, a stored harvest while the channels are trained and the pins not taken, or nothing. -/
def State.portRead (s : State) (a : Nat) : Option W64 :=
  if a % 8 ≠ 0 then none
  else match s.chip.slotAt a with
    | some n =>
      if s.chip.boot.memOk && !s.jtag.pinsTaken then
        some (match s.chip.harvests.find? (fun e => e.1 == n) with
          | some e => wordAt e.2.bytes ((a - s.chip.harvestBase) % 0x10_0000)
          | none => 0)
      else none
    | none => s.chip.ctrlWord s.jtag a

/-- CTRL_ACCESS: Update-DR starts a read. -/
def execCtrlAccess (a : Addr) (s : State) : Host.Outcome State Fault Refusal :=
  let t := s.instr .hub 0x21
  .next (if s.front.powered then { t with jtag := { t.jtag with ctrlAddr := a.toNat, ctrlBusy := true } } else t)

/-- CTRL_ACCESS_DONE: DATA and VALID for the next Capture-DR. A slot read this way counts as read (R516; DESIGN CHOICE, log 123). -/
def execCtrlAccessDone (s : State) : Host.Outcome State Fault Refusal :=
  .next (if s.front.powered && s.jtag.ctrlBusy then
    let r := s.portRead s.jtag.ctrlAddr
    let hs := match r, s.chip.slotAt s.jtag.ctrlAddr with
      | some _, some n => s.chip.harvests.map (fun (e : Nat × Harvest) => (e.1, if e.1 = n then { e.2 with readB := true } else e.2))
      | _, _ => s.chip.harvests
    { s with jtag := { s.jtag with ctrlBusy := false, ctrlValid := r.isSome, ctrlData := r.getD 0 }, chip := { s.chip with harvests := hs } }
  else s)

/-! ### NOR_ACCESS (R569) -/

/-- Start an access of the serial NOR, serialised with the one in progress (R525; a further one, or an address that is no multiple of
8 below 128 MiB, is ignored: DESIGN CHOICE, log 123): operation 0 reads, 1 programs, 2 erases. -/
def State.norAccess (op : BitVec 2) (a : W32) (data : W64) (s : State) : State :=
  let t := s.instr .hub 0x22
  if s.front.powered && !s.jtag.norBusy && decide (a.toNat % 8 = 0) && decide (a.toNat < 0x800_0000) && (op == 0 || s.jtag.pinsTaken) then
    { t with jtag := { t.jtag with norAddr := a.toNat, norData := if op = 1 then data else t.jtag.norData, norBusy := true, norOp := op } }
  else t
/-- NOR_ACCESS_READ. -/
def execNorAccessRead (a : W32) (s : State) : Host.Outcome State Fault Refusal := .next (s.norAccess 0 a 0)
/-- NOR_ACCESS_WRITE: only while the pins are taken. -/
def execNorAccessWrite (a : W32) (data : W64) (s : State) : Host.Outcome State Fault Refusal := .next (s.norAccess 1 a data)
/-- NOR_ACCESS_ERASE: only while the pins are taken. -/
def execNorAccessErase (a : W32) (s : State) : Host.Outcome State Fault Refusal := .next (s.norAccess 2 a 0)

/-- NOR_ACCESS_DONE. -/
def execNorAccessDone (s : State) : Host.Outcome State Fault Refusal :=
  .next (if s.front.powered && s.jtag.norBusy then
    let j := { s.jtag with norBusy := false }
    let a := s.jtag.norAddr
    if s.jtag.norOp = 1 then { s with jtag := j, chip := s.chip.norProg a (leBytes 8 s.jtag.norData.toNat) }
    else if s.jtag.norOp = 2 then { s with jtag := j, chip := s.chip.norErase (a / 0x1_0000 * 0x1_0000) 0x1_0000 }
    else { s with jtag := { j with norData := wordAt (s.chip.norBytes a 8) 0 } }
  else s)

end Sys2Proof.Machine
end

