-- ==== Sys2Proof/Machine/Pcie.lean ====
section
/-! DEFINITION. PCIe resets and power states (R558, R561), and the management mailbox over SMBus (R434, R563). -/
namespace Sys2Proof.Machine

/-! ### PCIe -/

/-- A request in the background that reads its buffer at REF meets a PCIe error (R435): no set, no new image. -/
def Chip.refErrors (c : Chip) : Chip :=
  c.keeper.bgs.foldl (fun c b => match b.kind with
    | .stage _ _ => (c.undo b.kind).endBg b stBounds [] 0xFFFF 0
    | .update _ _ => (c.undo b.kind).endBg b stBounds [] 0xFFFF 0
    | _ => c) c

/-- PERST: the controller and the configuration space of every function are reset; contexts, runs and rings stay. -/
def execPerst (s : State) : Host.Outcome State Fault Refusal :=
  let s := if s.live && !s.pcie.perst then { s with chip := s.chip.refErrors } else s
  .next { s with pcie := { perst := true, barsSet := false, vfEnable := false, d3 := 0 } }

/-- PERST_RELEASE: the link trains, and the host assigns the BARs and sets VF Enable (DESIGN CHOICE, log 38); before time 0 that
waits for POWER_ON_BOOT (R558). -/
def execPerstRelease (s : State) : Host.Outcome State Fault Refusal :=
  .next { s with pcie := if s.pcie.perst && s.live then { perst := false, barsSet := true, vfEnable := true, d3 := 0 }
                         else { s.pcie with perst := false } }

/-- Close a context for a reset of its function: as ctx.close, with the mailbox reset (R442, R561). A Keeper that does not run does it
when it runs again. -/
def Chip.closeFor (c : Chip) (n : Nat) : Chip :=
  let c := { c with keeper := { c.keeper with closing := setAdd c.keeper.closing n } }
  if c.keeper.state == .running then (c.closeReqs n).closeRun n else c

/-- Contexts closed one after another. -/
def Chip.closeAll (ns : List Nat) (c : Chip) : Chip := Chip.when c.booted (fun c => ns.foldl Chip.closeFor c) c

/-- VF_FLR: of an enabled virtual function. -/
def execVfFlr (n : CtxId) (s : State) : Host.Outcome State Fault Refusal :=
  onChip (Chip.when (n != 0 && s.pcie.carries n) (Chip.closeAll [n.toNat])) s
/-- PF_FLR: ctx 0 only. -/
def execPfFlr (s : State) : Host.Outcome State Fault Refusal := onChip (Chip.when (s.pcie.carries 0) (Chip.closeAll [0])) s

/-- VF_ENABLE_CLEAR: ctx 1 to 15. -/
def execVfEnableClear (s : State) : Host.Outcome State Fault Refusal :=
  if s.live && s.pcie.carries 0 && s.pcie.vfEnable then
    .next { s with chip := Chip.closeAll ((List.range 15).map (· + 1)) s.chip, pcie := { s.pcie with vfEnable := false } }
  else .next s

/-- D3HOT. -/
def execD3hot (fn : CtxId) (s : State) : Host.Outcome State Fault Refusal :=
  .next (if s.live && s.pcie.carries fn then { s with pcie := { s.pcie with d3 := s.pcie.d3 ||| (1#16 <<< fn.toNat) } } else s)
/-- D3HOT_EXIT. -/
def execD3hotExit (fn : CtxId) (s : State) : Host.Outcome State Fault Refusal :=
  .next (if s.live && s.pcie.carries fn then { s with pcie := { s.pcie with d3 := s.pcie.d3 &&& ~~~(1#16 <<< fn.toNat) } } else s)

/-! ### SMBus -/

/-- A response, or an event, of the management mailbox unread. -/
def Chip.rspUnread (c : Chip) : Bool := (c.ctx 16).rspTail != (c.ctx 16).rspHead
def Chip.evtUnread (c : Chip) : Bool := (c.ctx 16).evtTail != (c.ctx 16).evtHead
/-- Whether ALERT# is asserted (R434). -/
def Chip.alert (c : Chip) : Bool := c.rspUnread || c.evtUnread

/-- Send over SMBus. -/
def State.smbSend (o : Out) (s : State) : State := { s with chip := s.chip.send o }

/-- A write with a bad PEC is discarded and noted. -/
def State.badPec (s : State) : State := { s with smb := { s.smb with pecErr := true } }

/-- SMBUS_SET_WINDOW: a multiple of 8 inside the page, or a NACK. -/
def execSmbusSetWindow (off : W32) (pecOk : Bool) (s : State) : Host.Outcome State Fault Refusal :=
  .next (if !s.live then s
    else if !pecOk then s.badPec
    else if off.toNat % 8 = 0 ∧ off.toNat < 0x8000 then { s with smb := { s.smb with window := off.toNat } }
    else s.smbSend .smbNack)

/-- Whether a DATA transfer of n bytes stays within the page. -/
def Smb.fits (m : Smb) (n : Nat) : Bool := decide (1 ≤ n) && decide (n ≤ 32) && decide (m.window + n ≤ 0x8000)

/-- SMBUS_DATA_WRITE. -/
def execSmbusDataWrite (data : List Byte) (pecOk : Bool) (s : State) : Host.Outcome State Fault Refusal :=
  .next (if !s.live then s
    else if !pecOk then s.badPec
    else if s.smb.fits data.length then
      { s with chip := pageWrite 16 s.smb.window data s.chip, smb := { s.smb with window := s.smb.window + data.length } }
    else s.smbSend .smbNack)

/-- SMBUS_DATA_READ. -/
def execSmbusDataRead (len : Nat) (s : State) : Host.Outcome State Fault Refusal :=
  .next (if !s.live then s
    else if s.smb.fits len then
      { s.smbSend (.smbData (s.chip.pageRead 16 s.smb.window len)) with smb := { s.smb with window := s.smb.window + len } }
    else s.smbSend .smbNack)

/-- The status byte of command 0x12. -/
def State.smbStatus (s : State) : Byte :=
  BitVec.ofNat 8 (b2n (s.chip.keeper.state == .running) + 2 * b2n s.chip.rspUnread + 4 * b2n s.chip.evtUnread + 8 * b2n s.smb.pecErr)

/-- SMBUS_STATUS_READ. -/
def execSmbusStatusRead (s : State) : Host.Outcome State Fault Refusal :=
  .next (if s.live then { s.smbSend (.smbData [s.smbStatus]) with smb := { s.smb with pecErr := false } } else s)

/-- ALERT_RESPONSE: the target answers with its address 0x60 + GA while it asserts ALERT#. -/
def execAlertResponse (s : State) : Host.Outcome State Fault Refusal :=
  .next (if s.live && s.chip.alert then s.smbSend (.smbAddr (BitVec.ofNat 8 (0x60 + s.chip.pwr.ga.toNat))) else s)

end Sys2Proof.Machine
end

