-- ==== Sys2Proof/Machine/Power.lean ====
section
/-! DEFINITION. The hot-swap front end, module reset, and the power and temperature sensors (R550 to R559). -/
namespace Sys2Proof.Machine

/-! ### The front end -/

/-- The module without power: everything behind the front end is lost but the serial NOR (R520, R553); PERST# and what the tray
holds stay. -/
def State.dark (s : State) : State :=
  { s with chip := Chip.init s.chip.nor s.chip.ext s.chip.fresh.n, pcie := { s.pcie with barsSet := false, vfEnable := false, d3 := 0 },
           smb := { window := 0, pecErr := false }, jtag := Jtag.init }

/-- The front end closes: a module reset follows (R557). -/
def State.powerUp (s : State) : State := { s.dark with front := { s.front with powered := true } }

/-- The front end opens and keeps the cause (R553, R559). An open one stays as it is. -/
def State.powerDown (cause : Byte) (s : State) : State :=
  if s.front.powered then { s.dark with front := { s.front with powered := false, cause := cause } } else s

/-- A latched protective shutdown of a closed front end (R553). -/
def State.latchOff (cause : Byte) (s : State) : State :=
  if s.front.powered then { (s.powerDown cause) with front := { s.front with powered := false, cause := cause, latched := true } } else s

/-- PWR_EN_RISE: the front end closes, unless the input is out of range (R550, R558). -/
def execPwrEnRise (s : State) : Host.Outcome State Fault Refusal :=
  let t := { s with front := { s.front with pwrEn := true } }
  .next (if s.front.powered || s.front.latched || s.front.waiting then t else t.powerUp)

/-- PWR_EN_FALL: the front end opens, cause 0x00; a latched one is released, PWR_EN then staying low for 10 ms (log 37). -/
def execPwrEnFall (s : State) : Host.Outcome State Fault Refusal :=
  let t := s.powerDown 0x00
  .next { t with front := { t.front with pwrEn := false, latched := false } }

/-- The input leaves its range for 100 µs: a shutdown that waits for its return. -/
def State.inputOut (cause : Byte) (s : State) : State :=
  let t := s.powerDown cause
  { t with front := { t.front with waiting := true } }
/-- INPUT_UNDERVOLTAGE. -/
def execInputUndervoltage (s : State) : Host.Outcome State Fault Refusal := .next (s.inputOut 0x01)
/-- INPUT_OVERVOLTAGE. -/
def execInputOvervoltage (s : State) : Host.Outcome State Fault Refusal := .next (s.inputOut 0x02)

/-- INPUT_RESTORED: the input has been back for 100 ms; with PWR_EN high and nothing latched the front end closes again. -/
def execInputRestored (s : State) : Host.Outcome State Fault Refusal :=
  let t := { s with front := { s.front with waiting := false } }
  .next (if s.front.waiting && s.front.pwrEn && !s.front.latched && !s.front.powered then t.powerUp else t)

/-- INPUT_OVERCURRENT. -/
def execInputOvercurrent (s : State) : Host.Outcome State Fault Refusal := .next (s.latchOff 0x03)
/-- CORE_OVERCURRENT (R552). -/
def execCoreOvercurrent (s : State) : Host.Outcome State Fault Refusal := .next (s.latchOff 0x04)

/-! ### Sensors -/

/-- Whether a cause of POWER_ALERT may be raised: at most once in 100 ms (R551). -/
def Chip.alertDue (c : Chip) (last : Option Nat) : Bool := match last with | some t => decide (t + msTk 100 ≤ c.up) | none => true

/-- POWER_ALERT with its cause and PWR_INPUT (R573). -/
def Chip.powerAlert (c : Chip) (cause : Nat) : Chip := c.evMod 0x0A01 (mkWord [(56, 8, cause)]) ((c.pwrWord 0x10).getD 0)

/-- POWER_SAMPLE: the 1 ms averages, in mV, mA and 0.1 W; OVER above 750 W, MARGIN outside 41 V to 59 V. PWR_CORE follows its
own monitors. -/
def powerSample (mv ma dw : W16) (c : Chip) : Chip :=
  let n := c.fresh.n
  let c := { c with pwr := { c.pwr with volt := mv, curr := ma, power := dw, coreVolt := Config.coreMillivolts n, coreCurr := Config.coreCurrent n },
                    fresh := ⟨n + 1⟩ }
  let c := Chip.when (decide (7500 < dw.toNat)) (fun c =>
    let due := c.alertDue c.pwr.overAt
    let c := { c with pwr := { c.pwr with overIn := true, overAt := if due then some c.up else c.pwr.overAt } }
    if due then c.powerAlert 1 else c) c
  Chip.when (decide (mv.toNat < 41000) || decide (59000 < mv.toNat)) (fun c =>
    let due := c.alertDue c.pwr.marginAt
    let c := { c with pwr := { c.pwr with margin := true, marginAt := if due then some c.up else c.pwr.marginAt } }
    if due then c.powerAlert 2 else c) c
/-- POWER_SAMPLE. -/
def execPowerSample (mv ma dw : W16) (s : State) : Host.Outcome State Fault Refusal := onChip (powerSample mv ma dw) s

/-- A temperature in degrees, signed (R571). -/
def degrees (t : Byte) : Int := signed 8 t.toNat

/-- THERMAL_WARNING: a sensor at or above its warning threshold (R555; DESIGN CHOICE that the threshold itself warns, log 37). -/
def thermalWarning (x : Sensor) (temp : Byte) (c : Chip) : Chip :=
  match x with
  | .die => Chip.when (decide (95 ≤ degrees temp)) (fun c =>
      (({ c with pwr := { c.pwr with hot := true, tDie := temp } } : Chip)).thermal 0 0 temp) c
  | .regulator => Chip.when (decide (105 ≤ degrees temp)) (fun c =>
      (({ c with pwr := { c.pwr with hot := true, tReg := temp } } : Chip)).thermal 1 0 temp) c
  | .package p =>
      let hottest := if degrees c.pwr.tMem < degrees temp then temp else c.pwr.tMem
      (({ c with pwr := { c.pwr with memHot := true, tMem := hottest } } : Chip)).thermal 2 p.toNat temp
  | .inlet => Chip.when (decide (40 ≤ degrees temp)) (fun c =>
      (({ c with pwr := { c.pwr with inletHot := true, tInlet := temp } } : Chip)).thermal 3 0 temp) c
/-- THERMAL_WARNING. -/
def execThermalWarning (x : Sensor) (temp : Byte) (s : State) : Host.Outcome State Fault Refusal := onChip (thermalWarning x temp) s

/-- Whether a package has reported MEM_HOT at each poll for 100 ms (R278, R555). -/
def Chip.memHotHeld (c : Chip) (p : Nat) : Bool :=
  (List.range 4).any (fun k => match (c.chan (4 * p + k)).hotAt with | some t => decide (t + msTk 100 ≤ c.up) | none => false)

/-- THERMAL_SHUTDOWN: a die or the regulator over its limit for 1 ms, or MEM_HOT held 100 ms; the inlet shuts nothing down. -/
def execThermalShutdown (x : Sensor) (s : State) : Host.Outcome State Fault Refusal :=
  .next (match x with
    | .die => s.latchOff 0x05
    | .regulator => s.latchOff 0x06
    | .package p => if s.chip.memHotHeld p.toNat then s.latchOff 0x07 else s
    | .inlet => s)

end Sys2Proof.Machine
end

