-- ==== Sys2Proof/Machine/Weights.lean ====
section
/-! DEFINITION. Weight sets (R113 to R116, R451 to R453): staging, verifying, switching and dropping them. -/
namespace Sys2Proof.Machine

/-- Chunks of a shard (R281). -/
def chunksOf (len : Nat) : Nat := cdiv len 0x40_0000

/-- The scatter list at REF, as (host address, length) pairs. -/
def scatter (bs : List Byte) : List (Nat × Nat) :=
  (List.range (bs.length / 16)).map (fun i => ((wordAt bs (16 * i)).toNat, (wordAt bs (16 * i + 8)).toNat))

/-- Whether a shard's place overlaps another set's, or a berth, an export or the image of the active run. -/
def Chip.placeBusy (c : Chip) (a n : Nat) : Bool := c.wsets.any (fun w => overlap a n w.base w.len) || c.runUses a n

/-- WGT_STAGE: the malformed arguments (R12), then the rows of R452 in order; the copy then runs in the background. -/
def wgtStage (n : Nat) (busErr : Bool) (q : Req) (c : Chip) : Chip :=
  let num := BitVec.ofNat 16 (fld (q.w 0) 15 0)
  let off := (q.w 1).toNat
  let len := (q.w 2).toNat
  if off % 0x40_0000 ≠ 0 then c.answer n q stBadArg [] 8
  else if len = 0 ∨ len % 64 ≠ 0 then c.answer n q stBadArg [] 16
  else match c.region (fld (q.w 0) 25 16) with
    | none => c.answer n q stNotPermitted [] 0
    | some r =>
      if r.ctx ≠ n || ((c.wset num).map (fun w => w.ctx != n)).getD false then c.answer n q stNotPermitted [] 0
      else if r.size < off + len || decide (64 ≤ c.wsets.length) || decide (524288 < c.wsets.foldl (fun k w => k + chunksOf w.len) 0 + chunksOf len) then
        c.refuse n q stNoSpace
      else if c.regionBusy r || (c.wset num).isSome || c.placeBusy (r.base + off) len then c.refuse n q stBusy
      else if busErr then c.refuse n q stBounds
      else
        let list := scatter (c.hostRead q.ref.toNat q.refLen.toNat)
        if q.ref = 0 || q.refLen.toNat % 16 != 0 || list.any (fun e => e.1 % 64 != 0 || e.2 % 64 != 0) || decide (list.foldl (fun k e => k + e.2) 0 ≠ len) then
          c.refuse n q stBadArg
        else
          let w : WSet := { num := num, ctx := n, region := r.num, base := r.base + off, len := len, resident := false, verified := false, damaged := false,
                            chunks := [], digest := [], weights := [], clean := [] }
          ({ c with wsets := c.wsets ++ [w] }).goBg n q (.stage num list)
/-- WGT_STAGE. -/
def execWgtStage (who : Issuer) (busErr : Bool) (s : State) : Host.Outcome State Fault Refusal :=
  onChip (Chip.onReq (issuerNum who) 0x0500 (fun _ => true) (wgtStage (issuerNum who) busErr)) s

/-- The digests of a shard's chunks as they stand in memory. -/
def Chip.chunkDigests (c : Chip) (w : WSet) : List (List Byte) :=
  (List.range (chunksOf w.len)).map (fun k => sha512 (c.bytes (w.base + k * 0x40_0000) (w.chunkLen k)))

/-- The request that stages a set. -/
def Chip.stageBg (c : Chip) (set : W16) : Option Bg := c.bgOf (fun k => match k with | .stage s _ => s == set | _ => false)

/-- WGT_STAGE_DONE: every byte has landed, or a host read failed. After a failed read none of the bytes counts as written, which the manual
leaves open (DESIGN CHOICE, log 121). -/
def wgtStageDone (set : W16) (busErr ep : Bool) (c : Chip) : Chip :=
  match c.stageBg set, c.wset set with
  | some b, some w => match b.kind with
    | .stage _ list =>
      Chip.when (c.keeper.state == .running) (fun c =>
        let gone (c : Chip) : Chip := { c with wsets := c.wsets.filter (fun v => v.num != set) }
        if busErr || ep then (gone c).endBg b stPoisoned [] 0xFFFF 0
        else
          let c := c.writePieces [(w.base, list.flatMap (fun e => c.hostRead e.1 e.2), false)]
          let ds := c.chunkDigests w
          let dig := sha512 ds.flatten
          let rsp := wordsBytes [mkWord [(0, 32, ds.length)]] ++ dig
          if dig = slice b.req.payload 0x18 64 then (c.setWset { w with resident := true, chunks := ds, digest := dig }).endBg b stOk rsp 0xFFFF 0
          else (gone c).endBg b stDigest rsp 0xFFFF 0) c
    | _ => c
  | _, _ => c
/-- WGT_STAGE_DONE. -/
def execWgtStageDone (set : W16) (busErr ep : Bool) (s : State) : Host.Outcome State Fault Refusal := onChip (wgtStageDone set busErr ep) s

/-- WGT_VERIFY: the shard digests of the ring are read from REF, and the read-back starts. -/
def wgtVerify (n : Nat) (busErr : Bool) (q : Req) (c : Chip) : Chip :=
  let num := BitVec.ofNat 16 (fld (q.w 0) 15 0)
  let k := fld (q.w 0) 28 22
  let p := fld (q.w 0) 21 16
  match c.wset num with
  | none => c.answer n q stBadArg [] 0
  | some w =>
    if c.setBusy num then c.refuse n q stBusy
    else if k = 0 ∨ 64 < k ∨ k ≤ p ∨ w.resident = false then c.answer n q stBadArg [] 0
    else if q.ref = 0 ∨ q.refLen.toNat < 64 * k then c.refuse n q stBadArg
    else if busErr then c.refuse n q stBounds
    else c.goBg n q (.verify num k p (c.hostRead q.ref.toNat (64 * k)))
/-- WGT_VERIFY. -/
def execWgtVerify (who : Issuer) (busErr : Bool) (s : State) : Host.Outcome State Fault Refusal :=
  onChip (Chip.onReq (issuerNum who) 0x0501 (fun _ => true) (wgtVerify (issuerNum who) busErr)) s

/-- The request that verifies a set. -/
def Chip.verifyBg (c : Chip) (set : W16) : Option Bg := c.bgOf (fun k => match k with | .verify s _ _ _ => s == set | _ => false)

/-- WGT_VERIFY_DONE: a damaged set always fails, then poison, then a digest that differs. -/
def wgtVerifyDone (set : W16) (c : Chip) : Chip :=
  match c.verifyBg set, c.wset set with
  | some b, some w => match b.kind with
    | .verify _ n p digs =>
      Chip.when (c.keeper.state == .running) (fun c =>
        let c := c.scanLp w.base w.len
        if w.damaged then c.endBg b stDigest [] 0xFFFF 0
        else if c.poisonLp w.base w.len then c.endBg b stPoisoned [] 0xFFFF 0
        else if c.chunkDigests w ≠ w.chunks ∨ w.digest ≠ slice digs (64 * p) 64 then c.endBg b stDigest [] 0xFFFF 0
        else
          let wd := sha512 (leBytes 8 n ++ digs)
          let c := if w.verified then c else c.recheckAnew w.num
          (c.setWset { w with verified := true, weights := wd, clean := w.chunks.map (fun _ => c.now) }).endBg b stOk wd 0xFFFF 0) c
    | _ => c
  | _, _ => c
/-- WGT_VERIFY_DONE. -/
def execWgtVerifyDone (set : W16) (s : State) : Host.Outcome State Fault Refusal := onChip (wgtVerifyDone set) s

/-- WGT_SWITCH: R45, then the refusals of R114 in the order of its table. -/
def wgtSwitch (n : Nat) (q : Req) (c : Chip) : Chip :=
  let num := BitVec.ofNat 16 (fld (q.w 0) 15 0)
  let e := q.w 1
  if c.tide.st ≠ .aligned ∧ c.tide.st ≠ .holdover then c.refuse n q stNotPermitted
  else if c.setBusy num then c.refuse n q stBusy
  else if !((c.wset num).map (fun w => w.resident && w.verified)).getD false then c.answer n q stNotPermitted [] 0
  else if e.toNat < c.now + 1175 then c.answer n q stBadArg [] 8
  else if (c.ctx n).pendSet.isSome then c.refuse n q stBusy
  else (c.updCtx n (fun x => { x with pendSet := some (num, e), wmark := e })).refuse n q stOk
/-- WGT_SWITCH. -/
def execWgtSwitch (who : Issuer) (s : State) : Host.Outcome State Fault Refusal :=
  onChip (Chip.onReq (issuerNum who) 0x0502 (fun _ => true) (wgtSwitch (issuerNum who))) s

/-- WGT_DROP: never of the current or the pending set, nor of a set that an uncommitted run is bound to (R116). -/
def wgtDrop (n : Nat) (q : Req) (c : Chip) : Chip :=
  let num := BitVec.ofNat 16 (fld (q.w 0) 15 0)
  let x := c.ctx n
  match c.wset num with
  | none => c.answer n q stBadArg [] 0
  | some _ =>
    if c.setBusy num || c.setBound num || x.curSet == some num || (x.pendSet.map (fun p => p.1 == num)).getD false then c.refuse n q stBusy
    else ({ c with wsets := c.wsets.filter (fun w => w.num != num) }).refuse n q stOk
/-- WGT_DROP. -/
def execWgtDrop (who : Issuer) (s : State) : Host.Outcome State Fault Refusal :=
  onChip (Chip.onReq (issuerNum who) 0x0503 (fun _ => true) (wgtDrop (issuerNum who))) s

/-- WSET_EFFECT: at its mark the pending set becomes current, and the one before it is freed once no run is bound to it. -/
def wsetEffect (n : Nat) (c : Chip) : Chip :=
  match (c.ctx n).pendSet with
  | none => c
  | some p =>
    Chip.when (decide (p.2.toNat ≤ c.now)) (fun c =>
      let old := (c.ctx n).curSet
      (c.updCtx n (fun x => { x with curSet := some p.1, pendSet := none })).freeSet n old) c
/-- WSET_EFFECT. -/
def execWsetEffect (who : Issuer) (s : State) : Host.Outcome State Fault Refusal := onChip (wsetEffect (issuerNum who)) s

end Sys2Proof.Machine
end

