-- ==== Sys2Proof/Machine/Dispatch.lean ====
section
/-! DEFINITION. Each command's meaning, one arm per constructor. -/
namespace Sys2Proof.Machine

/-- The effect of a command on everything but the queue. -/
def exec (i : Instr) (s : State) : Host.Outcome State Fault Refusal :=
  match i with
  | .pllLock => Sys2Proof.Machine.execPllLock s
  | .refSourceInvalid src => Sys2Proof.Machine.execRefSourceInvalid src s
  | .refSourceValid src => Sys2Proof.Machine.execRefSourceValid src s
  | .holdoverTimeout => Sys2Proof.Machine.execHoldoverTimeout s
  | .timeExchangeTimer st => Sys2Proof.Machine.execTimeExchangeTimer st s
  | .timeRequest st frac => Sys2Proof.Machine.execTimeRequest st frac s
  | .timeReply st frac => Sys2Proof.Machine.execTimeReply st frac s
  | .queueFetch t => Sys2Proof.Machine.execQueueFetch t s
  | .wait t => Sys2Proof.Machine.execWait t s
  | .signal t => Sys2Proof.Machine.execSignal t s
  | .fence t => Sys2Proof.Machine.execFence t s
  | .matmul t => Sys2Proof.Machine.execMatmul t s
  | .loadw t => Sys2Proof.Machine.execLoadw t s
  | .swapw t => Sys2Proof.Machine.execSwapw t s
  | .gang t => Sys2Proof.Machine.execGang t s
  | .arrayQueueHead t a => Sys2Proof.Machine.execArrayQueueHead t a s
  | .swapwEffect t a => Sys2Proof.Machine.execSwapwEffect t a s
  | .gangEffect t => Sys2Proof.Machine.execGangEffect t s
  | .loadwPlaneValid t a => Sys2Proof.Machine.execLoadwPlaneValid t a s
  | .accumRowWrite t a flt => Sys2Proof.Machine.execAccumRowWrite t a flt s
  | .rampUpDone t => Sys2Proof.Machine.execRampUpDone t s
  | .warmIdleTimeout t => Sys2Proof.Machine.execWarmIdleTimeout t s
  | .rampDownDone t => Sys2Proof.Machine.execRampDownDone t s
  | .vecAdd t => Sys2Proof.Machine.execVecAdd t s
  | .vecSub t => Sys2Proof.Machine.execVecSub t s
  | .vecMul t => Sys2Proof.Machine.execVecMul t s
  | .vecFma t => Sys2Proof.Machine.execVecFma t s
  | .vecMax t => Sys2Proof.Machine.execVecMax t s
  | .vecMin t => Sys2Proof.Machine.execVecMin t s
  | .vecCvt t => Sys2Proof.Machine.execVecCvt t s
  | .vecExp2 t => Sys2Proof.Machine.execVecExp2 t s
  | .vecLog2 t => Sys2Proof.Machine.execVecLog2 t s
  | .vecRcp t => Sys2Proof.Machine.execVecRcp t s
  | .vecRsqrt t => Sys2Proof.Machine.execVecRsqrt t s
  | .vecRsum t => Sys2Proof.Machine.execVecRsum t s
  | .vecRmax t => Sys2Proof.Machine.execVecRmax t s
  | .vecSmstep t => Sys2Proof.Machine.execVecSmstep t s
  | .vecNormstat t => Sys2Proof.Machine.execVecNormstat t s
  | .vecQuant t => Sys2Proof.Machine.execVecQuant t s
  | .vecDequant t => Sys2Proof.Machine.execVecDequant t s
  | .vecTopk t => Sys2Proof.Machine.execVecTopk t s
  | .vectorComplete t => Sys2Proof.Machine.execVectorComplete t s
  | .dma t => Sys2Proof.Machine.execDma t s
  | .dma2d t => Sys2Proof.Machine.execDma2d t s
  | .ferryPull t => Sys2Proof.Machine.execFerryPull t s
  | .ferryPush t => Sys2Proof.Machine.execFerryPush t s
  | .reservationCheckDone t k => Sys2Proof.Machine.execReservationCheckDone t k s
  | .channelServiceSlot ch => Sys2Proof.Machine.execChannelServiceSlot ch s
  | .egressServiceSlot st frac => Sys2Proof.Machine.execEgressServiceSlot st frac s
  | .ferryInject st => Sys2Proof.Machine.execFerryInject st s
  | .ferrySourceReadDone st => Sys2Proof.Machine.execFerrySourceReadDone st s
  | .transferComplete t k => Sys2Proof.Machine.execTransferComplete t k s
  | .stallLimit t => Sys2Proof.Machine.execStallLimit t s
  | .harvestStored => Sys2Proof.Machine.execHarvestStored s
  | .attnQ t => Sys2Proof.Machine.execAttnQ t s
  | .attnAdmit => Sys2Proof.Machine.execAttnAdmit s
  | .engineBlock ch => Sys2Proof.Machine.execEngineBlock ch s
  | .engineRecord ch => Sys2Proof.Machine.execEngineRecord ch s
  | .attnQComplete t => Sys2Proof.Machine.execAttnQComplete t s
  | .mark t => Sys2Proof.Machine.execMark t s
  | .dumpInput t => Sys2Proof.Machine.execDumpInput t s
  | .dumpSeal t => Sys2Proof.Machine.execDumpSeal t s
  | .sealRecordDone t => Sys2Proof.Machine.execSealRecordDone t s
  | .refreshWindow => Sys2Proof.Machine.execRefreshWindow s
  | .maintenancePart ch => Sys2Proof.Machine.execMaintenancePart ch s
  | .maintPeriod ch => Sys2Proof.Machine.execMaintPeriod ch s
  | .perBankRefresh ch => Sys2Proof.Machine.execPerBankRefresh ch s
  | .addedRefresh ch => Sys2Proof.Machine.execAddedRefresh ch s
  | .refreshRatePoll ch code d => Sys2Proof.Machine.execRefreshRatePoll ch code d s
  | .recheckChunkDone => Sys2Proof.Machine.execRecheckChunkDone s
  | .barWrite fn rid bar off data ep => Sys2Proof.Machine.execBarWrite fn rid bar off data ep s
  | .barRead fn rid bar off len => Sys2Proof.Machine.execBarRead fn rid bar off len s
  | .syncPortAdd src t o w => Sys2Proof.Machine.execSyncPortAdd src t o w s
  | .syncPortSet src t o w => Sys2Proof.Machine.execSyncPortSet src t o w s
  | .syncPortCount src t o w => Sys2Proof.Machine.execSyncPortCount src t o w s
  | .trayWriteArrival slot a data ep => Sys2Proof.Machine.execTrayWriteArrival slot a data ep s
  | .trayReadArrival slot a len => Sys2Proof.Machine.execTrayReadArrival slot a len s
  | .trayReadCompletion t k data ep => Sys2Proof.Machine.execTrayReadCompletion t k data ep s
  | .mbxReqTailWrite who v => Sys2Proof.Machine.execMbxReqTailWrite who v s
  | .mbxRspHeadWrite who v => Sys2Proof.Machine.execMbxRspHeadWrite who v s
  | .mbxEvtHeadWrite who v => Sys2Proof.Machine.execMbxEvtHeadWrite who v s
  | .mailboxRequestRead who => Sys2Proof.Machine.execMailboxRequestRead who s
  | .devQuery who => Sys2Proof.Machine.execDevQuery who s
  | .devIdentity who => Sys2Proof.Machine.execDevIdentity who s
  | .ctxOpen who => Sys2Proof.Machine.execCtxOpen who s
  | .ctxClose who => Sys2Proof.Machine.execCtxClose who s
  | .ctxUnfreeze who => Sys2Proof.Machine.execCtxUnfreeze who s
  | .memAlloc who => Sys2Proof.Machine.execMemAlloc who s
  | .memFree who => Sys2Proof.Machine.execMemFree who s
  | .memMap who => Sys2Proof.Machine.execMemMap who s
  | .memUnmap who => Sys2Proof.Machine.execMemUnmap who s
  | .memTable who => Sys2Proof.Machine.execMemTable who s
  | .tableRefsDrained slot => Sys2Proof.Machine.execTableRefsDrained slot s
  | .tableLoadTimeout slot => Sys2Proof.Machine.execTableLoadTimeout slot s
  | .ringPlan who busErr => Sys2Proof.Machine.execRingPlan who busErr s
  | .ringForm who busErr => Sys2Proof.Machine.execRingForm who busErr s
  | .discoverTimeout => Sys2Proof.Machine.execDiscoverTimeout s
  | .formationDecision d => Sys2Proof.Machine.execFormationDecision d s
  | .measureDone beyond count passed east west => Sys2Proof.Machine.execMeasureDone beyond count passed east west s
  | .formationTimeout => Sys2Proof.Machine.execFormationTimeout s
  | .ringJoin who busErr => Sys2Proof.Machine.execRingJoin who busErr s
  | .ringLeave who => Sys2Proof.Machine.execRingLeave who s
  | .ringSlack who => Sys2Proof.Machine.execRingSlack who s
  | .ringResume who => Sys2Proof.Machine.execRingResume who s
  | .ringOrient who busErr => Sys2Proof.Machine.execRingOrient who busErr s
  | .wgtStage who busErr => Sys2Proof.Machine.execWgtStage who busErr s
  | .wgtStageDone set busErr ep => Sys2Proof.Machine.execWgtStageDone set busErr ep s
  | .wgtVerify who busErr => Sys2Proof.Machine.execWgtVerify who busErr s
  | .wgtVerifyDone set => Sys2Proof.Machine.execWgtVerifyDone set s
  | .wgtSwitch who => Sys2Proof.Machine.execWgtSwitch who s
  | .wgtDrop who => Sys2Proof.Machine.execWgtDrop who s
  | .wsetEffect who => Sys2Proof.Machine.execWsetEffect who s
  | .runLaunch who => Sys2Proof.Machine.execRunLaunch who s
  | .runStatus who => Sys2Proof.Machine.execRunStatus who s
  | .runCancel who => Sys2Proof.Machine.execRunCancel who s
  | .obsCounters who busErr => Sys2Proof.Machine.execObsCounters who busErr s
  | .obsTraceConfigure who => Sys2Proof.Machine.execObsTraceConfigure who s
  | .obsTraceArm who => Sys2Proof.Machine.execObsTraceArm who s
  | .obsTraceStop who => Sys2Proof.Machine.execObsTraceStop who s
  | .obsTraceRead who busErr => Sys2Proof.Machine.execObsTraceRead who busErr s
  | .obsWatch who => Sys2Proof.Machine.execObsWatch who s
  | .watchFire t => Sys2Proof.Machine.execWatchFire t s
  | .watchCopyDone t busErr => Sys2Proof.Machine.execWatchCopyDone t busErr s
  | .obsHarvest who busErr => Sys2Proof.Machine.execObsHarvest who busErr s
  | .secAttest who busErr => Sys2Proof.Machine.execSecAttest who busErr s
  | .secUpdate who busErr => Sys2Proof.Machine.execSecUpdate who busErr s
  | .cfgRead who => Sys2Proof.Machine.execCfgRead who s
  | .cfgWrite who => Sys2Proof.Machine.execCfgWrite who s
  | .registerWrite who a v => Sys2Proof.Machine.execRegisterWrite who a v s
  | .tideCtrlWrite who v => Sys2Proof.Machine.execTideCtrlWrite who v s
  | .kprTrayWrite who off v => Sys2Proof.Machine.execKprTrayWrite who off v s
  | .pwrCtrlWrite who v => Sys2Proof.Machine.execPwrCtrlWrite who v s
  | .watchdogExpiry => Sys2Proof.Machine.execWatchdogExpiry s
  | .keeperRestart => Sys2Proof.Machine.execKeeperRestart s
  | .cablePresent st => Sys2Proof.Machine.execCablePresent st s
  | .cableRemoved st => Sys2Proof.Machine.execCableRemoved st s
  | .detectTimeout st => Sys2Proof.Machine.execDetectTimeout st s
  | .detectRetry st => Sys2Proof.Machine.execDetectRetry st s
  | .detectDone st lanes => Sys2Proof.Machine.execDetectDone st lanes s
  | .equaliseDone st laneOk => Sys2Proof.Machine.execEqualiseDone st laneOk s
  | .equaliseTimeout st => Sys2Proof.Machine.execEqualiseTimeout st s
  | .alignDone st reversed => Sys2Proof.Machine.execAlignDone st reversed s
  | .alignTimeout st => Sys2Proof.Machine.execAlignTimeout st s
  | .identifyTimeout st => Sys2Proof.Machine.execIdentifyTimeout st s
  | .fecLockLoss st => Sys2Proof.Machine.execFecLockLoss st s
  | .crcSilenceTimeout st => Sys2Proof.Machine.execCrcSilenceTimeout st s
  | .retrainDone st laneOk => Sys2Proof.Machine.execRetrainDone st laneOk s
  | .retrainTimeout st => Sys2Proof.Machine.execRetrainTimeout st s
  | .flitReceive st bytes corrected uncorrectable => Sys2Proof.Machine.execFlitReceive st bytes corrected uncorrectable s
  | .creditStallTimeout st => Sys2Proof.Machine.execCreditStallTimeout st s
  | .ferry st => Sys2Proof.Machine.execFerry st s
  | .ferryWritten st => Sys2Proof.Machine.execFerryWritten st s
  | .ferryHoldStall st => Sys2Proof.Machine.execFerryHoldStall st s
  | .rwrite st => Sys2Proof.Machine.execRwrite st s
  | .rread st => Sys2Proof.Machine.execRread st s
  | .rreadQueueServe st => Sys2Proof.Machine.execRreadQueueServe st s
  | .rreadResponse st => Sys2Proof.Machine.execRreadResponse st s
  | .straitSignalAdd st => Sys2Proof.Machine.execStraitSignalAdd st s
  | .straitSignalSet st => Sys2Proof.Machine.execStraitSignalSet st s
  | .straitSignalAck st => Sys2Proof.Machine.execStraitSignalAck st s
  | .credit st => Sys2Proof.Machine.execCredit st s
  | .probe st => Sys2Proof.Machine.execProbe st s
  | .slackRequest st => Sys2Proof.Machine.execSlackRequest st s
  | .slackCut st => Sys2Proof.Machine.execSlackCut st s
  | .slackReqPin => Sys2Proof.Machine.execSlackReqPin s
  | .slackCutMark => Sys2Proof.Machine.execSlackCutMark s
  | .slackReached => Sys2Proof.Machine.execSlackReached s
  | .stepBoundary => Sys2Proof.Machine.execStepBoundary s
  | .berthRelease r => Sys2Proof.Machine.execBerthRelease r s
  | .commitShadow t => Sys2Proof.Machine.execCommitShadow t s
  | .commitReport => Sys2Proof.Machine.execCommitReport s
  | .commitDeclare c => Sys2Proof.Machine.execCommitDeclare c s
  | .quiesceTimeout => Sys2Proof.Machine.execQuiesceTimeout s
  | .drainDone => Sys2Proof.Machine.execDrainDone s
  | .drainTimeout st => Sys2Proof.Machine.execDrainTimeout st s
  | .recoveryDecide rs => Sys2Proof.Machine.execRecoveryDecide rs s
  | .decisionDeadline rs => Sys2Proof.Machine.execDecisionDeadline rs s
  | .recoveryDecision d => Sys2Proof.Machine.execRecoveryDecision d s
  | .replayMark => Sys2Proof.Machine.execReplayMark s
  | .panRecord => Sys2Proof.Machine.execPanRecord s
  | .stampWrap => Sys2Proof.Machine.execStampWrap s
  | .powerOnBoot b => Sys2Proof.Machine.execPowerOnBoot b s
  | .pwrEnRise => Sys2Proof.Machine.execPwrEnRise s
  | .pwrEnFall => Sys2Proof.Machine.execPwrEnFall s
  | .inputUndervoltage => Sys2Proof.Machine.execInputUndervoltage s
  | .inputOvervoltage => Sys2Proof.Machine.execInputOvervoltage s
  | .inputRestored => Sys2Proof.Machine.execInputRestored s
  | .inputOvercurrent => Sys2Proof.Machine.execInputOvercurrent s
  | .coreOvercurrent => Sys2Proof.Machine.execCoreOvercurrent s
  | .powerSample mv ma dw => Sys2Proof.Machine.execPowerSample mv ma dw s
  | .thermalWarning x temp => Sys2Proof.Machine.execThermalWarning x temp s
  | .thermalShutdown x => Sys2Proof.Machine.execThermalShutdown x s
  | .perst => Sys2Proof.Machine.execPerst s
  | .vfFlr n => Sys2Proof.Machine.execVfFlr n s
  | .pfFlr => Sys2Proof.Machine.execPfFlr s
  | .vfEnableClear => Sys2Proof.Machine.execVfEnableClear s
  | .d3hot fn => Sys2Proof.Machine.execD3hot fn s
  | .smbusSetWindow off pecOk => Sys2Proof.Machine.execSmbusSetWindow off pecOk s
  | .smbusDataWrite data pecOk => Sys2Proof.Machine.execSmbusDataWrite data pecOk s
  | .smbusDataRead len => Sys2Proof.Machine.execSmbusDataRead len s
  | .smbusStatusRead => Sys2Proof.Machine.execSmbusStatusRead s
  | .alertResponse => Sys2Proof.Machine.execAlertResponse s
  | .tapReset => Sys2Proof.Machine.execTapReset s
  | .bypass tap => Sys2Proof.Machine.execBypass tap s
  | .idcode tap => Sys2Proof.Machine.execIdcode tap s
  | .samplePreload tap bits => Sys2Proof.Machine.execSamplePreload tap bits s
  | .extest tap => Sys2Proof.Machine.execExtest tap s
  | .extestPulse tap => Sys2Proof.Machine.execExtestPulse tap s
  | .extestTrain tap => Sys2Proof.Machine.execExtestTrain tap s
  | .clamp tap => Sys2Proof.Machine.execClamp tap s
  | .highz tap => Sys2Proof.Machine.execHighz tap s
  | .memtestDq ch => Sys2Proof.Machine.execMemtestDq ch s
  | .memtestCa ch => Sys2Proof.Machine.execMemtestCa ch s
  | .memtestDone fail => Sys2Proof.Machine.execMemtestDone fail s
  | .ctrlAccess a => Sys2Proof.Machine.execCtrlAccess a s
  | .ctrlAccessDone => Sys2Proof.Machine.execCtrlAccessDone s
  | .norAccessRead a => Sys2Proof.Machine.execNorAccessRead a s
  | .norAccessWrite a data => Sys2Proof.Machine.execNorAccessWrite a data s
  | .norAccessErase a => Sys2Proof.Machine.execNorAccessErase a s
  | .norAccessDone => Sys2Proof.Machine.execNorAccessDone s
  | .slackReqRelease => Sys2Proof.Machine.execSlackReqRelease s
  | .restoreDone => Sys2Proof.Machine.execRestoreDone s
  | .commitReportArrival pos c => Sys2Proof.Machine.execCommitReportArrival pos c s
  | .formationAgree r => Sys2Proof.Machine.execFormationAgree r s
  | .secUpdateDone => Sys2Proof.Machine.execSecUpdateDone s
  | .runLaunchLoaded => Sys2Proof.Machine.execRunLaunchLoaded s
  | .launchLoadDeadline => Sys2Proof.Machine.execLaunchLoadDeadline s
  | .runCancelDone => Sys2Proof.Machine.execRunCancelDone s
  | .perstRelease => Sys2Proof.Machine.execPerstRelease s
  | .d3hotExit fn => Sys2Proof.Machine.execD3hotExit fn s
  | .runBaseMark => Sys2Proof.Machine.execRunBaseMark s

end Sys2Proof.Machine
end

