-- ==== Sys2Proof/Machine/Flags.lean ====
section
/-! DEFINITION. The signals that the module drives, each a function of its state: TIDE_REF_OUT, CLKREQ#, ALERT#, SLACK_ACK and
ATTN_LED (R38, R434, R481, R543, R544, R547). -/
namespace Sys2Proof.Machine

/-- Whether the module drives its connector's outputs: with the front end open they are high impedance (R544), and pins that an
instruction has taken belong to the test logic (R566). -/
def State.drives (s : State) : Bool := s.front.powered && !s.jtag.pinsTaken

/-- CLKREQ# is held low whenever the module is powered (R543). -/
def State.clkreqLow (s : State) : Bool := s.front.powered

/-- TIDE_REF_OUT runs at the tick clock (R38); otherwise it is idle. -/
def State.refOutRuns (s : State) : Bool := s.drives && s.chip.tide.refOutEn && s.chip.tide.pllLock

/-- ALERT# is asserted (R434). -/
def State.alertLow (s : State) : Bool := s.drives && s.chip.alert

/-- SLACK_ACK is driven high (R479, R481). -/
def State.slackAckHigh (s : State) : Bool := s.drives && s.chip.slackAck

/-- What ATTN_LED shows. -/
inductive Led where
  | off | on | blink
deriving DecidableEq, Repr

/-- What lights ATTN_LED in automatic mode (R547). -/
def State.needsAttention (s : State) : Bool :=
  s.chip.keeper.state == .halted || s.chip.boot.stage == 4 || (List.range 64).any (fun ch => (s.chip.chan ch).st == 3) ||
  (!s.chip.boot.identityOk && s.chip.boot.stage != 0) || s.jtag.pinsTaken

/-- ATTN_LED, as PWR_CTRL.LED selects (R547, R571). -/
def State.attnLed (s : State) : Led :=
  if !s.front.powered then .off
  else if s.chip.pwr.led = 0 then (if s.needsAttention then .on else .off)
  else if s.chip.pwr.led = 1 then .off
  else if s.chip.pwr.led = 2 then .on
  else .blink

end Sys2Proof.Machine
end

