-- ==== Sys2Proof/Safety.lean ====
section
/-! DEFINITION. What counts as a safe run, and what every step keeps, in the terms the statements use. -/
namespace Sys2Proof
open Sys2Proof.Machine

/-- The step at s answers a next state. -/
def StepsOn (s : Machine.State) : Prop := ∃ t, Machine.step s = .next t

/-- n steps from s answer a next state each. -/
def Safe : Nat → Machine.State → Prop
  | 0, _ => True
  | n + 1, s => ∃ t, Machine.step s = .next t ∧ Safe n t

/-- What the front end, the host link, the SMBus target and the test port always keep (R550, R553, R557, R561, R563, R566): a closed front
end has PWR_EN high, nothing latched and no wait; behind an open one everything is at its module reset value but the serial NOR and the world
outside; PERST# leaves no BAR assigned, no virtual function enabled and none in D3hot; the SMBus window stays in the page. -/
structure FrontKept (s : Machine.State) : Prop where
  closed : s.front.powered = true → s.front.pwrEn = true ∧ s.front.latched = false ∧ s.front.waiting = false
  dark   : s.front.powered = false → s.chip = Chip.init s.chip.nor s.chip.ext s.chip.fresh.n ∧ s.jtag = Jtag.init ∧
             s.pcie.barsSet = false ∧ s.pcie.vfEnable = false ∧ s.pcie.d3 = 0 ∧ s.smb.window = 0
  perst  : s.pcie.perst = true → s.pcie.barsSet = false ∧ s.pcie.vfEnable = false ∧ s.pcie.d3 = 0
  window : s.smb.window ≤ 0x8000

/-- Whether a command acts outside the dies: the front end's own controller, PERST#, the module reset's first event and the test port. -/
def Instr.outside : Instr → Bool
  | .pwrEnRise | .pwrEnFall | .inputUndervoltage | .inputOvervoltage | .inputRestored | .inputOvercurrent | .coreOvercurrent
  | .thermalShutdown _ | .perst | .perstRelease | .tapReset | .bypass _ | .idcode _ | .samplePreload _ _ | .extest _ | .extestPulse _
  | .extestTrain _ | .clamp _ | .highz _ | .memtestDq _ | .memtestCa _ | .memtestDone _ | .ctrlAccess _ | .ctrlAccessDone
  | .norAccessRead _ | .norAccessWrite _ _ | .norAccessErase _ | .norAccessDone => true
  | _ => false

/-- The state after a command that changes only the module behind the front end. -/
def after (s : Machine.State) (c : Chip) : Machine.State := { s with chip := c }

/-- The oldest transaction of a strait's receive buffer, well formed, of a type and with TFLAGS that pass a test. -/
def Arrived (c : Chip) (st : Strait) (vc : BitVec 2) (ty : Nat) (k : Nat → Bool) (r : RxTxn) : Prop :=
  c.headRx st vc ty k = some r ∧ txnBodyOk r.txn.bytes = true

/-- The command at the head of a tile's queue is due, has one of the given opcodes, passes every check of its opcode, waits for nothing, and
the outbound ledger does not hold it: what R59, R577 and R477 ask of a command that issues and has its effect. -/
def Issues (i : Issue) (ops : Nat → Bool) (t : Nat) (c : Chip) (q : QCmd) : Prop :=
  c.readyHead t = some q ∧ q.poisoned = false ∧ opDefined q.op = true ∧ ops q.op = true ∧ (i.checks c t q).first (c.tile t) q = none ∧
  i.hold c t q = Hold.none ∧ i.late c t q = none ∧ c.recov.ledger.contains (t, q.idx) = false

/-- The Keeper takes an issuer's request as a command of an opcode: it is the issuer's current one, and the Keeper serves it. -/
def Requested (c : Chip) (n op : Nat) (q : Req) : Prop :=
  (c.ctx n).cur = some q ∧ c.serves n = true ∧ q.opcode.toNat = op

end Sys2Proof
end

