-- ==== Sys2Proof/Certificates/Slice0/Obligations.lean ====
section
/-! DEFINITION. The statements for the provers: what the commands of each chapter do, what they leave unchanged, and what every step keeps.
In every statement `exec` answers the whole next state, written as the state before with what the rules change. -/
open Sys2Proof Sys2Proof.Machine

/-- For every command c and state s, one step of s with c at the front of its queue is exec of c on s with the queue's rest. The queue is the model's own (log 4). -/
def Obligations.StepRunsTheOldestWaitingCommand : Prop :=
  ∀ (c : Instr) (rest : List Instr) (s : State), step { s with pending := c :: rest } = exec c { s with pending := rest }

/-- For every command and every state exec answers a next state, never a fault or a refusal, and the commands that wait are the same after it. -/
def Obligations.EveryCommandAnswersAndLeavesTheQueue : Prop :=
  ∀ (i : Instr) (s : State), ∃ t, exec i s = .next t ∧ t.pending = s.pending

/-- After reset the time base is LOCKING with REF_SEC 0b111, REF_PRI LOCAL and a count of 0; every strait is DOWN with width code 0b11; no tile, stream, mailbox or fault register holds anything but its reset value; KPR_STATUS shows a Keeper that boots; PAN_TRIG_IDX is all ones; PWR_LAST_OFF holds 0xFF; each TAP holds IDCODE; no register of memory content is listed and no command waits. -/
def Obligations.ModuleResetLeavesTheValuesOfTheManual : Prop :=
  State.reset.pending = [] ∧ State.reset.chip.tide.st = .locking ∧ State.reset.chip.tide.refSec = 7 ∧ State.reset.chip.tide.refPri = 0 ∧
  State.reset.chip.tide.count = 0 ∧ State.reset.chip.tide.master = false ∧ State.reset.chip.tide.refPeriod = 0x0E50 ∧
  State.reset.chip.tide.refLen = 0x01C0 ∧ (∀ st, State.reset.chip.str st = Str.init) ∧ (∀ t, State.reset.chip.tile t = Tile.init) ∧
  (∀ n, State.reset.chip.chan n = Chan.init) ∧ State.reset.chip.keeper.state = .booting ∧ State.reset.chip.keeper.evtRaised = 0 ∧
  State.reset.chip.keeper.restartCnt = 0 ∧ State.reset.chip.tray.enable = false ∧ State.reset.chip.tray.frozen = 0 ∧
  State.reset.chip.recov = Recovery.init ∧ State.reset.chip.pan.trigIdx = BitVec.allOnes 64 ∧ State.reset.chip.pan.st = .idle ∧
  State.reset.chip.boot.stage = 0 ∧ State.reset.chip.pwr.lastOff = 0xFF ∧ State.reset.chip.pwr.led = 0 ∧ State.reset.jtag.irHub = 1 ∧
  State.reset.jtag.irC0 = 1 ∧ State.reset.jtag.irC1 = 1 ∧ State.reset.jtag.pinsTaken = false ∧ State.reset.chip.runs = [] ∧
  State.reset.chip.spdMem = [] ∧ State.reset.chip.lpMem = [] ∧ State.reset.chip.ring.form = .none

/-- From every state that keeps FrontKept, a step that answers a next state answers one that keeps it, whatever command runs or whether none waits: a closed front end has PWR_EN high, nothing latched and no wait for the input; behind an open one every register is at its module reset value; while PERST# is asserted no BAR is assigned, VF Enable is 0 and no function is in D3hot; the SMBus window never leaves the page. -/
def Obligations.FrontEndLinkAndTestPortKept : Prop :=
  ∀ s t : State, FrontKept s → step s = .next t → FrontKept t

/-- FrontKept holds of the state after reset. -/
def Obligations.ResetKeepsFrontEndLinkAndTestPort : Prop :=
  FrontKept State.reset

/-- While the die set does not run, because the front end is open or an instruction has taken the pins, every command but those of the front end's controller, PERST#, the test port and the serial NOR port leaves the whole state as it was. -/
def Obligations.StoppedDiesDoNothing : Prop :=
  ∀ (i : Instr) (s : State), s.live = false → i.outside = false → exec i s = .next s

/-- For every write of bytes at a local address of the scratchpad window or of LPDDR5X: both memories keep their canonical form; a byte read inside the written range gives the byte written; every byte of the same memory outside it, and every byte of the other memory, reads as before. In LPDDR5X this is said of every byte that is no tag of a sealed region: tags follow the granules they cover (R286), and what nothing has written since it was freed reads as the same open value before and after (log 102). -/
def Obligations.WritesKeepMemoryCanonicalAndReadBack : Prop :=
  (∀ (c : Chip) (a : Nat) (bs : List Byte) (pz : Bool), Memory.wf 0 c.spdMem = true → Memory.wf 0 c.lpMem = true →
    Memory.wf 0 (c.write a bs pz).spdMem = true ∧ Memory.wf 0 (c.write a bs pz).lpMem = true) ∧
  (∀ (c : Chip) (a : Nat) (bs : List Byte) (pz : Bool) (x : Nat), inSpd a = true → Memory.wf 0 c.spdMem = true →
    tblGet 0 (c.write a bs pz).spdMem x =
      (if a - spdBase ≤ x ∧ x < a - spdBase + bs.length then bs.getD (x - (a - spdBase)) 0 else tblGet 0 c.spdMem x) ∧
    (c.write a bs pz).lpMem = c.lpMem) ∧
  (∀ (c : Chip) (a : Nat) (bs : List Byte) (pz : Bool) (x : Nat), inSpd a = false → Memory.wf 0 c.lpMem = true →
    (c.write a bs pz).spdMem = c.spdMem ∧ (c.tagsAt x = none →
      (c.write a bs pz).lpByte x = (if a ≤ x ∧ x < a + bs.length then bs.getD (x - a) 0 else c.lpByte x)))

/-- Raising an event of any code and source changes nothing but the Keeper's counts of events, the event rings of mailboxes, what the module sends, and the pan; the Keeper's state stays. -/
def Obligations.EventsTouchOnlyMailboxesAndTrace : Prop :=
  ∀ (c : Chip) (tgt : Nat) (code : W16) (kind : BitVec 4) (id : Nat) (d0 d1 : W64),
    ∃ k x o p, c.raise tgt code kind id d0 d1 = { c with keeper := k, ctxs := x, ext := o, pan := p } ∧ k.state = c.keeper.state

/-- In a module that runs. PLL_LOCK in LOCKING locks to the valid primary source, else to the valid secondary, and enters FREE, or MEASURING where a formation has decided to measure. REF_SOURCE_INVALID of the locked source picks the other valid source, or with none enters holdover from ALIGNED, and either way sets REF_LOSS and raises it with both sources; of a source not locked it only makes it invalid. REF_SOURCE_VALID of the primary source leaves holdover for ALIGNED on that source; a strait is no valid source while its receiver holds no lock (R35; which states hold it is log 84). HOLDOVER_TIMEOUT 20 ms (2,350,000 tk) into holdover enters LOST, sets ALIGN_LOST, raises it with cause 2, and asks for a forced slack of class 0x08. Nothing else changes. -/
def Obligations.ReferenceSourcesLockFailOverAndExpire : Prop :=
  ∀ (s : State) (c : Chip), s.live = true → s.chip = c →
  (c.tide.st = .locking → c.tide.valid c.tide.refPri = true →
    exec .pllLock s = .next (after s { c with tide := { c.tide with pllLock := true, refActive := c.tide.refPri, st := if c.ring.form == .measure then .measuring else .free } })) ∧
  (c.tide.st = .locking → c.tide.valid c.tide.refPri = false → c.tide.valid c.tide.refSec = true →
    exec .pllLock s = .next (after s { c with tide := { c.tide with pllLock := true, refActive := c.tide.refSec, st := if c.ring.form == .measure then .measuring else .free } })) ∧
  (∀ (src k : BitVec 3) (ok : BitVec 6), c.tide.pllLock = true → c.tide.refActive = src → ok = c.tide.srcOk &&& ~~~(BitVec.ofNat 6 (2 ^ src.toNat)) →
    ({ c.tide with srcOk := ok } : Tide).pick = some k → k ≠ 7 →
    exec (.refSourceInvalid src) s = .next (after s (Chip.evMod { c with tide := { c.tide with srcOk := ok, refActive := k, refLoss := true } }
      0x0101 (mkWord [(61, 3, src.toNat), (58, 3, k.toNat)]) 0))) ∧
  (∀ (src : BitVec 3) (ok : BitVec 6), c.tide.pllLock = true → c.tide.refActive = src → c.tide.st = .aligned →
    ok = c.tide.srcOk &&& ~~~(BitVec.ofNat 6 (2 ^ src.toNat)) → ({ c.tide with srcOk := ok } : Tide).pick = none →
    exec (.refSourceInvalid src) s = .next (after s (Chip.evMod
      { c with tide := { c.tide with srcOk := ok, refActive := 7, refLoss := true, st := .holdover, holdSince := c.up } }
      0x0101 (mkWord [(61, 3, src.toNat), (58, 3, 7)]) 0))) ∧
  (∀ src : BitVec 3, c.tide.refActive ≠ src →
    exec (.refSourceInvalid src) s =
      .next (after s { c with tide := { c.tide with srcOk := c.tide.srcOk &&& ~~~(BitVec.ofNat 6 (2 ^ src.toNat)) } })) ∧
  (∀ src : BitVec 3, c.tide.pllLock = true → c.tide.refActive = 7 → c.tide.st = .holdover → c.tide.refPri = src → src.toNat < 6 → c.lockable src = true →
    exec (.refSourceValid src) s =
      .next (after s { c with tide := { c.tide with srcOk := c.tide.srcOk ||| BitVec.ofNat 6 (2 ^ src.toNat), refActive := src, st := .aligned } })) ∧
  (∀ (src : BitVec 3) (st : Strait), src.toNat = 2 + straitNum st → (c.str st).train = .down → c.tide.refActive ≠ 7 → exec (.refSourceValid src) s = .next s) ∧
  (c.tide.st = .holdover → c.tide.holdSince + 2350000 ≤ c.up →
    exec .holdoverTimeout s = .next (after s (Chip.forceSlack
      (Chip.evMod { c with tide := { c.tide with st := .lost, alignLost := true } } 0x0103 0 (mkWord [(56, 8, 2), (50, 6, c.tide.hops.toNat)])) 0x08)))

/-- In a module that runs. TIME_EXCHANGE_TIMER on a hop that takes part and whose 65,536 tk have passed sends a request with the next SEQ on VC-M and waits for it. TIME_REQUEST answers a request with its SEQ and T1 copied and the receive stamp as T2. TIME_REPLY of the SEQ awaited takes t4 and adds the offset and the delay that R48 gives to the hop's sums, follows the residual and, on a cross strait, stores the far ring's offset; one of another SEQ only leaves the buffer. The offset and the delay are those of R48's example. -/
def Obligations.TimeExchangeMeasuresAHop : Prop :=
  (∀ (s : State) (c : Chip) (st : Strait) (x : HopX), s.live = true → s.chip = c → c.tide.xch.get st = x → c.hopRuns st = true → x.due ≤ c.up →
    exec (.timeExchangeTimer st) s = .next (after s (Chip.sendM
      { c with tide := { c.tide with xch := c.tide.xch.set st { x with seq := x.seq + 1, waiting := true, due := c.up + 65536 } } } st
      (timeBytes (c.str st).pver.toNat false (x.seq + 1) 0 0 0)))) ∧
  (∀ (s : State) (c : Chip) (st : Strait) (frac : BitVec 9) (r : RxTxn), s.live = true → s.chip.popRx st 3 = c →
    Arrived s.chip st 3 7 (fun k => decide (k % 2 = 0)) r →
    exec (.timeRequest st frac) s = .next (after s (c.sendM st
      (timeBytes (s.chip.str st).pver.toNat true (BitVec.ofNat 16 (fld (wordAt r.txn.bytes 8) 63 48)) (wordAt r.txn.bytes 16) (s.chip.stamp frac) 0)))) ∧
  (∀ (s : State) (c : Chip) (st : Strait) (frac : BitVec 9) (r : RxTxn) (e : Int × Int), s.live = true → s.chip.popRx st 3 = c →
    Arrived s.chip st 3 7 (fun k => decide (k % 2 = 1)) r → (s.chip.tide.xch.get st).waiting = true →
    fld (wordAt r.txn.bytes 8) 63 48 = (s.chip.tide.xch.get st).seq.toNat →
    e = exchange2 (wordAt r.txn.bytes 16) (wordAt r.txn.bytes 24) (wordAt r.txn.bytes 32) (c.stamp frac) →
    exec (.timeReply st frac) s = .next (after s (((c.addExchange st (wordAt r.txn.bytes 16) e.1 e.2).track st).xsync st))) ∧
  (∀ (s : State) (st : Strait) (frac : BitVec 9) (r : RxTxn), s.live = true → Arrived s.chip st 3 7 (fun k => decide (k % 2 = 1)) r →
    fld (wordAt r.txn.bytes 8) 63 48 ≠ (s.chip.tide.xch.get st).seq.toNat →
    exec (.timeReply st frac) s = .next (after s (s.chip.popRx st 3))) ∧
  (∀ t1 t2 t3 t4 : W64, t1.toNat < 2 ^ 62 → t2.toNat < 2 ^ 62 → t3.toNat < 2 ^ 62 → t4.toNat < 2 ^ 62 →
    exchange2 t1 t2 t3 t4 = (((t2.toNat : Int) - t1.toNat) - ((t4.toNat : Int) - t3.toNat), ((t2.toNat : Int) - t1.toNat) + ((t4.toNat : Int) - t3.toNat)))

/-- In a module that runs, for the command at the head of a tile's queue that is due, passes its checks and waits for nothing: WAIT leaves the queue and compares scopes; FENCE leaves the queue; SIGNAL leaves it and updates the object of a tile of this module, or sends a sync port write to the tray slot it names, or queues a SIGNAL transaction on VC-C of the strait it names. While a WAIT's object has not reached its target it stays at the head and nothing changes. -/
def Obligations.WaitFenceAndSignalIssue : Prop :=
  ∀ (s : State) (c d : Chip) (t : TileId) (q : QCmd), s.live = true → s.chip = c → c.issued t.toNat q = d →
  (Issues waitIssue (· == 0x01) t.toNat c q → exec (.wait t) s = .next (after s ((d.scopeCheck t.toNat q).traceIssue t.toNat q))) ∧
  (c.readyHead t.toNat = some q → q.poisoned = false → q.op = 0x01 → (waitChecks c t.toNat q).first (c.tile t.toNat) q = none →
    waitMet (c.tile t.toNat) c.nowAc q = false → exec (.wait t) s = .next s) ∧
  (Issues fenceIssue (· == 0x03) t.toNat c q → exec (.fence t) s = .next (after s (d.traceIssue t.toNat q))) ∧
  (Issues signalIssue (· == 0x02) t.toNat c q → fld (q.w 2) 63 61 = 0 → fld (q.w 2) 31 30 = 0 →
    exec (.signal t) s = .next (after s ((d.traceIssue t.toNat q).syncLocal t.toNat q.id q.opB (fld (q.w 2) 43 32) (fld (q.w 2) 5 0)
      (.add (BitVec.ofNat 32 (fld (q.w 3) 31 0))) (BitVec.ofNat 3 (fld (q.w 2) 29 27))))) ∧
  (Issues signalIssue (· == 0x02) t.toNat c q → fld (q.w 2) 63 61 = 0 → fld (q.w 2) 31 30 = 1 →
    exec (.signal t) s = .next (after s ((d.traceIssue t.toNat q).syncLocal t.toNat q.id q.opB (fld (q.w 2) 43 32) (fld (q.w 2) 5 0)
      (.set (BitVec.ofNat 32 (fld (q.w 3) 31 0))) (BitVec.ofNat 3 (fld (q.w 2) 29 27))))) ∧
  (Issues signalIssue (· == 0x02) t.toNat c q → fld (q.w 2) 63 61 = 1 → fld (q.w 2) 51 48 ≠ (d.traceIssue t.toNat q).tray.self.toNat →
    exec (.signal t) s = .next (after s (((d.traceIssue t.toNat q).send (.trayWrite (BitVec.ofNat 4 (fld (q.w 2) 51 48))
      ((d.traceIssue t.toNat q).trayPcie (fld (q.w 2) 51 48) (portAddr (fld (q.w 2) 43 32) (fld (q.w 2) 5 0)))
      (portWord (fld (q.w 2) 31 30) (fld (q.w 2) 29 27) 0 (fld (q.w 3) 31 0)) false)).ledgerTray (fld (q.w 2) 51 48) t.toNat q.idx))) ∧
  (Issues signalIssue (· == 0x02) t.toNat c q → 4 ≤ fld (q.w 2) 63 61 →
    exec (.signal t) s = .next (after s ((d.traceIssue t.toNat q).sendSignal (routeStrait (fld (q.w 2) 63 61)) (fld (q.w 2) 31 30) q.id.toNat
      (fld (q.w 2) 43 32) (fld (q.w 2) 29 27) (fld (q.w 2) 5 0) (fld (q.w 3) 31 0) (.signal t.toNat q.idx))))

/-- In a module that runs, for a tile that runs, whose stream has commands left and whose queue holds fewer than 1,024: the 64 bytes of the next command are read, the tile's generation replaces GEN, and the command joins the end of the queue with its index in the stream, once the channel of its burst has granted it (R254, R255). Before that, and with a full queue, nothing is taken. -/
def Obligations.QueueFetchTakesTheNextCommand : Prop :=
  ∀ (s : State) (c : Chip) (t : TileId) (x : Tile), s.live = true → s.chip = c → c.tile t.toNat = x →
  (x.st = .running → c.runsOn t.toNat = true → x.fetched < x.streamLen → x.queue.length < 1024 → x.fetchGot = true →
    ∀ r : Chip × List Byte × Bool, r = c.fetch (x.streamAt + 64 * x.fetched) 64 (tileReader true) →
    exec (.queueFetch t) s = .next (after s (r.1.updTile t.toNat (fun y => { y with fetched := y.fetched + 1, fetchGot := false, queue := y.queue ++
      [⟨(cmdWord (bytesWords 8 r.2.1) 0 - BitVec.ofNat 64 (fld (cmdWord (bytesWords 8 r.2.1) 0) 47 44 * 2 ^ 44) + BitVec.ofNat 64 (x.gen.toNat * 2 ^ 44)) ::
          (bytesWords 8 r.2.1).drop 1, x.fetched, r.2.2, fld (cmdWord (bytesWords 8 r.2.1) 0) 47 44 != 0⟩] })))) ∧
  ((1024 ≤ x.queue.length ∨ x.fetchGot = false) → exec (.queueFetch t) s = .next s)

/-- In a module that runs, for a matrix command at the head of a tile's queue that is due, passes its checks and waits for nothing: it leaves the queue and joins the end of the queue of every array of its mask, in the gang mode that the last GANG issued sets; MATMUL, LOADW and SWAPW start a ramp of an idle or ramping down tile, and a GANG, which joins all four, starts none. -/
def Obligations.MatrixCommandsEnterTheArrayQueues : Prop :=
  ∀ (s : State) (c d : Chip) (t : TileId) (q : QCmd), s.live = true → s.chip = c → c.issued t.toNat q = d →
  (Issues matmulIssue (· == 0x10) t.toNat c q → exec (.matmul t) s = .next (after s (d.updTile t.toNat (fun x =>
    (x.enqueue q (BitVec.ofNat 4 (fld (q.w 3) 43 40)) d.nowAc).startRamp d.nowAc)))) ∧
  (Issues loadwIssue (· == 0x11) t.toNat c q → exec (.loadw t) s = .next (after s (d.updTile t.toNat (fun x =>
    (x.enqueue q (BitVec.ofNat 4 (fld (q.w 3) 35 32)) d.nowAc).startRamp d.nowAc)))) ∧
  (Issues swapwIssue (· == 0x12) t.toNat c q → exec (.swapw t) s = .next (after s (d.updTile t.toNat (fun x =>
    (x.enqueue q (BitVec.ofNat 4 (fld (q.w 2) 3 0)) d.nowAc).startRamp d.nowAc)))) ∧
  (Issues gangIssue (· == 0x13) t.toNat c q → exec (.gang t) s = .next (after s (d.updTile t.toNat (fun x => x.enqueue q 15 d.nowAc)))) ∧
  (∀ (x : Tile) (ac : Nat), x.enqueue q 15 ac = { x with
    a0 := { x.a0 with queue := x.a0.queue ++ [newMCmd q 15 x.issueMode ac] }, a1 := { x.a1 with queue := x.a1.queue ++ [newMCmd q 15 x.issueMode ac] },
    a2 := { x.a2 with queue := x.a2.queue ++ [newMCmd q 15 x.issueMode ac] }, a3 := { x.a3 with queue := x.a3.queue ++ [newMCmd q 15 x.issueMode ac] } })

/-- In a module that runs, on a tile that runs. A MATMUL that reaches the head of its array queues with every plane check passed begins, its plane in each array that array's active one; one with a plane that is not VALID in any of its arrays is a descriptor error, cause 0x07, whatever its formats. A SWAPW that has begun exchanges the planes of its array and leaves the queue. A GANG first in all four queues sets the gang mode, and with WARM starts a ramp. A LOADW whose reads are served writes the inactive plane, then VALID, seven ac after its last row, or six after its scales, and one more for BF16, once no MATMUL that has begun uses that plane. Nothing else of the module changes but trace records. -/
def Obligations.ArrayQueueHeadsBeginAndTakeEffect : Prop :=
  ∀ (s : State) (c : Chip) (t : TileId) (a : ArrayId) (x : Tile) (m : MCmd), s.live = true → s.chip = c → c.tile t.toNat = x → x.st = .running →
  (queueNext c.nowAc [] (x.arr a.toNat).queue = some m → m.cmd.op = 0x10 →
    (∀ b ∈ m.together a.toNat, (queueNext c.nowAc [] (x.arr b).queue).map (fun y => y.cmd.idx) = some m.cmd.idx ∧ x.planeCause m b = none) →
    exec (.arrayQueueHead t a) s = .next (after s (c.updTile t.toNat (fun x => (m.together a.toNat).foldl (fun x b => x.updArr b (fun y =>
      { y with queue := y.queue.map (fun z => if z.cmd.idx = m.cmd.idx then
          { z with begun := true, plane := y.active } else z) })) x)))) ∧
  (queueNext c.nowAc [] (x.arr a.toNat).queue = some m → m.cmd.op = 0x10 →
    (∀ b ∈ m.together a.toNat, (queueNext c.nowAc [] (x.arr b).queue).map (fun y => y.cmd.idx) = some m.cmd.idx) →
    (∃ b ∈ m.together a.toNat, ((x.arr b).plane (x.arr b).active).valid = false) →
    exec (.arrayQueueHead t a) s = .next (after s (c.tileViolation t.toNat 0x07 m.cmd.id m.cmd.opB 0))) ∧
  ((x.arr a.toNat).queue.find? (fun y => y.cmd.op = 0x12) = some m → m.begun = true → ∀ d e : Chip,
    c.traceTile 1 t.toNat 0x01 a.toNat false (m.cmd.w 0) (m.cmd.w 1) 0 0 = d → d.traceTile 1 t.toNat 0x02 a.toNat false (m.cmd.w 0) (m.cmd.w 1) 0 0 = e →
    exec (.swapwEffect t a) s = .next (after s (e.updTile t.toNat (fun x =>
      (x.dropMCmd [a.toNat] m.cmd.idx).updArr a.toNat (fun y => { y with active := !y.active }))))) ∧
  (x.a0.queue.head? = some m → m.cmd.op = 0x13 → (∀ qs ∈ x.queues, qs.head?.map (fun y => y.cmd.idx) = some m.cmd.idx) → bit (m.cmd.w 2) 8 = true →
    exec (.gangEffect t) s = .next (after s (c.updTile t.toNat (fun x =>
      ({ x.dropMCmd [0, 1, 2, 3] m.cmd.idx with gang := BitVec.ofNat 3 (fld (m.cmd.w 2) 2 0) } : Tile).startRamp c.nowAc)))) ∧
  (x.a0.queue.head? = some m → m.cmd.op = 0x13 → (∀ qs ∈ x.queues, qs.head?.map (fun y => y.cmd.idx) = some m.cmd.idx) → bit (m.cmd.w 2) 8 = false →
    exec (.gangEffect t) s = .next (after s (c.updTile t.toNat (fun x =>
      { x.dropMCmd [0, 1, 2, 3] m.cmd.idx with gang := BitVec.ofNat 3 (fld (m.cmd.w 2) 2 0) })))) ∧
  ((x.arr a.toNat).queue.find? (fun y => y.cmd.op = 0x11) = some m → m.cmd.lwReads ≤ m.fed →
    m.lastAc + (if m.cmd.lwMode = 0 then 7 else 6) + (if m.cmd.lwFmt = 6 then 1 else 0) ≤ c.nowAc →
    (x.arr a.toNat).queue.any (fun y => y.cmd.op == 0x10 && y.begun && y.plane != (x.arr a.toNat).active) = false → ∀ d : Chip,
    c.traceTile 1 t.toNat 0x02 a.toNat (planeOf m.cmd m.feeds).poison (m.cmd.w 0) (m.cmd.w 1) 0 0 = d →
    exec (.loadwPlaneValid t a) s = .next (after s (d.updTile t.toNat (fun x =>
      (x.dropMCmd [a.toNat] m.cmd.idx).updArr a.toNat (fun y => y.setPlane (!y.active) (planeOf m.cmd m.feeds))))))

/-- In a module that runs, for the oldest vector of the MATMUL in an array's queue whose latency of R129 is over, whose planes hold its weight format and after which more vectors follow: each output row gets its 16 words, poisoned by a poisoned feed, a poisoned plane of an array that feeds it or a failed check of its own, the arrays that make no check of it are counted, and the command has one vector less; every output whose check failed is then counted, shown and raised at its array. Before its latency is over nothing changes. -/
def Obligations.OutputRowsAreWrittenAndChecked : Prop :=
  ∀ (s : State) (c : Chip) (t : TileId) (a : ArrayId) (flt : ArrayFault) (x : Tile) (m : MCmd) (f : Feed) (rest : List Feed) (v : VecOut) (row : Nat)
    (outs : List (Nat × List W32 × Bool)), s.live = true → s.chip = c → c.tile t.toNat = x →
  (x.arr a.toNat).queue.find? (fun y => y.cmd.op = 0x10 && !y.feeds.isEmpty) = some m → m.feeds = f :: rest →
  flt ≠ .duplicate → vectorOut x m a.toNat f flt = v → (∀ o ∈ v.bufs, ∀ b ∈ o.as, (x.planeFor m b).fmt.toNat = m.cmd.mmWfmt) →
  m.done + 1 < m.cmd.mmLen → row = fld (m.cmd.w 3) 54 48 + m.done →
  outs = v.bufs.map (fun o => (o.buf, (List.range 16).map (fun j =>
    accumWord (m.cmd.mmWfmt == 5) (bit (m.cmd.w 3) 56) (((x.arr o.buf).row row).getD j 0) (o.vals.getD j (fzero false))),
    f.poison || o.as.any (fun b => (x.planeFor m b).poison) || o.bad.isSome)) → ∀ d : Chip,
  c.updTile t.toNat (fun y => (fun (z : Tile) => { z with cnt := { z.cnt with checkSkip := addN z.cnt.checkSkip v.skips } })
    ((y.writeRows m outs).updMCmd (m.together a.toNat) m.cmd.idx (fun z => { z with feeds := rest, done := z.done + 1 }))) = d →
  (f.at_ + modeLatency m.mode.toNat ≤ c.nowAc → (∀ o ∈ v.bufs, o.bad = none) → exec (.accumRowWrite t a flt) s = .next (after s d)) ∧
  (f.at_ + modeLatency m.mode.toNat ≤ c.nowAc →
    exec (.accumRowWrite t a flt) s = .next (after s ((v.bufs.filterMap (fun o => o.bad)).foldl (fun c b => c.arrayCheckFailed t.toNat b m false) d))) ∧
  (c.nowAc < f.at_ + modeLatency m.mode.toNat → exec (.accumRowWrite t a flt) s = .next s)

/-- In a module that runs: RAMP_UP_DONE makes a ramping tile warm 4 ac per eighth still missing after the ramp began (32 ac from idle) and not before; WARM_IDLE_TIMEOUT makes a warm tile ramp down after 64 ac without a vector or bubble while no array queue holds a MATMUL whose vectors have not all entered; RAMP_DOWN_DONE makes it idle when level 0 is reached. A MATMUL, LOADW or SWAPW issued to an idle tile starts the ramp at level 0. -/
def Obligations.CurrentControlRampsInOrder : Prop :=
  ∀ (s : State) (c : Chip) (t : TileId) (x : Tile), s.live = true → s.chip = c → c.tile t.toNat = x →
  (x.warm = .rampUp → x.warmAc + (8 - x.level.toNat) * 4 ≤ c.nowAc →
    exec (.rampUpDone t) s = .next (after s (c.updTile t.toNat (fun x => { x with warm := .warm, level := 8, lastUse := c.nowAc - 1 })))) ∧
  (x.warm = .rampUp → c.nowAc < x.warmAc + (8 - x.level.toNat) * 4 → exec (.rampUpDone t) s = .next s) ∧
  (x.warm = .warm → x.lastUse + 65 ≤ c.nowAc → (∀ qs ∈ x.queues, ∀ m ∈ qs, m.cmd.op = 0x10 → m.entered c.nowAc = true) →
    exec (.warmIdleTimeout t) s = .next (after s (c.updTile t.toNat (fun x => { x with warm := .rampDown, warmAc := c.nowAc })))) ∧
  (x.warm = .rampDown → x.warmAc + 28 ≤ c.nowAc →
    exec (.rampDownDone t) s = .next (after s (c.updTile t.toNat (fun x => { x with warm := .idle, level := 0 })))) ∧
  (∀ ac : Nat, x.warm = .idle → x.startRamp ac = { x with warm := .rampUp, level := 0, warmAc := ac })

/-- For each of the 18 vector rows, in a module that runs, with that opcode at the head of a tile's queue, due, with every check passed and nothing to wait for: the command leaves the queue, the result of its row is taken from the operands at issue, and the vector unit is taken until the issue plus 12 ac plus the cycles of its row; a granule written in scratchpad takes a scoreboard entry. Before that time VECTOR_COMPLETE changes nothing; from it the outputs are written, the entry is freed and the unit is free. The other codes from 0x20 to 0x3F are descriptor errors, cause 0x01. -/
def Obligations.VectorCommandsTakeTheUnitForTheirCycles : Prop :=
  (∀ (s : State) (c d e : Chip) (t : TileId) (q : QCmd), s.live = true → s.chip = c → c.issued t.toNat q = d →
    ∀ p ∈ ([
      (.vecAdd t, 0x20, vecZip fadd, q.n64),
      (.vecSub t, 0x21, vecZip fsub, q.n64),
      (.vecMul t, 0x22, vecZip fmul, q.n64),
      (.vecFma t, 0x23, vecFmaOut, q.n64),
      (.vecMax t, 0x24, vecZip fmax, q.n64),
      (.vecMin t, 0x25, vecZip fmin, q.n64),
      (.vecCvt t, 0x26, vecMap id, q.n64),
      (.vecExp2 t, 0x28, vecMap exp2, 2 * q.n64),
      (.vecLog2 t, 0x29, vecMap log2, 2 * q.n64),
      (.vecRcp t, 0x2A, vecMap rcp, 2 * q.n64),
      (.vecRsqrt t, 0x2B, vecMap rsqrt, 2 * q.n64),
      (.vecRsum t, 0x30, vecReduce rsum, q.n64 + 6),
      (.vecRmax t, 0x31, vecReduce rmax, q.n64 + 6),
      (.vecSmstep t, 0x32, vecSmstepOut, 3 * q.n64 + 8),
      (.vecNormstat t, 0x33, vecNormstatOut, if q.vAux = 0 then q.n64 + 10 else 2 * q.n64 + 18),
      (.vecQuant t, 0x34, vecQuantOut, 2 * q.n64 + 6),
      (.vecDequant t, 0x35, vecDequantOut, q.n64),
      (.vecTopk t, 0x36, vecTopkOut, q.n64 + q.vAux + 6)] :
        List (Instr × Nat × (Chip → Nat → QCmd → Chip × List VOut) × Nat)),
      Issues (vecIssue p.2.2.1) (· == p.2.1) t.toNat c q → ∀ r : Chip × List VOut, r = p.2.2.1 d t.toNat q →
      r.1.traceTile 2 t.toNat 0x01 0 false (q.w 0) (q.w 1) 0 0 = e →
      exec p.1 s = .next (after s (e.updTile t.toNat (fun x =>
        if (x.vWrites q).isEmpty then { x with vec := some ⟨q, e.nowAc + 12 + p.2.2.2, r.2, vecSlots x t.toNat e.nowAc q⟩ }
        else { x.sbTake (x.vWrites q) q.idx with
          vec := some ⟨q, e.nowAc + 12 + p.2.2.2, r.2, vecSlots (x.sbTake (x.vWrites q) q.idx) t.toNat e.nowAc q⟩ })))) ∧
  (∀ (s : State) (c : Chip) (t : TileId) (v : VecOp), s.live = true → s.chip = c → (c.tile t.toNat).vec = some v →
    (c.nowAc < v.dueAc → exec (.vectorComplete t) s = .next s) ∧
    (v.dueAc ≤ c.nowAc → exec (.vectorComplete t) s = .next (after s
      (((v.outs.foldl (fun c o => c.writeOut t.toNat v.cmd ((s.chip.runs.head?.map (fun r => r.seed)).getD 0) o) c).traceTile 2 t.toNat 0x02 0
        (v.outs.any (fun o => o.poison.any id)) (v.cmd.w 0) (v.cmd.w 1) 0 0).updTile t.toNat (fun x => { x.sbFree v.cmd.idx with vec := none }))))) ∧
  (∀ (s : State) (t : TileId) (q : QCmd), s.live = true → s.chip.readyHead t.toNat = some q → q.poisoned = false →
    q.op ∈ [0x27, 0x2C, 0x2D, 0x2E, 0x2F, 0x37, 0x38, 0x39, 0x3A, 0x3B, 0x3C, 0x3D, 0x3E, 0x3F] →
    exec (.vecAdd t) s = .next (after s (s.chip.tileViolation t.toNat 0x01 q.id q.opB 0)))

/-- In a module that runs, for DMA, DMA2D or FERRY_PULL at the head of a tile's queue, due, with every check passed and nothing to wait for: the command leaves the queue, registers its reads of berths and the scratchpad granules it writes. With OPEN on a stream that holds nothing it opens the stream, registers its receive space and becomes the active transfer, ready 16 ac later where a space is to be compared and at once where none is; behind an active transfer it grows that one where both may merge, which is counted, and else waits. -/
def Obligations.TransfersIssueIntoTheirStreams : Prop :=
  ∀ (s : State) (c d e g : Chip) (t : TileId) (q : QCmd) (k : Nat) (x : Xfer) (y : Stream), s.live = true → s.chip = c → c.issued t.toNat q = d →
  q.streamNo = k → d.newXfer q = x → d.registerReads t.toNat q = g →
  g.updTile t.toNat (fun z => if g.writesOwn t.toNat q then z.sbTake (g.xferWrites t.toNat q) q.idx else z) = e → (e.tile t.toNat).stream k = y →
  ∀ p ∈ ([(.dma t, 0x40), (.dma2d t, 0x41), (.ferryPull t, 0x42)] : List (Instr × Nat)), Issues xferIssue (· == p.2) t.toNat c q →
  (q.flag 48 = true → y.active = none → y.waiting = none →
    exec p.1 s = .next (after s ((e.updTile t.toNat (fun z => z.setStream k { y with opened := true, dst := BitVec.ofNat 6 q.dstH, accum := q.flag 51, space := e.openSpace t.toNat q, checking := (e.openSpace t.toNat q).isSome, closing := false, active := some { x with readyAc := if (e.openSpace t.toNat q).isSome then e.nowAc + 16 else e.nowAc } })).traceXfer t.toNat k x))) ∧
  (q.flag 48 = false → ∀ a, y.active = some a → y.waiting = none → mergeOk a q x.deadline (e.unitCount t.toNat a) = true →
    exec p.1 s = .next (after s (e.updTile t.toNat (fun z => ({ z with cnt := { z.cnt with merge := z.cnt.merge + 1 } } : Tile).setStream k
      { y with active := some { a with parts := a.parts ++ x.parts, length := a.length + x.length, close := x.close } })))) ∧
  (q.flag 48 = false → ∀ a, y.active = some a → y.waiting = none → mergeOk a q x.deadline (e.unitCount t.toNat a) = false →
    exec p.1 s = .next (after s (e.updTile t.toNat (fun z => z.setStream k { y with waiting := some x }))))

/-- In a module that runs, on a tile that runs: when the comparison is due, a receive space that clashes with a live reservation freezes the tile with cause 0x0D, and any other lets the transfer request. A service slot of a channel, outside a refresh window and not within 3 ac of the last burst, serves a check burst that is owed first, and else grants one burst of the request that the arbiter picks: a fetch may then be taken, and a transfer's unit moves with its last burst; a burst that a read-merge line serves takes no slot's time. A tray read's data of the unit's length lands as the next unit, or waits in hand for its channel; the completion that confirms a posted transfer ends it. A transfer to this module that has moved every unit, without deadline or counts, completes: its scoreboard entries and berth reads end and its stream goes on to the next. -/
def Obligations.TransfersAreCheckedServedAndCompleted : Prop :=
  (∀ (s : State) (c : Chip) (t : TileId) (k : StreamId) (y : Stream) (x : Xfer) (sp : Nat × Nat), s.live = true → s.chip = c →
    (c.tile t.toNat).stream k.toNat = y → y.active = some x → y.space = some sp → y.checking = true → (c.tile t.toNat).st = .running →
    (c.nowAc < x.readyAc → exec (.reservationCheckDone t k) s = .next s) ∧
    (x.readyAc ≤ c.nowAc → c.spaceClash t.toNat k.toNat sp.1 sp.2 y.accum x.readyAc = true →
      exec (.reservationCheckDone t k) s = .next (after s (c.tileViolation t.toNat 0x0D x.cmd.id x.cmd.opB sp.1))) ∧
    (x.readyAc ≤ c.nowAc → c.spaceClash t.toNat k.toNat sp.1 sp.2 y.accum x.readyAc = false →
      exec (.reservationCheckDone t k) s = .next (after s
        (c.updTile t.toNat (fun z => z.setStream k.toNat { y with checking := false }))))) ∧
  (∀ (s : State) (c : Chip) (ch : ChanId), s.live = true → s.chip = c →
    ((c.shut ch.toNat = true ∨ c.tide.acs.toNat < (c.chan ch.toNat).slotAc) → exec (.channelServiceSlot ch) s = .next s) ∧
    (c.shut ch.toNat = false → (c.chan ch.toNat).slotAc ≤ c.tide.acs.toNat →
      (0 < (c.chan ch.toNat).owed → exec (.channelServiceSlot ch) s = .next (after s
        (c.updChan ch.toNat (fun x => { x with owed := x.owed - 1, slotAc := c.tide.acs.toNat + 3 })))) ∧
      ((c.chan ch.toNat).owed = 0 → ∀ n, arbitrate (c.chanReqs ch.toNat) (c.chan ch.toNat).slots.toNat = (none, n) → exec (.channelServiceSlot ch) s = .next s) ∧
      ((c.chan ch.toNat).owed = 0 → ∀ (r : ChReq) (n : Nat) (free : Bool) (d : Chip), arbitrate (c.chanReqs ch.toNat) (c.chan ch.toNat).slots.toNat = (some r, n) →
        (c.chanBursts ch.toNat).any (fun b => b.req == r && b.read && c.noBurst b.gran) = free →
        c.updChan ch.toNat (fun x => { x with slots := BitVec.ofNat 4 n, slotAc := if free then x.slotAc else c.tide.acs.toNat + 3 }) = d →
        (∀ t, r.who = .fetch t → exec (.channelServiceSlot ch) s = .next (after s (d.updTile t (fun x => { x with fetchGot := true })))) ∧
        (∀ (t k : Nat) (x : Xfer), r.who = .xfer t k → ((d.tile t).stream k).active = some x →
          (x.got + 1 < (d.unitBursts t x x.moved).length →
            exec (.channelServiceSlot ch) s = .next (after s (d.updXfer t k x.cmd.idx (fun y => { y with got := y.got + 1 })))) ∧
          ((d.unitBursts t x x.moved).length ≤ x.got + 1 → exec (.channelServiceSlot ch) s = .next (after s (d.moveUnit t k x)))) ∧
        (r.who = .step → exec (.channelServiceSlot ch) s = .next (after s (d.updChan ch.toNat (fun x => { x with due := x.due - 1 }))))))) ∧
  (∀ (s : State) (c : Chip) (t : TileId) (k : StreamId) (x : Xfer) (data : List Byte) (ep : Bool), s.live = true → s.chip = c →
    ((c.tile t.toNat).stream k.toNat).active = some x →
    (∀ u, c.srcAt t.toNat x.cmd = .tray → x.moved < x.asked → x.buf = none → c.unitOf t.toNat x x.moved = u → data.length = u.2.2 →
      (c.dstChan t.toNat x.cmd = false → exec (.trayReadCompletion t k data ep) s = .next (after s
        (c.putUnit t.toNat k.toNat x x.moved u.2.1 u.2.2 (c.nowAc + hubAc t.toNat) [(data, ep)]))) ∧
      (c.dstChan t.toNat x.cmd = true → exec (.trayReadCompletion t k data ep) s = .next (after s
        (c.updXfer t.toNat k.toNat x.cmd.idx (fun y => { y with buf := some [(data, ep)] }))))) ∧
    (c.srcAt t.toNat x.cmd ≠ .tray → x.sentAll = true → x.cmd.route = 0 → (c.tile t.toNat).st = .running → exec (.trayReadCompletion t k data ep) s = .next (after s
      (transferComplete t.toNat k.toNat (c.updXfer t.toNat k.toNat x.cmd.idx (fun y => { y with acked := true })))))) ∧
  (∀ (s : State) (c d e : Chip) (t : TileId) (k : StreamId) (x : Xfer), s.live = true → s.chip = c →
    ((c.tile t.toNat).stream k.toNat).active = some x → ((c.tile t.toNat).stream k.toNat).checking = false → (c.tile t.toNat).st = .running →
    c.leaves t.toNat x.cmd = false → c.xferDone t.toNat x = true →
    x.deadline = none → x.cmd.dstSyncNo = 63 → x.cmd.doneSyncNo = 63 →
    c.traceTile 3 t.toNat 0x02 k.toNat false (x.cmd.w 0) (x.cmd.w 1) (BitVec.ofNat 64 x.length) 0 = d →
    (x.parts.foldl (fun c p => (c.updTile t.toNat (fun y => y.sbFree p.idx)).endRead (readKey t.toNat p.idx)) d).updTile t.toNat
      (fun y => y.setStream k.toNat ((y.stream k.toNat).next x (x.parts.foldl (fun c p => (c.updTile t.toNat (fun y => y.sbFree p.idx)).endRead
        (readKey t.toNat p.idx)) d).nowAc)) = e → ((e.tile t.toNat).stream k.toNat).active = none →
    exec (.transferComplete t k) s = .next (after s e))

/-- In a module that runs: a FERRY_PUSH that issues joins its strait's queue at its place by injection mark, and a berth source is a read registered against it. The first ferry not started, its mark passed in an aligned time base, no cut before it, its gate met by updates of earlier ac, its source complete and its VC able to take every flit, has its source read and starts as one transaction of VC-F; at its own tick without lateness, past it late. Before its mark nothing starts. The first push whose source may be read to its end is, once channels have granted every burst of the source and not before: without TEE, berth source and DONE_SYNC nothing but that changes, and a push read and sent leaves the queue. -/
def Obligations.FerriesQueueInjectAndReadTheirSource : Prop :=
  (∀ (s : State) (c d : Chip) (t : TileId) (q : QCmd), s.live = true → s.chip = c → c.issued t.toNat q = d → Issues pushIssue (· == 0x43) t.toNat c q →
    ∀ (p : Push) (e : Chip), p = { num := d.nextPush, tile := t.toNat, cmd := q, got := 0, have_ := false, read := false, started := false, sent := false, data := [], poison := [] } →
    ({ d with nextPush := d.nextPush + 1 } : Chip).setPushQ q.pushOn (pushInsert p (({ d with nextPush := d.nextPush + 1 } : Chip).pushQ q.pushOn)) = e →
    (q.srcSpace ≠ 2 → exec (.ferryPush t) s = .next (after s e)) ∧
    (q.srcSpace = 2 → exec (.ferryPush t) s = .next (after s (e.updBerth q.srcBerth (fun b => { b with reads := setAdd b.reads (pushKey d.nextPush) }))))) ∧
  (∀ (s : State) (c e : Chip) (st : Strait) (p p' : Push) (m : Nat), s.live = true → s.chip = c → (c.pushQ st).find? (fun p => !p.started) = some p →
    c.mark p.cmd.inject = m →
    (c.now < m → exec (.ferryInject st) s = .next s) ∧
    (c.run.isSome = true → m ≤ c.now → c.cutHolds m = false → c.timed = true → c.gateOpen p = true → c.pushReady p = true →
      (c.str st).mayStart = true → (c.str st).egrF = [] → flitsOf (32 + p.cmd.lenG * 32) ≤ (c.str st).credit.f → ∀ (r g : Chip),
      c.readPush st p = (r, p') → r.updPush st p.num (fun y => { y with started := true }) = g →
      g.sendVc st 0 ⟨⟨g.ferryBytes st p', p'.poison⟩, g.pushDdl p, .push p.num, 0, g.nowAc⟩ = e →
      (m = e.now → exec (.ferryInject st) s = .next (after s e)) ∧
      (m < e.now → exec (.ferryInject st) s = .next (after s (e.lateLaunch p.tile p.cmd.id (e.now - m)))))) ∧
  (∀ (s : State) (c d : Chip) (st : Strait) (p p' : Push), s.live = true → s.chip = c → (c.pushQ st).find? (fun p => !p.read && c.pushReady p) = some p →
    c.run.isSome = true →
    (p.got < (c.pushBursts p).length → exec (.ferrySourceReadDone st) s = .next s) ∧
    ((c.pushBursts p).length ≤ p.got → p.cmd.tee = false → p.cmd.srcSpace ≠ 2 → p.cmd.doneSyncNo = 63 → c.readPush st p = (d, p') →
      exec (.ferrySourceReadDone st) s = .next (after s ((d.updPush st p.num (fun y => { y with read := true })).dropPushes st))))

/-- In a module that runs. On a strait that is in ALIGN, IDENTIFY or UP a slot always sends one flit: after 1,984 flits without one, and with the slot counter at 0, a null flit; else the next flit to repeat; else, with 64 flits kept for replay, a null flit; else, with the slot counter at 0, the VC-M transaction that may be sent; else in UP the next RWRITE is formed where one may be, and the head with the earliest deadline (of equal deadlines the lowest tile's), or after 15 such slots the oldest without one, has its next flit sent; with none, a null flit. A strait in another state sends nothing. -/
def Obligations.EgressSendsRepeatsNullsThenTheBestHead : Prop :=
  ∀ (s : State) (c : Chip) (st : Strait) (frac : BitVec 9) (x : Str), s.live = true → s.chip = c → c.str st = x →
  (x.train ≠ .align → x.train ≠ .identify → x.train ≠ .up → exec (.egressServiceSlot st frac) s = .next s) ∧
  ((x.train = .align ∨ x.train = .identify ∨ x.train = .up) →
    (x.slotNo = 0 → 1984 ≤ x.nullNo → exec (.egressServiceSlot st frac) s = .next (after s ((c.emitNull st).updStr st (fun x => { x with slotNo := 63 })))) ∧
    ((x.slotNo ≠ 0 ∨ x.nullNo < 1984) →
      (∀ f rest, x.resend = f :: rest → exec (.egressServiceSlot st frac) s = .next (after s
        (((c.updStr st (fun x => { x with resend := rest })).emitKept st f).updStr st Str.slot))) ∧
      (x.resend = [] → 64 ≤ x.replay.length → exec (.egressServiceSlot st frac) s = .next (after s
        ((c.emitNull st).updStr st (fun x => { x with slotNo := x.slotNo - 1 })))) ∧
      (x.resend = [] → x.replay.length < 64 → x.slotNo = 0 → ∀ t, x.readyM = some t → exec (.egressServiceSlot st frac) s = .next (after s
        ((c.sendFlit st 3 t frac).updStr st (fun x => { x.slot with slotNo := 63 })))) ∧
      (x.resend = [] → x.replay.length < 64 → (x.slotNo ≠ 0 ∨ x.readyM = none) →
        (x.train ≠ .up → exec (.egressServiceSlot st frac) s = .next (after s ((c.emitNull st).updStr st (fun x => { x with slotNo := x.slotNo - 1 })))) ∧
        (x.train = .up → ∀ d, c.formRwrite st = d →
          (∀ h n, (d.str st).pickVc (d.txTile st) = (some h, n) → exec (.egressServiceSlot st frac) s = .next (after s
            ((d.sendFlit st h.1 h.2 frac).updStr st (fun x => { x.slot with schedRun := n })))) ∧
          (∀ n, (d.str st).pickVc (d.txTile st) = (none, n) → exec (.egressServiceSlot st frac) s = .next (after s
            ((d.emitNull st).updStr st (fun x => { x with slotNo := x.slotNo - 1 }))))))))

/-- In a module that runs: an ATTN_Q that issues joins its tile's four and the dispatcher's requests. The first request that can be admitted has its query and list read; an entry that breaks its format's rules or, computed here, a page outside the regions mapped is a descriptor error, and else every channel of its list gets its entries with the state of a head before its first block. An engine whose lanes have worked for 128 ac a head and 16 tokens on the block it has read folds that block into each head, and not before. A sub-request with nothing left to read or compute gives, 12 ac for each later, one record a head, poisoned where the values read or that head's query were, and leaves its engine, which takes the next. An ATTN_Q whose last record has landed completes; without DONE_SYNC and deadline nothing else changes. -/
def Obligations.AttentionRequestsRunToTheirRecords : Prop :=
  (∀ (s : State) (c d : Chip) (t : TileId) (q : QCmd), s.live = true → s.chip = c → c.issued t.toNat q = d → Issues attnIssue (· == 0x50) t.toNat c q →
    ∀ (m : Nat) (ddl : Option Nat), d.mark q.launch = m → (if q.ddl = 0 then none else some (m + q.ddl)) = ddl → ∀ e : Chip,
    d.updTile t.toNat (fun x => { x.sbTake ((x.hnd q.recH).grans q.recOff (attDstBytes (q.w 4))) q.idx with attns := x.attns ++ [⟨q, d.disp.nextNum, m, ddl, none, 0⟩] }) = e →
    exec (.attnQ t) s = .next (after s { e with disp := { e.disp with nextNum := d.disp.nextNum + 1, reqs := e.disp.reqs ++ [{ num := d.disp.nextNum, tile := t.toNat, cmdId := q.id, cmd := some q, from_ := none, slot := 0, params := q.w 4, dstSync := q.dstSyncNo, dst := ((d.tile t.toNat).hnd q.recH).addr t.toNat q.recOff, deadline := ddl, born := d.nowAc, admitted := false, query := [], qPoison := [], chans := [], recs := [], landed := 0 }] } })) ∧
  (∀ (s : State) (c : Chip), s.live = true → s.chip = c → firstReq (c.disp.reqs.filter c.canAdmit) = none → exec .attnAdmit s = .next s) ∧
  (∀ (s : State) (c d : Chip) (r r' : AttnReq) (q : QCmd) (qs ls : List (Nat × Nat)) (a b : Chip × Pieces) (es : List W64), s.live = true → s.chip = c →
    firstReq (c.disp.reqs.filter c.canAdmit) = some r → r.cmd = some q →
    ((c.tile r.tile).hnd q.qH).ranges r.tile q.qOff (attHeads r.params * 512) = qs → ((c.tile r.tile).hnd q.listH).ranges r.tile q.listOff (attPages r.params * 8) = ls →
    c.readRanges (tileReader true) qs = a → a.1.readRanges (tileReader true) ls = b → b.1.takePort 2 (qs ++ ls) = d → bytesWords (attPages r.params) b.2.bytes = es →
    r' = { r with query := a.2.bytes, qPoison := (List.range (attHeads r.params * 8)).filter (fun g => a.2.bad (64 * g) 64) } →
      ((∃ e ∈ es, entBad (attFmt r.params) e = true) → exec .attnAdmit s = .next (after s ((d.dropReq r.num).tileViolation r.tile 0x0A q.id q.opB 0))) ∧
      ((∀ e ∈ es, entBad (attFmt r.params) e = false) → r'.away = none → (∃ e ∈ es, d.pageOk e = false) →
        exec .attnAdmit s = .next (after s ((d.dropReq r.num).tileViolation r.tile 0x0A q.id q.opB 0))) ∧
      ((∀ e ∈ es, entBad (attFmt r.params) e = false) → r'.away = none → (∀ e ∈ es, d.pageOk e = true) →
        exec .attnAdmit s = .next (after s ((d.splitReq r' es).setWant r' (listChans es).length))) ∧
      ((∀ e ∈ es, entBad (attFmt r.params) e = false) → ∀ st, r'.away = some st →
        exec .attnAdmit s = .next (after s ((d.sendReq st r' b.2.bytes).setWant r' (listChans es).length)))) ∧
  (∀ (s : State) (c : Chip) (ch : ChanId) (x : SubReq) (r : AttnReq), s.live = true → s.chip = c → c.engineHead ch.toNat = some (x, r) →
    (x.blocks = [] → exec (.engineBlock ch) s = .next s) ∧
    (∀ (b : KvBlock) (rest : List KvBlock), x.blocks = b :: rest →
      (c.tide.acs.toNat < (c.engine ch.toNat).since + cdiv b.tokens 16 * 128 * attHeads r.params → exec (.engineBlock ch) s = .next s) ∧
      (∀ hs hs' : List Head, (c.engine ch.toNat).since + cdiv b.tokens 16 * 128 * attHeads r.params ≤ c.tide.acs.toNat → x.started = true →
        subBlock r.params r.query b.k b.v 0 (min 16 b.tokens) x.heads = hs →
        (if 16 < b.tokens then subBlock r.params r.query b.k b.v 16 (b.tokens - 16) hs else hs) = hs' →
        exec (.engineBlock ch) s = .next (after s (c.updEngine ch.toNat (fun g => { g.setHead { x with heads := hs', tokens := x.tokens + b.tokens, poison := x.poison || b.bad, started := true, blocks := rest } with blockCnt := addN g.blockCnt (cdiv b.tokens 16), busyCnt := addN g.busyCnt (cdiv b.tokens 16 * 128 * attHeads r.params), since := c.tide.acs.toNat }))))) ∧
    ((x.entries ≠ [] ∨ x.blocks ≠ [] ∨ c.tide.acs.toNat < (c.engine ch.toNat).since + 12 * x.heads.length) → exec (.engineRecord ch) s = .next s) ∧
    (x.entries = [] → x.blocks = [] → (c.engine ch.toNat).since + 12 * x.heads.length ≤ c.tide.acs.toNat → ∀ recs : List Rec,
      recs = x.heads.zipIdx.map (fun h => (⟨ch.toNat, h.2, h.1, x.tokens, x.poison || r.qPoison.any (fun k => k / 8 == h.2)⟩ : Rec)) →
      exec (.engineRecord ch) s = .next (after s (((c.updEngine ch.toNat (fun g => { (({ g with subs := g.subs.drop 1 } : Engine).take 8) with subCnt := g.subCnt + 1, since := c.tide.acs.toNat + 40, poisonCnt := addN g.poisonCnt (recs.filter (fun e => e.poison)).length })).giveRecs r recs).traceCmd
          4 ch.toNat 2 0 r.cmdId.toNat 0 0 (BitVec.ofNat 64 (recBytes * recs.length)) 0)))) ∧
  (∀ (s : State) (c : Chip) (t : TileId) (a : AttnCmd), s.live = true → s.chip = c → (c.tile t.toNat).attns.find? (fun a => a.want == some a.recs) = some a →
    (c.tile t.toNat).st = .running → a.deadline = none → a.cmd.doneSyncNo = 63 → exec (.attnQComplete t) s = .next (after s
      (c.updTile t.toNat (fun x => { (x.sbFree a.cmd.idx) with attns := x.attns.filter (fun b => b.num != a.num) }))))

/-- In a module that runs: a MARK that issues is traced, and in a running capture of its tile gives its record. A DUMP of KIND INPUT adds the bytes of its range to its context's stream and advances DONE_SYNC; one of KIND SEAL takes the stream and its own range, empties the context, takes a scoreboard entry for a record in scratchpad and stays in flight; each row leaves a head of the other KIND alone. When the record of the oldest SEAL lands unpoisoned it is written, counted and its command ends. A tile with work past its stall limit freezes with cause 0x0C and raises the event. -/
def Obligations.MarksDumpsAndSealsRecordWhatTheySay : Prop :=
  (∀ (s : State) (c d : Chip) (t : TileId) (q : QCmd), s.live = true → s.chip = c → c.issued t.toNat q = d →
    (Issues markIssue (· == 0x58) t.toNat c q → ((d.traceIssue t.toNat q).pan.live && (d.traceIssue t.toNat q).pan.selTile t.toNat) = false →
      exec (.mark t) s = .next (after s (d.traceIssue t.toNat q))) ∧
    (Issues markIssue (· == 0x58) t.toNat c q → ((d.traceIssue t.toNat q).pan.live && (d.traceIssue t.toNat q).pan.selTile t.toNat) = true → ∀ r,
      (d.traceIssue t.toNat q).traceRaw 0 t.toNat (traceRec (d.traceIssue t.toNat q) 3 0 false q.id.toNat (fld (q.w 1) 31 16) (fld (q.w 1) 15 0) 0 t.toNat
        (BitVec.ofNat 64 (fld (q.w 2) 31 0)) (BitVec.ofNat 64 q.idx)) = r → exec (.mark t) s = .next (after s (r.1.panLoss r.2 0 t.toNat))) ∧
    (Issues dumpIssue (· == 0x59) t.toNat c q → ∀ (e : Chip) (rs : List (Nat × Nat)), d.traceIssue t.toNat q = e → (e.hnd t.toNat q.srcH).ranges t.toNat q.srcOff q.dumpLen = rs →
      (∀ p ∈ rs, e.reachable p.1 p.2 = true) → ∀ (r : Chip × List Byte × Bool) (f : Chip) (z : SealCtx), e.fetchAll sealReader rs = r → r.1.takePort 2 rs = f →
      (f.tile t.toNat).seal q.dumpCtx = z →
      (q.dumpKind = 0 → exec (.dumpSeal t) s = .next s ∧ exec (.dumpInput t) s = .next (after s ((f.updTile t.toNat (fun y => y.setSeal q.dumpCtx
        ⟨z.bytes ++ r.2.1, z.poison || r.2.2⟩)).doneSync t.toNat q.id q.opB q.dumpDone q.dumpLen 1))) ∧
      (q.dumpKind = 1 → exec (.dumpInput t) s = .next s ∧ exec (.dumpSeal t) s = .next (after s (f.updTile t.toNat (fun y =>
        ((if (f.recGrans t.toNat q).isEmpty then y else y.sbTake (f.recGrans t.toNat q) q.idx).setSeal q.dumpCtx SealCtx.init).addDump
          ⟨q, (f.run.map (fun x => x.stepOf q.launch)).getD 0, z.bytes, r.2.1, z.poison || r.2.2⟩)))))) ∧
  (∀ (s : State) (c e : Chip) (t : TileId) (x : DumpCmd) (xs : List DumpCmd) (h : Hnd), s.live = true → s.chip = c → (c.tile t.toNat).dumps = x :: xs →
    (c.tile t.toNat).st = .running → c.hnd t.toNat x.cmd.sealH = h → (∀ p ∈ h.ranges t.toNat x.cmd.sealOff 576, c.reachable p.1 p.2 = true) → x.poison = false →
    (((({ c with fresh := ⟨c.fresh.n + 1⟩ } : Chip).writePieces (h.pieces t.toNat x.cmd.sealOff (c.sealRecord t.toNat x) (fun _ _ => false))).takePort 2
      (h.ranges t.toNat x.cmd.sealOff 576)).updTile t.toNat
      (fun y => { (y.sbFree x.cmd.idx) with dumps := xs })) = e →
    exec (.sealRecordDone t) s = .next (after s (({ e with pan := { e.pan with sealCnt := e.pan.sealCnt + 1 } } : Chip).doneSync t.toNat x.cmd.id x.cmd.opB x.cmd.dumpDone
      x.cmd.dumpLen 1))) ∧
  (∀ (s : State) (c : Chip) (t : TileId), s.live = true → s.chip = c → (c.tile t.toNat).st = .running →
    (c.stallOf t.toNat = none → exec (.stallLimit t) s = .next s) ∧
    (∀ (k from_ : Nat) (q : QCmd), c.stallOf t.toNat = some (k, q, from_) → exec (.stallLimit t) s = .next (after s
      (((if k ≤ 3 then c.updTile t.toNat (fun x => { x with stall := true }) else c).freezeTile t.toNat 0x0C q.id q.opB false).evTile t.toNat 0x0204
        (mkWord [(48, 16, q.id.toNat), (40, 8, k)]) (BitVec.ofNat 64 from_)))))

/-- In a module that runs: a ready watch whose command has nothing left in flight at its running tile fires once and holds issue there. When its copy is done without a bus error the header and the bytes go to the host, issue resumes and WATCH_DONE is raised with ST_OK, or with ST_POISONED where a granule was poisoned (the model's reading, log 21); with a bus error nothing is copied and the status is ST_BOUNDS. While the Keeper runs, the next harvest asked for is stored with its sections in the slot that R516 gives, or counted as lost where none may be used, and HARVEST_READY names the slot or 31; a tile's harvest no longer pends. -/
def Obligations.WatchesFireAndHarvestsAreStored : Prop :=
  (∀ (s : State) (c d : Chip) (t : TileId) (w : Watch), s.live = true → s.chip = c → c.watches.find? (fun w => w.tile = t.toNat) = some w →
    (w.ready = true → w.copying = false → c.runsOn t.toNat = true → (c.tile t.toNat).st = .running →
      (c.tile t.toNat).cmdDone w.target ((c.pushes.e ++ c.pushes.w).filter (fun p => p.tile = t.toNat)) = true →
      exec (.watchFire t) s = .next (after s ((c.updWatch t.toNat (fun w => { w with ready := false, copying := true, fires := w.fires + 1 })).updTile t.toNat
        (fun x => { x with watchHold := true })))) ∧
    (w.ready = false → exec (.watchFire t) s = .next s) ∧
    (w.copying = true → ∀ (r : Chip × List Byte × Bool) (rs : List (Nat × Nat)), (c.hnd t.toNat w.handle).ranges t.toNat w.off w.len = rs → c.fetchAll otherReader rs = r →
      (∀ e : Chip, (r.1.takePort 2 rs).hostWrite w.ref.toNat (wordsBytes [BitVec.ofNat 64 t.toNat, w.layer.setWidth 64, w.oper.setWidth 64, BitVec.ofNat 64 w.step, c.tide.count,
          BitVec.ofNat 64 w.len, BitVec.ofNat 64 w.fires, BitVec.ofNat 64 (b2n r.2.2)] ++ r.2.1) = d →
        (d.updWatch t.toNat (fun w => { w with copying := false })).updTile t.toNat (fun x => { x with watchHold := false }) = e →
        exec (.watchCopyDone t false) s = .next (after s (e.raise w.ctx 0x0905 1 t.toNat
          (mkWord [(48, 16, (if r.2.2 then stPoisoned else stOk).toNat), (36, 12, t.toNat), (32, 4, w.fires)]) (BitVec.ofNat 64 w.len)))) ∧
      exec (.watchCopyDone t true) s = .next (after s (((c.updWatch t.toNat (fun w => { w with copying := false })).updTile t.toNat (fun x => { x with watchHold := false })).raise
        w.ctx 0x0905 1 t.toNat (mkWord [(48, 16, stBounds.toNat), (36, 12, t.toNat), (32, 4, w.fires)]) 0)))) ∧
  (∀ (s : State) (c e : Chip) (h : HarvReq) (hs : List HarvReq), s.live = true → s.chip = c → c.harvQ = h :: hs →
    (c.keeper.state ≠ .running → exec .harvestStored s = .next s) ∧
    (c.keeper.state = .running →
      (∀ n, c.harvestSlot = some n →
        { c with harvests := tblInsert c.harvests n ⟨h.kind, h.id, c.tide.count, c.harvestBytes h.kind h.id.toNat h.cause.toNat, false⟩, harvQ := hs } = e →
        exec .harvestStored s = .next (after s (e.evMod 0x0708 (mkWord [(61, 3, h.kind.toNat), (49, 12, h.id.toNat), (44, 5, n)]) c.tide.count))) ∧
      (c.harvestSlot = none → { c with pan := { c.pan with harvLost := c.pan.harvLost + 1 }, harvQ := hs } = e →
        exec .harvestStored s = .next (after s (e.evMod 0x0708 (mkWord [(61, 3, h.kind.toNat), (49, 12, h.id.toNat), (44, 5, 31)]) c.tide.count)))))

/-- In a module that runs: an armed capture that waits for a tide count which has come triggers; a live capture then accepts two records; one that STOP_ON_FULL stops keeps a LOSS record for an engine that lost some. In the tick in which the 48-bit stamp wraps, a running capture gets a WRAP record and the event is raised; in any other tick nothing changes. -/
def Obligations.PanRecordsTriggersAndWraps : Prop :=
  (∀ (s : State) (c d : Chip), s.live = true → s.chip = c →
    (c.pan.st = .armed → c.pan.mode = 2 → fld (c.pan.sel.getD 1 0) 63 60 = 4 → (c.pan.sel.getD 2 0).toNat ≤ c.now → (c.trigger c.tide.count).panAccept.panAccept = d →
      exec .panRecord s = .next (after s d)) ∧
    (c.pan.mode ≠ 2 → c.panAccept.panAccept = d →
      ((c.pan.live && d.pan.st == .stopped && d.pan.mode == 0) = false → exec .panRecord s = .next (after s d)) ∧
      (c.pan.live = true → d.pan.st = .stopped → d.pan.mode = 0 → ∀ b, d.pan.bufs.find? (fun b => decide (0 < b.lost)) = some b →
        exec .panRecord s = .next (after s (d.keepRec (lossRec d b)))))) ∧
  (∀ (s : State) (c : Chip), s.live = true → s.chip = c →
    (c.now % 2 ^ 48 ≠ 0 → exec .stampWrap s = .next s) ∧
    (c.now % 2 ^ 48 = 0 → 0 < c.now → c.pan.live = false → exec .stampWrap s = .next (after s (c.evMod 0x0901 (BitVec.ofNat 64 (c.now / 2 ^ 48)) 0))) ∧
    (c.now % 2 ^ 48 = 0 → 0 < c.now → c.pan.live = true → ∀ q, c.traceRaw 8 0 (traceRec c 5 0 false 0 0 0 8 0 (BitVec.ofNat 64 (c.now / 2 ^ 48)) 0) = q →
      exec .stampWrap s = .next (after s ((q.1.panLoss q.2 8 0).evMod 0x0901 (BitVec.ofNat 64 (c.now / 2 ^ 48)) 0))))

/-- In a module that runs: while refresh follows the grid, at a grid count every channel's window opens, with the refresh management asked for, and at another count nothing does. Off the grid a refresh that falls due in a channel that runs is postponed under load, up to eight, and issued with those postponed without. On the grid, outside a window, packages that ask for more than the grid gives, or for refresh management before the next window, get an added refresh, counted and raised. A poll of a channel that runs, a millisecond or more after its last, stores its code: at the normal rate nothing is asked for; twice the rate is raised once; a rate above is raised at every poll, with the memory shown hot; a request for refresh management is kept (how one reaches the controller is log 101). A poll before that does nothing. -/
def Obligations.RefreshGoesByTheGridOrByBank : Prop :=
  ∀ (s : State) (c d : Chip) (ch : ChanId) (x : Chan), s.live = true → s.chip = c → c.chan ch.toNat = x →
  (c.onGrid = true → c.gridNow % (c.gridP : Int) = 0 → exec .refreshWindow s = .next (after s ((List.range 64).foldl (fun c n => c.updChan n (fun x =>
    { x with inWindow := true, windowAt := c.now, maintDone := false, postponed := 0, rfm := none })) c))) ∧
  (c.onGrid = true → c.gridNow % (c.gridP : Int) ≠ 0 → exec .refreshWindow s = .next s) ∧
  (c.onGrid = false → x.st = 2 → ((c.chanReqs ch.toNat).any (fun r => r.ddl.isSome)) = true → exec (.perBankRefresh ch) s = .next (after s (c.updChan ch.toNat (fun x =>
    { x with postponed := min 8 (x.postponed + 1) })))) ∧
  (c.onGrid = false → x.st = 2 → ((c.chanReqs ch.toNat).any (fun r => r.ddl.isSome)) = false → exec (.perBankRefresh ch) s = .next (after s (c.updChan ch.toNat (fun x =>
    { x with postponed := 0, rfm := none })))) ∧
  (c.onGrid = true → c.shut ch.toNat = false → ((x.derate && !c.tide.grid) || x.hotAt.isSome || x.rfm == some true) = true →
    c.updChan ch.toNat (fun y => { y with rfm := if y.rfm = some true then none else y.rfm }) = d →
    exec (.addedRefresh ch) s = .next (after s (({ d with tide := { d.tide with urefCnt := d.tide.urefCnt + 1, refUnaligned := true } } : Chip).evMod 0x0105 (d.tide.urefCnt + 1)
      (BitVec.ofNat 64 ch.toNat)))) ∧
  ((x.derate && !c.tide.grid) = false → x.hotAt = none → x.rfm ≠ some true → exec (.addedRefresh ch) s = .next s) ∧
  (∀ code : BitVec 5, x.st = 2 → (∀ t, x.polledAt = some t → t + 117500 ≤ c.up) → c.updChan ch.toNat (fun y => { y with refRate := code, polledAt := some c.up }) = d →
    exec (.refreshRatePoll ch code .normal) s = .next (after s (d.updChan ch.toNat (fun y => { y with derate := false, hotAt := none }))) ∧
    (x.derate = true → exec (.refreshRatePoll ch code .twice) s = .next (after s (d.updChan ch.toNat (fun y => { y with derate := true, hotAt := none })))) ∧
    (x.derate = false → exec (.refreshRatePoll ch code .twice) s = .next (after s ((d.updChan ch.toNat (fun y =>
      { y with derate := true, hotAt := none })).evChan ch.toNat 0x0403 (BitVec.ofNat 64 code.toNat) 0))) ∧
    (∀ soon, exec (.refreshRatePoll ch code (.rfm soon)) s = .next (after s (d.updChan ch.toNat (fun y => { y with rfm := some soon })))) ∧
    (∀ e : Chip, (d.updChan ch.toNat (fun y => { y with hotAt := some (x.hotAt.getD d.up) })).evChan ch.toNat 0x0404 (BitVec.ofNat 64 code.toNat) 0 = e →
      exec (.refreshRatePoll ch code .above) s = .next (after s (({ e with pwr := { e.pwr with memHot := true } } : Chip).thermal 2 (ch.toNat / 4) e.pwr.tMem)))) ∧
  (∀ (code : BitVec 5) (dem : RefreshDemand) (t : Nat), x.polledAt = some t → c.up < t + 117500 → exec (.refreshRatePoll ch code dem) s = .next s)

/-- In a module that runs: in the last 64 tk of a window, once, and off the grid once in each period of 3,664 tk, a channel writes back up to eight corrections and uses the rest of its 128 scrub reads and its 32 re-check reads; the windows of retraining only write back; off the grid the work's 165 bursts wait as unscheduled requests at the channel's arbiter. When every channel has read its block of the chunk, a digest that agrees without poison records when the chunk was clean and goes on; any other damages the set, counts it, raises DIGEST_MISMATCH, and starts a recovery where the run is bound to it. Until every block is read nothing changes. -/
def Obligations.MaintenanceWritesBackScrubsAndRechecks : Prop :=
  (∀ (s : State) (c : Chip) (ch : ChanId) (x : Chan), s.live = true → s.chip = c → c.chan ch.toNat = x →
    (x.inWindow = true → x.maintDone = false → x.windowAt + 384 ≤ c.now → c.now < x.windowAt + 448 → ∀ r : Bool,
      decide (((x.windowAt - c.tide.position.toNat * c.tide.stagger.toNat) / c.gridP) % 32 = Config.retrainWindow % 32) = r →
      exec (.maintenancePart ch) s = .next (after s ((c.maintain ch.toNat r).updChan ch.toNat (fun y => { y with maintDone := true })))) ∧
    ((x.inWindow = false ∨ x.maintDone = true ∨ c.now < x.windowAt + 384 ∨ x.windowAt + 448 ≤ c.now) → exec (.maintenancePart ch) s = .next s) ∧
    (c.onGrid = false → x.st = 2 → x.maintAt ≠ c.now / 3664 + 1 → exec (.maintPeriod ch) s = .next (after s
      ((c.maintain ch.toNat false).updChan ch.toNat (fun y => { y with maintAt := c.now / 3664 + 1, due := y.due + 165 })))) ∧
    ((c.onGrid = true ∨ x.maintAt = c.now / 3664 + 1) → exec (.maintPeriod ch) s = .next s) ∧
    (∀ (c : Chip) (k n : Nat), min 8 (c.chan k).wbOrder.length = n → c.maintain k true = (c.writeBacks k n).updChan k (fun x => { x with owed := (c.chan k).owed }) ∧
      c.maintain k false = (((c.writeBacks k n).scrub k (128 - n)).recheck k 32).updChan k (fun x => { x with owed := (c.chan k).owed }))) ∧
  (∀ (s : State) (c : Chip) (w : WSet) (k : Nat), s.live = true → s.chip = c → c.wsets.find? (fun w => w.num == c.recheckSet && w.checked) = some w →
    c.recheckChunk.toNat = k →
    ((∃ ch < 64, (c.chan ch).reOff < (w.block k ch).2) → exec .recheckChunkDone s = .next s) ∧
    ((∀ ch < 64, (w.block k ch).2 ≤ (c.chan ch).reOff) → c.recheckPoison = false → w.chunks.getD k [] = sha512 (c.bytes (w.base + k * 0x40_0000) (w.chunkLen k)) →
      ∀ v : WSet, v = { w with clean := w.clean.set k c.now } → exec .recheckChunkDone s = .next (after s ((c.setWset v).nextChunk v))) ∧
    ((∀ ch < 64, (w.block k ch).2 ≤ (c.chan ch).reOff) →
      (c.recheckPoison = true ∨ w.chunks.getD k [] ≠ sha512 (c.bytes (w.base + k * 0x40_0000) (w.chunkLen k))) → ∀ (v : WSet) (d : Chip),
      v = { w with verified := false, damaged := true } →
      (({ c with damagedCnt := c.damagedCnt + 1 } : Chip).setWset v).evMod 0x0405 (mkWord [(48, 16, w.num.toNat), (0, 32, k)]) (BitVec.ofNat 64 (w.clean.getD k 0)) = d →
      ((d.run.map (fun r => r.set)).getD none ≠ some w.num → exec .recheckChunkDone s = .next (after s (d.nextChunk v))) ∧
      ((d.run.map (fun r => r.set)).getD none = some w.num → exec .recheckChunkDone s = .next (after s ((d.detect 0x0A false).nextChunk v)))))

/-- For every object of every tile: a completion count is a violation in VALUE mode, adds its bytes in BYTES mode, its packets in PACKETS mode, and is a violation in SIGNALS mode; an ADD adds its value in VALUE mode, is a violation in BYTES and PACKETS mode and adds 1 in SIGNALS mode; a SET makes the object its value in VALUE mode and is a violation in the others; all modulo 2^32. An update allowed is the object's alone, with its scope and path. Two updates of one ac from sources of different places in the order of R359 leave the object the same whichever came first, its count that of the earlier place's and then the later's, and what a WAIT sees in that ac is what it held before it. A violating update is not applied: from a tile of this module that tile freezes with cause 0x0A; from a tray slot it is that slot's violation of R352. -/
def Obligations.SyncObjectsActByTheTable : Prop :=
  ∀ (c : Chip) (t o rank : Nat) (u : SyncUpd) (sc path : BitVec 3) (x : Sync), (c.tile t).sync o = x →
  (∀ n : W32, ((∃ b p, u = .count b p ∧ x.mode = 1 ∧ n = x.count + BitVec.ofNat 32 b) ∨ (∃ b p, u = .count b p ∧ x.mode = 2 ∧ n = x.count + BitVec.ofNat 32 p) ∨
      (∃ v, u = .add v ∧ x.mode = 0 ∧ n = x.count + v) ∨ (∃ v, u = .add v ∧ x.mode = 3 ∧ n = x.count + 1) ∨ (∃ v, u = .set v ∧ x.mode = 0 ∧ n = v)) →
    c.syncApply rank t o u sc path = some (c.updTile t (fun y => y.setSync o (x.take c.nowAc ⟨rank, u, sc, path⟩))) ∧
    (x.at_ ≠ c.nowAc → x.take c.nowAc ⟨rank, u, sc, path⟩ = { x with count := n, scope := sc, path := path, at_ := c.nowAc, was := x.count, wasScope := x.scope, wasPath := x.path, ups := [⟨rank, u, sc, path⟩] })) ∧
  (∀ (ac : Nat) (a b : SyncArr) (n m : W32), x.at_ ≠ ac → a.rank < b.rank → syncNext x.mode x.count a.upd = some n → syncNext x.mode n b.upd = some m →
    (x.take ac a).take ac b = (x.take ac b).take ac a ∧ ((x.take ac a).take ac b).count = m ∧ ((x.take ac a).take ac b).seen ac = (x.count, x.scope, x.path)) ∧
  (((∃ b p, u = .count b p ∧ (x.mode = 0 ∨ x.mode = 3)) ∨ (∃ v, u = .add v ∧ (x.mode = 1 ∨ x.mode = 2)) ∨ (∃ v, u = .set v ∧ x.mode ≠ 0)) →
    c.syncApply rank t o u sc path = none ∧ (∀ (iss : Nat) (id : W16) (op : Byte), c.syncLocal iss id op t o u sc = c.tileViolation iss 0x0A id op 0) ∧
    (∀ (slot : SlotId) (w : W64), portUpd w = some u → c.tray.valid.getLsbD slot.toNat = true → c.tray.frozen.getLsbD slot.toNat = false →
      portWrite (.tray slot) t o w c = c.trayViolation slot (portAddr t o)))

/-- In a module that runs, for a word of each OP without reserved bits. A host write to an object below 48 of a tile on which a run of that context is active is taken with SCOPE TRAY, whatever its SCOPE field holds, where R355's table allows it: ADD in VALUE and SIGNALS mode, SET in VALUE mode, COUNT in BYTES and PACKETS mode; the object takes it and nothing else changes. A VALID tray slot's, where its export allows it, is taken with the SCOPE of the word; another slot's counts as ctx 0's (R340). A word of OP 0b11, a port that the context does not reach, and any update not applied, is a violation of the context or the slot. A frozen sender's word changes nothing, and each row leaves a word of another OP alone. -/
def Obligations.SyncPortWritesUpdateOrViolate : Prop :=
  ∀ (s : State) (c : Chip) (t : TileId) (o : BitVec 6) (w : W64) (x : Sync), s.live = true → s.chip = c → (c.tile t.toNat).sync o.toNat = x →
  (∀ n : CtxId, (c.ctx n.toNat).frozen = false → c.runsOn t.toNat = true → c.runCtx = n.toNat → o.toNat < 48 → fld w 58 48 = 0 →
    (fld w 63 62 = 0 → fld w 47 32 = 0 → (x.mode = 0 ∨ x.mode = 3) → exec (.syncPortAdd (.host n) t o w) s = .next (after s
      (c.updTile t.toNat (fun y => y.setSync o.toNat (x.take c.nowAc ⟨rankOuter, .add (BitVec.ofNat 32 (fld w 31 0)), 2, 2⟩))))) ∧
    (fld w 63 62 = 1 → fld w 47 32 = 0 → x.mode = 0 → exec (.syncPortSet (.host n) t o w) s = .next (after s
      (c.updTile t.toNat (fun y => y.setSync o.toNat (x.take c.nowAc ⟨rankOuter, .set (BitVec.ofNat 32 (fld w 31 0)), 2, 2⟩))))) ∧
    (fld w 63 62 = 2 → (x.mode = 1 ∨ x.mode = 2) → exec (.syncPortCount (.host n) t o w) s = .next (after s
      (c.updTile t.toNat (fun y => y.setSync o.toNat (x.take c.nowAc ⟨rankOuter, .count (fld w 31 0) (fld w 47 32), 2, 2⟩)))))) ∧
  (∀ k : SlotId, c.tray.valid.getLsbD k.toNat = true → c.tray.frozen.getLsbD k.toNat = false → fld w 58 48 = 0 → ∀ sc : BitVec 3, BitVec.ofNat 3 (fld w 61 59) = sc →
    (fld w 63 62 = 0 → fld w 47 32 = 0 → (x.mode = 0 ∨ x.mode = 3) → ∀ u : SyncUpd, u = .add (BitVec.ofNat 32 (fld w 31 0)) →
      c.maySync (fun x => x.tray) t.toNat o.toNat u = true → exec (.syncPortAdd (.tray k) t o w) s = .next (after s
        (c.updTile t.toNat (fun y => y.setSync o.toNat (x.take c.nowAc ⟨rankOuter, u, sc, 2⟩))))) ∧
    (fld w 63 62 = 1 → fld w 47 32 = 0 → x.mode = 0 → ∀ u : SyncUpd, u = .set (BitVec.ofNat 32 (fld w 31 0)) →
      c.maySync (fun x => x.tray) t.toNat o.toNat u = true → exec (.syncPortSet (.tray k) t o w) s = .next (after s
        (c.updTile t.toNat (fun y => y.setSync o.toNat (x.take c.nowAc ⟨rankOuter, u, sc, 2⟩))))) ∧
    (fld w 63 62 = 2 → (x.mode = 1 ∨ x.mode = 2) → ∀ u : SyncUpd, u = .count (fld w 31 0) (fld w 47 32) →
      c.maySync (fun x => x.tray) t.toNat o.toNat u = true → exec (.syncPortCount (.tray k) t o w) s = .next (after s
        (c.updTile t.toNat (fun y => y.setSync o.toNat (x.take c.nowAc ⟨rankOuter, u, sc, 2⟩)))))) ∧
  (∀ k : SlotId, c.tray.valid.getLsbD k.toNat = false → exec (.syncPortAdd (.tray k) t o w) s = exec (.syncPortAdd (.host 0) t o w) s ∧
    exec (.syncPortSet (.tray k) t o w) s = exec (.syncPortSet (.host 0) t o w) s ∧ exec (.syncPortCount (.tray k) t o w) s = exec (.syncPortCount (.host 0) t o w) s) ∧
  (∀ src, (fld w 63 62 ≠ 0 → exec (.syncPortAdd src t o w) s = .next s) ∧ (fld w 63 62 ≠ 1 → exec (.syncPortSet src t o w) s = .next s) ∧
    (fld w 63 62 < 2 → exec (.syncPortCount src t o w) s = .next s)) ∧
  (fld w 63 62 = 3 → (∀ n : CtxId, exec (.syncPortCount (.host n) t o w) s = .next (after s (c.ctxViolation n.toNat 1 (portAddr t.toNat o.toNat)))) ∧
    (∀ k : SlotId, c.tray.valid.getLsbD k.toNat = true → exec (.syncPortCount (.tray k) t o w) s = .next (after s (c.trayViolation k (portAddr t.toNat o.toNat))))) ∧
  (∀ n : CtxId, (c.runsOn t.toNat = false ∨ 48 ≤ o.toNat) → fld w 63 62 = 0 →
    exec (.syncPortAdd (.host n) t o w) s = .next (after s (c.ctxViolation n.toNat 1 (portAddr t.toNat o.toNat))))

/-- In a module that runs, with the link carrying the function, not in D3hot, and the boot over: a write of 1 to 512 bytes within 4 KiB that a context sends through BAR4 to what it may reach, outside the active image, lands with its poison; to the image it is a violation of cause 2, elsewhere of cause 1; a read of what it may reach is completed with the data as stored, any other with zeros and a violation. A frozen context's write changes nothing. A function reaches its own page only: at another page a write does nothing and a read gives zeros. A VALID tray slot's write or read inside the exports lands or is completed; outside them it is the slot's violation, a read then completed with zeros. -/
def Obligations.HostAndTrayAccessesLandOrViolate : Prop :=
  (∀ (s : State) (c : Chip) (n : CtxId) (rid : W16) (off : W64) (data : List Byte) (ep : Bool) (a : Nat), s.live = true → s.chip = c → s.pcie.carries n = true →
    s.pcie.d3.getLsbD n.toNat = false → 1 ≤ data.length → data.length ≤ 512 → off.toNat % 4096 + data.length ≤ 4096 → off.toNat < 0x100_0000_0000 → lpBase + off.toNat = a →
    c.trayRid n rid = none → c.booted = true →
    ((c.ctx n.toNat).frozen = true → exec (.barWrite n rid .bar4 off data ep) s = .next s) ∧
    ((c.ctx n.toNat).frozen = false → inPorts a = false →
      (c.hitsImage a data.length = true → exec (.barWrite n rid .bar4 off data ep) s = .next (after s (c.ctxViolation n.toNat 2 a))) ∧
      (c.hitsImage a data.length = false → c.hostReach n.toNat a data.length = true → exec (.barWrite n rid .bar4 off data ep) s = .next (after s (c.outerWrite a data ep))) ∧
      (c.hitsImage a data.length = false → c.hostReach n.toNat a data.length = false → exec (.barWrite n rid .bar4 off data ep) s = .next (after s (c.ctxViolation n.toNat 1 a))) ∧
      (∀ (len : Nat) (f : Chip × List Byte × Bool), 1 ≤ len → off.toNat % 4096 + len ≤ 4096 → c.outerRead a len = f → c.hostReach n.toNat a len = true →
        exec (.barRead n rid .bar4 off len) s = .next (after s (f.1.send (.completion n f.2.1 f.2.2)))) ∧
      (∀ len : Nat, 1 ≤ len → off.toNat % 4096 + len ≤ 4096 → c.hostReach n.toNat a len = false → exec (.barRead n rid .bar4 off len) s = .next (after s
        ((c.ctxViolation n.toNat 1 a).send (.completion n (zeros len) false)))))) ∧
  (∀ (s : State) (c : Chip) (n : CtxId) (rid : W16) (off : W64) (data : List Byte) (ep : Bool), s.live = true → s.chip = c → s.pcie.carries n = true →
    s.pcie.d3.getLsbD n.toNat = false → 1 ≤ data.length → data.length ≤ 512 → off.toNat % 4096 + data.length ≤ 4096 → off.toNat < 0x10_0000 → c.trayRid n rid = none →
    off.toNat / 0x1_0000 ≠ n.toNat → exec (.barWrite n rid .bar0 off data ep) s = .next s ∧
      exec (.barRead n rid .bar0 off data.length) s = .next (after s (c.send (.completion n (zeros data.length) false)))) ∧
  (∀ (s : State) (c : Chip) (k : SlotId) (a : Addr) (data : List Byte) (ep : Bool) (r : Run), s.live = true → s.chip = c → s.pcie.carries 0 = true →
    s.pcie.d3.getLsbD 0 = false → c.booted = true → c.tray.valid.getLsbD k.toNat = true → c.tray.frozen.getLsbD k.toNat = false → inPorts a.toNat = false → inSpd a.toNat = false →
    c.run = some r → 1 ≤ data.length → data.length ≤ 512 → a.toNat % 4096 + data.length ≤ 4096 →
    (r.mayWrite (fun x => x.tray) false a.toNat data.length = true → exec (.trayWriteArrival k a data ep) s = .next (after s (c.outerWrite a.toNat data ep))) ∧
    (r.mayWrite (fun x => x.tray) false a.toNat data.length = false → exec (.trayWriteArrival k a data ep) s = .next (after s (c.trayViolation k a.toNat))) ∧
    (∀ (len : Nat) (f : Chip × List Byte × Bool), 1 ≤ len → a.toNat % 4096 + len ≤ 4096 → (r.exports.any (fun x => x.read && x.tray && within a.toNat len x.base x.size)) = true → c.outerRead a.toNat len = f →
      exec (.trayReadArrival k a len) s = .next (after s (f.1.send (.trayCompletion k f.2.1 f.2.2)))) ∧
    (∀ len : Nat, 1 ≤ len → a.toNat % 4096 + len ≤ 4096 → (r.exports.any (fun x => x.read && x.tray && within a.toNat len x.base x.size)) = false →
      exec (.trayReadArrival k a len) s = .next (after s ((c.trayViolation k a.toNat).send (.trayCompletion k (zeros len) false)))))

/-- In a module that runs, at a page that takes index writes: REQ_TAIL is taken unless it would cover more than 64 entries, RSP_HEAD and EVT_HEAD unless they pass their tail; a write refused leaves the index and sets BAD_DOORBELL; a closed page takes none. The Keeper reads the request of a mailbox whose turn it is: the head passes its entries, one too long is answered ST_BAD_ARG, one that a shared check refuses is answered with that check's status, and any other becomes the request in hand. Where none can be read nothing changes. -/
def Obligations.MailboxIndexWritesAreCheckedAndRequestsRead : Prop :=
  ∀ (s : State) (c : Chip) (who : Issuer) (n : Nat) (v : W32), s.live = true → s.chip = c → issuerNum who = n →
  (c.pageOpen n = false → exec (.mbxReqTailWrite who v) s = .next s ∧ exec (.mbxRspHeadWrite who v) s = .next s ∧ exec (.mbxEvtHeadWrite who v) s = .next s) ∧
  (c.pageOpen n = true →
    ((v - (c.ctx n).reqHead).toNat ≤ 64 → exec (.mbxReqTailWrite who v) s = .next (after s (c.updCtx n (fun _ => { c.ctx n with reqTail := v })))) ∧
    (64 < (v - (c.ctx n).reqHead).toNat → exec (.mbxReqTailWrite who v) s = .next (after s (c.updCtx n (fun _ => { c.ctx n with badDoorbell := true })))) ∧
    ((v - (c.ctx n).rspHead).toNat ≤ ((c.ctx n).rspTail - (c.ctx n).rspHead).toNat → ∀ d, c.updCtx n (fun x => { x with rspHead := v }) = d →
      exec (.mbxRspHeadWrite who v) s = .next (after s (flushRsps n (d.ctx n).rsps.length d))) ∧
    (((c.ctx n).rspTail - (c.ctx n).rspHead).toNat < (v - (c.ctx n).rspHead).toNat →
      exec (.mbxRspHeadWrite who v) s = .next (after s (c.updCtx n (fun x => { x with badDoorbell := true })))) ∧
    ((v - (c.ctx n).evtHead).toNat ≤ ((c.ctx n).evtTail - (c.ctx n).evtHead).toNat →
      exec (.mbxEvtHeadWrite who v) s = .next (after s (c.updCtx n (fun _ => { c.ctx n with evtHead := v })))) ∧
    (((c.ctx n).evtTail - (c.ctx n).evtHead).toNat < (v - (c.ctx n).evtHead).toNat →
      exec (.mbxEvtHeadWrite who v) s = .next (after s (c.updCtx n (fun _ => { c.ctx n with badDoorbell := true }))))) ∧
  ((c.canRead n = false ∨ c.inTurn n = false) → exec (.mailboxRequestRead who) s = .next s) ∧
  (c.canRead n = true → c.inTurn n = true → ∀ (q : Req) (k : Nat) (big bad : Bool) (d e : Chip), c.nextReq n = (q, k, big, bad) →
    c.updCtx n (fun x => { x with reqHead := x.reqHead + BitVec.ofNat 32 k }) = d → { d with keeper := { d.keeper with turn := n } } = e →
    (big = true → exec (.mailboxRequestRead who) s = .next (after s (e.respond n q stBadArg [] 0xFFFF 0))) ∧
    (big = false → ∀ st off, e.refusal n q bad = some (st, off) → exec (.mailboxRequestRead who) s = .next (after s (e.respond n q st [] off 0))) ∧
    (big = false → e.refusal n q bad = none → exec (.mailboxRequestRead who) s = .next (after s (e.updCtx n (fun x => { x with cur := some q })))))

/-- In a module that runs, for the request in hand of a mailbox the Keeper serves: dev.query answers ST_OK with the five words of R441; dev.identity with the serial, the revision and the public key, or zeros without identity; ctx.open opens a closed context with the next generation and its profile, answers ST_BUSY for an open one and ST_BAD_ARG for the reserved profile; ctx.close refuses the unread requests, abandons the background ones, and ends or cancels; ctx.unfreeze answers ST_OK for a master not frozen, releases a frozen one, holds a strait under a run not at slack to ST_NOT_AT_SLACK, and waits while its harvest is not stored. -/
def Obligations.DeviceAndContextCommandsAnswer : Prop :=
  ∀ (s : State) (c : Chip) (who : Issuer) (n : Nat) (q : Req), s.live = true → s.chip = c → issuerNum who = n →
  (Requested c n 0x0100 q → exec (.devQuery who) s = .next (after s (c.okay n q [BitVec.ofNat 64 c.capacity, BitVec.ofNat 64 (c.capacity * 31 / 32 - 0x800_0000),
    mkWord [(32, 32, c.keeper.fwVersion.toNat), (16, 16, c.boot.set.version.toNat), (0, 16, maskOf 16 (fun i => (c.ctx i).opened))], c.tide.count,
    mkWord [(60, 4, c.pwr.ga.toNat), (56, 4, if c.ring.member then c.ringNo.toNat else 0), (50, 6, if c.ring.member then c.ring.pos.toNat else 0), (49, 1, b2n c.ring.member),
      (46, 3, c.tide.st.code), (32, 8, (c.tiles.filter (fun e => e.2.st == .excluded)).length)]]))) ∧
  (Requested c n 0x0101 q →
    (c.boot.identityOk = true → exec (.devIdentity who) s = .next (after s (c.answer n q stOk
      (wordsBytes [c.boot.serial, mkWord [(48, 16, c.boot.rev.toNat)]] ++ publicKey identityKey) 0xFFFF))) ∧
    (c.boot.identityOk = false → exec (.devIdentity who) s = .next (after s (c.answer n q stOk (zeros 149) 0xFFFF)))) ∧
  (Requested c n 0x0200 q → ∀ (p : BitVec 2) (d : Chip), BitVec.ofNat 2 (fld (q.w 0) 1 0) = p →
    (p = 3 → exec (.ctxOpen who) s = .next (after s (c.answer n q stBadArg [] 0))) ∧
    (p ≠ 3 → (c.ctx n).opened = true → exec (.ctxOpen who) s = .next (after s (c.refuse n q stBusy))) ∧
    (p ≠ 3 → (c.ctx n).opened = false →
      c.updCtx n (fun x => { x with opened := true, gen := x.gen + 1, evtLost := 0, compat := if p = 0 then c.boot.set.compat else p }) = d →
      exec (.ctxOpen who) s = .next (after s (d.okay n q [(d.ctx n).gen.setWidth 64])))) ∧
  (Requested c n 0x0201 q → ∀ tgt : Nat, (if bit (q.w 0) 4 then fld (q.w 0) 3 0 else n) = tgt →
    (tgt = 16 → exec (.ctxClose who) s = .next (after s (c.answer n q stBadArg [] 0))) ∧
    (tgt ≠ 16 → ∀ d : Chip, (c.updCtx n (fun x => { x with cur := none })).closeReqs tgt = d → exec (.ctxClose who) s = .next (after s
      (({ d with keeper := { d.keeper with bgs := d.keeper.bgs ++ [({ who := n, req := q, kind := .ctxClose tgt, since := d.up } : Bg)] } } : Chip).closeRun tgt)))) ∧
  (Requested c n 0x0202 q → ∀ kind id : Nat, fld (q.w 0) 63 61 = kind → fld (q.w 0) 11 0 = id →
    ((3 < kind ∨ (kind = 1 ∧ 15 < id) ∨ (kind = 2 ∧ 3 < id) ∨ (kind = 3 ∧ 15 < id)) → exec (.ctxUnfreeze who) s = .next (after s (c.answer n q stBadArg [] 0))) ∧
    (kind ≤ 3 → (kind = 0 ∨ id ≤ 3 ∨ (kind ≠ 2 ∧ id ≤ 15)) → (∃ h ∈ c.harvQ, h.kind.toNat = kind ∧ h.id.toNat = id) → exec (.ctxUnfreeze who) s = .next s) ∧
    ((∀ h ∈ c.harvQ, ¬(h.kind.toNat = kind ∧ h.id.toNat = id)) →
      (kind = 0 → (c.tile id).st ≠ .frozen → exec (.ctxUnfreeze who) s = .next (after s (c.refuse n q stOk))) ∧
      (kind = 0 → (c.tile id).st = .frozen → exec (.ctxUnfreeze who) s = .next (after s (((c.unfreezeTile id).unfrozen n 0 id (c.tile id).faultCause).refuse n q stOk))) ∧
      (kind = 1 → id ≤ 15 → (c.ctx id).frozen = true → exec (.ctxUnfreeze who) s = .next (after s
        (((c.updCtx id (fun x => { x with frozen := false, fcause := 0 })).unfrozen n 1 id (c.ctx id).fcause).refuse n q stOk))) ∧
      (kind = 2 → id ≤ 3 → (c.str (straitOf id)).frozen = true → (c.run.isSome && !c.slack.atSlack) = true → exec (.ctxUnfreeze who) s = .next (after s (c.refuse n q stNotAtSlack))) ∧
      (kind = 2 → id ≤ 3 → (c.str (straitOf id)).frozen = true → (c.run.isSome && !c.slack.atSlack) = false → exec (.ctxUnfreeze who) s = .next (after s
        (((c.updStr (straitOf id) (fun x => { x with frozen := false, faultCause := 0, faultType := 0, offend := [] })).unfrozen n 2 id (c.str (straitOf id)).faultCause).refuse n q stOk))) ∧
      (kind = 3 → id ≤ 15 → c.tray.frozen.getLsbD id = true → exec (.ctxUnfreeze who) s = .next (after s
        ((({ c with tray := { c.tray with frozen := c.tray.frozen &&& ~~~(1#16 <<< id), offend := tblErase c.tray.offend id } } : Chip).unfrozen n 3 id 1).refuse n q stOk)))))

/-- In a module that runs, for the request in hand of a mailbox the Keeper serves, on a module with memory: mem.alloc refuses a base that is no multiple of 4 MiB, a size that is 0 or no multiple, what lies outside, and what finds no room, and else adds an unsealed region, owned by the issuer, with zeros; mem.free refuses a region that is not there with ST_BAD_ARG and one in use with ST_BUSY, and else takes it and every mapping into it away; mem.map adds a mapping in the context's own regions or, for scratchpad, where no other context maps, and refuses the rest; UNMAP cuts the range out of its mappings unless the run uses it. Without memory each is ST_NOT_PERMITTED. -/
def Obligations.MemoryCommandsKeepRegionsAndMappings : Prop :=
  ∀ (s : State) (c : Chip) (who : Issuer) (n : Nat) (q : Req) (a size : Nat), s.live = true → s.chip = c → issuerNum who = n → (q.w 0).toNat = a → fld (q.w 1) 40 0 = size →
  (c.boot.memOk = false → (Requested c n 0x0301 q → exec (.memFree who) s = .next (after s (c.refuse n q stNotPermitted))) ∧
    (Requested c n 0x0302 q → bit (q.w 1) 63 = true → exec (.memUnmap who) s = .next (after s (c.refuse n q stNotPermitted))) ∧
    (Requested c n 0x0302 q → bit (q.w 1) 63 = false → exec (.memMap who) s = .next (after s (c.refuse n q stNotPermitted)))) ∧
  (Requested c n 0x0300 q →
    (c.boot.memOk = false → exec (.memAlloc who) s = .next (after s (c.refuse n q stNotPermitted))) ∧
    (c.boot.memOk = true →
      (a % 0x40_0000 ≠ 0 → exec (.memAlloc who) s = .next (after s (c.answer n q stBadArg [] 0))) ∧
      (a % 0x40_0000 = 0 → (size = 0 ∨ size % 0x40_0000 ≠ 0) → exec (.memAlloc who) s = .next (after s (c.answer n q stBadArg [] 8))) ∧
      (a % 0x40_0000 = 0 → size ≠ 0 → size % 0x40_0000 = 0 → a ≠ 0 → c.lpUser a size = false → exec (.memAlloc who) s = .next (after s (c.answer n q stBounds [] 0))) ∧
      (a % 0x40_0000 = 0 → size ≠ 0 → size % 0x40_0000 = 0 → (a = 0 ∨ c.lpUser a size = true) → c.lpUser lpBase size = false →
        exec (.memAlloc who) s = .next (after s (c.answer n q stBounds [] 8))) ∧
      (a % 0x40_0000 = 0 → size ≠ 0 → size % 0x40_0000 = 0 → (a = 0 ∨ c.lpUser a size = true) → c.lpUser lpBase size = true →
        ((if a = 0 then c.lowest 0x40_0000 size else if c.freeRange a size then some a else none) = none → exec (.memAlloc who) s = .next (after s (c.refuse n q stNoSpace))) ∧
        (bit (q.w 1) 63 = false → ∀ (at_ num : Nat) (d : Chip), (if a = 0 then c.lowest 0x40_0000 size else if c.freeRange a size then some a else none) = some at_ →
          (List.range 1024).find? (fun k => (c.region k).isNone) = some num → num < 1024 →
          ({ c with regions := c.regions ++ [{ num := num, ctx := n, base := at_, size := size, sealedR := false, key := c.fresh.n, tags := 0 }], fresh := ⟨c.fresh.n + 1⟩ } : Chip) = d →
          exec (.memAlloc who) s = .next (after s ((d.zeroLp at_ size).okay n q [BitVec.ofNat 64 num, BitVec.ofNat 64 at_])))))) ∧
  (Requested c n 0x0301 q → c.boot.memOk = true →
    (c.region (fld (q.w 0) 9 0) = none → exec (.memFree who) s = .next (after s (c.answer n q stBadArg [] 0))) ∧
    (∀ r, c.region (fld (q.w 0) 9 0) = some r →
      ((c.regionBusy r || c.wsets.any (fun w => decide (w.region = r.num)) || c.runUses r.base r.size) = true → exec (.memFree who) s = .next (after s (c.answer n q stBusy [] 0))) ∧
      ((c.regionBusy r || c.wsets.any (fun w => decide (w.region = r.num)) || c.runUses r.base r.size) = false →
        exec (.memFree who) s = .next (after s ((c.freeRegion r).refuse n q stOk))))) ∧
  (Requested c n 0x0302 q → c.boot.memOk = true → bit (q.w 1) 63 = false → a % 64 = 0 → size ≠ 0 → size % 64 = 0 →
    (within a size spdBase 0x8000_0000 = true → (spdTiles a size).any c.excluded = false →
      c.ctxs.any (fun e => e.1 != n && e.2.maps.any (fun m => overlap a size m.1 m.2)) = true → exec (.memMap who) s = .next (after s (c.answer n q stNotPermitted [] 0))) ∧
    (within a size spdBase 0x8000_0000 = true → (spdTiles a size).any c.excluded = false →
      c.ctxs.any (fun e => e.1 != n && e.2.maps.any (fun m => overlap a size m.1 m.2)) = false → (c.ctx n).maps.length < 64 →
      exec (.memMap who) s = .next (after s ((c.updCtx n (fun x => { x with maps := x.maps ++ [(a, size)] })).refuse n q stOk))) ∧
    (within a size spdBase 0x8000_0000 = false → c.lpUser a size = true → covered (c.ctxRegions n) a size = false → exec (.memMap who) s = .next (after s (c.answer n q stNotPermitted [] 0))) ∧
    (within a size spdBase 0x8000_0000 = false → c.lpUser a size = true → covered (c.ctxRegions n) a size = true → (c.ctx n).maps.length < 64 →
      exec (.memMap who) s = .next (after s ((c.updCtx n (fun x => { x with maps := x.maps ++ [(a, size)] })).refuse n q stOk)))) ∧
  (Requested c n 0x0302 q → c.boot.memOk = true → bit (q.w 1) 63 = true → a % 64 = 0 → size ≠ 0 → size % 64 = 0 → c.unpopulated a size = true →
    exec (.memUnmap who) s = .next (after s (c.answer n q stBounds [] 0))) ∧
  (Requested c n 0x0302 q → c.boot.memOk = true → bit (q.w 1) 63 = true → a % 64 = 0 → size ≠ 0 → size % 64 = 0 → c.unpopulated a size = false → (∃ m ∈ (c.ctx n).maps, overlap a size m.1 m.2 = true) →
    (c.ctxRunUses n a size = true → exec (.memUnmap who) s = .next (after s (c.answer n q stBusy [] 0))) ∧
    (c.ctxRunUses n a size = false → ((c.ctx n).maps.flatMap (cutOut a size)).length ≤ 64 → exec (.memUnmap who) s = .next (after s
      ((c.updCtx n (fun x => { x with maps := (c.ctx n).maps.flatMap (cutOut a size) })).refuse n q stOk))))

/-- In a module that runs, for a mem.table in hand with memory: a slot that another context owns is ST_NOT_PERMITTED, one in use by a load ST_BUSY, a table that breaks a rule of R312 ST_BAD_ARG; with no reference on the version not current the table is loaded and current at once; with references and no time ST_TABLE_BUSY; else the slot is held in the background. While the Keeper runs, a held load completes when the references have drained; at its deadline with references left it is ST_TABLE_BUSY and the slot is no longer held; until then nothing changes. -/
def Obligations.TableLoadsWaitForTheirReferences : Prop :=
  (∀ (s : State) (c : Chip) (who : Issuer) (n : Nat) (q : Req) (k : Nat) (y : CSlot), s.live = true → s.chip = c → issuerNum who = n → Requested c n 0x0303 q → c.boot.memOk = true →
    fld (q.w 0) 6 0 = k → c.cslot k = y →
    (∀ o, y.owner = some o → o ≠ n → exec (.memTable who) s = .next (after s (c.answer n q stNotPermitted [] 0))) ∧
    ((y.owner = none ∨ y.owner = some n) →
      (c.slotBusy k = true → exec (.memTable who) s = .next (after s (c.answer n q stBusy [] 0))) ∧
      (c.slotBusy k = false → tabOk (slice q.payload 8 144) = false → exec (.memTable who) s = .next (after s (c.answer n q stBadArg [] 8))) ∧
      (c.slotBusy k = false → tabOk (slice q.payload 8 144) = true →
        (c.slotRefs k y.next = 0 → exec (.memTable who) s = .next (after s ((c.updCslot k (fun z => z.load n (slice q.payload 8 144))).refuse n q stOk))) ∧
        (c.slotRefs k y.next ≠ 0 → fld (q.w 0) 63 32 = 0 → exec (.memTable who) s = .next (after s (c.refuse n q stTableBusy))) ∧
        (c.slotRefs k y.next ≠ 0 → fld (q.w 0) 63 32 ≠ 0 → exec (.memTable who) s = .next (after s ((c.updCslot k (fun z => { z with held := true })).goBg n q
          (.table k (slice q.payload 8 144) (c.up + fld (q.w 0) 63 32)))))))) ∧
  (∀ (s : State) (c : Chip) (k : BitVec 7) (b : Bg) (tbl : List Byte) (ddl : Nat), s.live = true → s.chip = c → c.tableBg k.toNat = some b → b.kind = .table k.toNat tbl ddl →
    c.keeper.state = .running →
    (c.slotRefs k.toNat (c.cslot k.toNat).next = 0 → exec (.tableLoadTimeout k) s = .next s ∧
      exec (.tableRefsDrained k) s = .next (after s ((c.updCslot k.toNat (fun z => z.load b.who tbl)).endBg b stOk [] 0xFFFF 0))) ∧
    (c.slotRefs k.toNat (c.cslot k.toNat).next ≠ 0 → exec (.tableRefsDrained k) s = .next s ∧
      (c.up < ddl → exec (.tableLoadTimeout k) s = .next s) ∧
      (ddl ≤ c.up → exec (.tableLoadTimeout k) s = .next (after s ((c.updCslot k.toNat (fun z => { z with held := false })).endBg b stTableBusy [] 0xFFFF 0)))))

/-- In a module that runs, for the request in hand of a mailbox the Keeper serves: ring.plan stores a good plan in both copies and refuses a busy ring, a formed ring not at slack, a bad REF and a bad plan; form, join and orient start a formation of the stored plan unless the module has no identity, the ring is busy or a run is active; leave ends membership; slack answers at slack or once the cut is known and else waits for it; resume shifts the schedule, ends the slack and raises RESUMED. That a module with no plan answers ST_PLAN_MISMATCH and that orient needs no active run are the model's choices (log 25). -/
def Obligations.RingCommandsAreTakenOrRefused : Prop :=
  ∀ (s : State) (c : Chip) (who : Issuer) (n : Nat) (busErr : Bool) (q : Req), s.live = true → s.chip = c → issuerNum who = n →
  (Requested c n 0x0400 q →
    (c.ringBusy = true → exec (.ringPlan who busErr) s = .next (after s (c.refuse n q stBusy))) ∧
    (c.ringBusy = false → c.ring.member = true → c.slack.atSlack = false → exec (.ringPlan who busErr) s = .next (after s (c.refuse n q stNotAtSlack))) ∧
    (c.ringBusy = false → (c.ring.member = false ∨ c.slack.atSlack = true) →
      (busErr = true → exec (.ringPlan who busErr) s = .next (after s (c.refuse n q stBounds))) ∧
      (busErr = false → ∀ bs, c.hostRead q.ref.toNat (min q.refLen.toNat 4160) = bs →
        ((q.ref = 0 ∨ q.refLen.toNat < 64 ∨ q.refLen.toNat ≠ 64 + 64 * planN bs) → exec (.ringPlan who busErr) s = .next (after s (c.refuse n q stBadArg))) ∧
        (¬(q.ref = 0 ∨ q.refLen.toNat < 64 ∨ q.refLen.toNat ≠ 64 + 64 * planN bs) →
          ((planReserved bs || !(planOf bs).ok c.boot.serial) = true → exec (.ringPlan who busErr) s = .next (after s (c.refuse n q stBadArg))) ∧
          ((planReserved bs || !(planOf bs).ok c.boot.serial) = false → exec (.ringPlan who busErr) s = .next (after s ((c.storePlan bs).refuse n q stOk))))))) ∧
  ((∀ (i : Instr) (op : Nat) (kind : FormKind) (held : Bool), ((i = .ringForm who busErr ∧ op = 0x0401 ∧ kind = .form ∧ held = (c.ring.member && c.run.isSome)) ∨
      (i = .ringJoin who busErr ∧ op = 0x0402 ∧ kind = .join ∧ held = c.run.isSome) ∨ (i = .ringOrient who busErr ∧ op = 0x0406 ∧ kind = .orient ∧ held = c.run.isSome)) →
    Requested c n op q →
    (c.boot.identityOk = false → exec i s = .next (after s (c.refuse n q stNotPermitted))) ∧
    (c.boot.identityOk = true → c.ringBusy = true → exec i s = .next (after s (c.refuse n q stBusy))) ∧
    (c.boot.identityOk = true → c.ringBusy = false → held = true → exec i s = .next (after s (c.refuse n q stNotAtSlack))) ∧
    (c.boot.identityOk = true → c.ringBusy = false → held = false →
      ((c.ring.plan.bind (fun p => p.posOf c.boot.serial)) = none → exec i s = .next (after s (c.refuse n q stPlanMismatch))) ∧
      (∀ p pos, c.ring.plan = some p → p.posOf c.boot.serial = some pos → exec i s = .next (after s ((c.goBg n q (.form busErr)).startForm kind p pos)))))) ∧
  (Requested c n 0x0403 q →
    (c.ringBusy = true → exec (.ringLeave who) s = .next (after s (c.refuse n q stBusy))) ∧
    (c.ringBusy = false → c.run.isSome = true → c.slack.atSlack = false → exec (.ringLeave who) s = .next (after s (c.refuse n q stNotAtSlack))) ∧
    (c.ringBusy = false → (c.run.isSome = false ∨ c.slack.atSlack = true) → exec (.ringLeave who) s = .next (after s
      (({ c with ring := { c.ring with form := .none, member := false, inForce := none, line := false, brk := 0 }, tide := { c.tide with st := if c.tide.st == .aligned || c.tide.st == .holdover || c.tide.st == .lost then .free else c.tide.st } } : Chip).clearSlack.refuse n q stOk)))) ∧
  (Requested c n 0x0404 q →
    (c.tide.st ≠ .aligned → c.tide.st ≠ .holdover → exec (.ringSlack who) s = .next (after s (c.refuse n q stNotPermitted))) ∧
    ((c.tide.st = .aligned ∨ c.tide.st = .holdover) →
      (c.ringBusy = true → exec (.ringSlack who) s = .next (after s (c.refuse n q stBusy))) ∧
      (c.ringBusy = false → c.slack.atSlack = true → exec (.ringSlack who) s = .next (after s (c.okay n q [c.slack.heldS, c.tide.count]))) ∧
      (c.ringBusy = false → c.slack.atSlack = false → c.slack.cut = none → exec (.ringSlack who) s = .next (after s ((c.goBg n q (.slack c.tide.count)).requestSlack .cmd))) ∧
      (c.ringBusy = false → c.slack.atSlack = false → ∀ m, c.slack.cut = some m → exec (.ringSlack who) s = .next (after s ((c.requestSlack .cmd).okay n q [m, c.tide.count]))))) ∧
  (Requested c n 0x0405 q →
    (c.tide.st ≠ .aligned → c.tide.st ≠ .holdover → exec (.ringResume who) s = .next (after s (c.refuse n q stNotPermitted))) ∧
    ((c.tide.st = .aligned ∨ c.tide.st = .holdover) →
      (c.ringBusy = true → exec (.ringResume who) s = .next (after s (c.refuse n q stBusy))) ∧
      (c.ringBusy = false → (c.slack.atSlack = false ∨ (c.recov.phase ≠ .none ∧ c.recov.phase ≠ .held)) → exec (.ringResume who) s = .next (after s (c.refuse n q stNotAtSlack))) ∧
      (c.ringBusy = false → c.slack.atSlack = true → (c.recov.phase = .none ∨ c.recov.phase = .held) →
        ((q.w 0).toNat < c.now + c.tide.lead.toNat → exec (.ringResume who) s = .next (after s (c.answer n q stBadArg [] 0))) ∧
        (c.now + c.tide.lead.toNat ≤ (q.w 0).toNat → ∀ (g : W64) (d e f : Chip), BitVec.ofNat 64 (c.growth (q.w 0 - c.slack.heldS).toNat) = g →
          (if c.run.isSome then { c with tide := { c.tide with shift := c.tide.shift + g } } else c) = d →
          d.clearSlack.updRun (fun r => { r with state := if r.baseSeen then .running else .waiting }) = e →
          (if c.recov.phase == .held then { e with recov := { e.recov with phase := .none, rp := some (c.slack.heldS + g), cutStop := none } }
           else { e with recov := { e.recov with cutStop := none } }) = f →
          exec (.ringResume who) s = .next (after s ((f.evMod 0x0704 (q.w 0) f.tide.shift).okay n q [f.tide.shift]))))))

/-- In a module that runs: the formation's checks are taken at 20 ms; a report reaches the tide master, which keeps one of each position and decides on all of them; a decision to pass starts the measurement and one to fail ends the formation; at MEASURE_DONE a hop over the budget (result 0x8), a hop of the wrong frequency (result 0x9), a kept count whose full offset, the offset beyond the first hop of the member's path and its own mean offset there, is over 240, or a member nearer the tide master that has not passed (log 86) fails it, and else the member is FORMED with its count and LEAD loaded; 50 ms without a decision is ST_TIMEOUT. An event whose condition does not hold changes nothing. The order in which the master judges the reports is the model's choice (log 25). -/
def Obligations.FormationDiscoversDecidesAndMeasures : Prop :=
  ∀ (s : State) (c : Chip), s.live = true → s.chip = c →
  ((c.ring.form = .discover ∨ c.ring.form = .check) → c.ring.startTk + 20 * 117500 ≤ c.up → exec .discoverTimeout s = .next (after s (c.check true))) ∧
  ((c.up < c.ring.startTk + 20 * 117500 ∨ (c.ring.form ≠ .discover ∧ c.ring.form ≠ .check)) → exec .discoverTimeout s = .next s) ∧
  (∀ (a : AgreeReport) (d : Chip), { c with ring := { c.ring with agrees := c.ring.agrees.filter (fun b => b.pos != a.pos) ++ [a] } } = d →
    ((c.ring.form ≠ .agree ∨ c.ring.inForce.map (fun p => p.master) ≠ some c.ring.pos ∨
      ∃ i, i < (c.ring.inForce.map (fun p => p.n)).getD 0 ∧ ∀ b ∈ d.ring.agrees, b.pos.toNat ≠ i) → exec (.formationAgree a) s = .next (after s d)) ∧
    (∀ p, c.ring.inForce = some p → c.ring.form = .agree → c.ring.pos = p.master → (∀ i, i < p.n → ∃ b ∈ d.ring.agrees, b.pos.toNat = i) →
      ∀ v, verdict p.n c.boot.set.lineMode (d.ring.gathered.filter (fun b => decide (b.pos.toNat < p.n))) = v →
      exec (.formationAgree a) s = .next (after s ((if p.n = 1 then d else d.send (.formDecision v)).decided v)))) ∧
  (∀ v : FormVerdict, (c.ring.form ≠ .agree → exec (.formationDecision v) s = .next s) ∧
    (c.ring.form = .agree → v.pass = true → exec (.formationDecision v) s = .next (after s (c.measure v))) ∧
    (c.ring.form = .agree → v.pass = false → exec (.formationDecision v) s = .next (after s (({ c with ring := { c.ring with vr := v.vr } } : Chip).formFail v.status)))) ∧
  (∀ (beyond count : W64) (passed : Bool) (east west : List W32) (offset : Int),
    offset = (if c.tide.hops = 0 then 0 else signed 64 beyond.toNat - (c.tide.xch.get (if c.tide.path then .e else .w)).meanOff) →
    ((c.ring.inForce = none ∨ c.ring.form ≠ .measure ∨ c.tide.st ≠ .measuring ∨ c.hopMeasured .e = false ∨ c.hopMeasured .w = false) →
      exec (.measureDone beyond count passed east west) s = .next s) ∧
    (∀ p, c.ring.inForce = some p → c.ring.form = .measure → c.tide.st = .measuring → c.hopMeasured .e = true → c.hopMeasured .w = true → farValid (c.planRec.far.get .e) = true → (c.str .e).isUp = true →
      (c.tide.hop.get .e).valid = true → p.hopBudget.toNat < (c.tide.hop.get .e).delay.toNat → (farValid (c.planRec.far.get .w) = false ∨ (c.str .w).isUp = false) →
      exec (.measureDone beyond count passed east west) s = .next (after s (({ c with ring := { c.ring with result := { c.ring.result with e := 8 } } } : Chip).formFail stPlanMismatch))) ∧
    (∀ p, c.ring.inForce = some p → c.ring.form = .measure → c.tide.st = .measuring → c.hopMeasured .e = true → c.hopMeasured .w = true → farValid (c.planRec.far.get .e) = true → (c.str .e).isUp = true →
      (c.tide.hop.get .e).delay.toNat ≤ p.hopBudget.toNat → (c.tide.xch.get .e).freqBad = true → (farValid (c.planRec.far.get .w) = false ∨ (c.str .w).isUp = false) →
      exec (.measureDone beyond count passed east west) s = .next (after s (({ c with ring := { c.ring with result := { c.ring.result with e := 9 } } } : Chip).formFail stPlanMismatch))) ∧
    (∀ p, c.ring.inForce = some p → c.ring.form = .measure → c.tide.st = .measuring → c.hopMeasured .e = true → c.hopMeasured .w = true →
      (∀ st : Strait, straitMain st = true → farValid (c.planRec.far.get st) = true → (c.str st).isUp = true →
        (c.tide.hop.get st).delay.toNat ≤ p.hopBudget.toNat ∧ (c.tide.xch.get st).freqBad = false) →
      (passed = false ∨ (c.tide.keepCount = true ∧ 240 < offset.natAbs)) →
      exec (.measureDone beyond count passed east west) s = .next (after s (c.formFail stPlanMismatch))) ∧
    (∀ p, c.ring.inForce = some p → c.ring.form = .measure → c.tide.st = .measuring → c.hopMeasured .e = true → c.hopMeasured .w = true → passed = true →
      (∀ st : Strait, straitMain st = true → farValid (c.planRec.far.get st) = true → (c.str st).isUp = true →
        (c.tide.hop.get st).delay.toNat ≤ p.hopBudget.toNat ∧ (c.tide.xch.get st).freqBad = false) →
      (c.tide.keepCount = false ∨ offset.natAbs ≤ 240) → c.ring.kind ≠ .again →
      ∀ d : Chip, { c with tide := { c.tide with count := if c.tide.keepCount then c.tide.count else count, lead := BitVec.ofNat 32 (leadOf east west), residual := if c.tide.keepCount then BitVec.ofNat 32 (intBits 32 offset) else c.tide.residual, st := if c.tide.refActive = 7 then .holdover else .aligned, holdSince := c.up } } = d →
      exec (.measureDone beyond count passed east west) s = .next (after s (d.clearSlack.formed.formAnswer stOk)))) ∧
  ((c.ring.form = .discover ∨ c.ring.form = .check ∨ c.ring.form = .agree) → c.ring.startTk + 50 * 117500 ≤ c.up → exec .formationTimeout s = .next (after s (c.formFail stTimeout))) ∧
  (c.up < c.ring.startTk + 50 * 117500 → exec .formationTimeout s = .next s)

/-- In a module that runs: wgt.stage takes the refusals in R452's order and else adds a set, not resident, and copies in the background; at its end a failed read or a wrong digest leaves no set, and else the set is resident. wgt.verify refuses and else reads back; at its end a damaged set fails, then poison, then digests that differ, and else the set is verified. wgt.switch takes R114's refusals in order and else makes the set pending with its mark; wgt.drop refuses a set in use and else removes it. A pending set becomes current at its mark and not before. That a failed stage writes nothing, and the order of wgt.switch's refusals, are choices (log 32). -/
def Obligations.WeightSetsAreStagedVerifiedSwitchedAndDropped : Prop :=
  ∀ (s : State) (c : Chip) (who : Issuer) (n : Nat) (busErr : Bool) (q : Req) (num : W16), s.live = true → s.chip = c → issuerNum who = n → BitVec.ofNat 16 (fld (q.w 0) 15 0) = num →
  (Requested c n 0x0500 q → ∀ off len : Nat, (q.w 1).toNat = off → (q.w 2).toNat = len →
    (off % 0x40_0000 ≠ 0 → exec (.wgtStage who busErr) s = .next (after s (c.answer n q stBadArg [] 8))) ∧
    (off % 0x40_0000 = 0 → (len = 0 ∨ len % 64 ≠ 0) → exec (.wgtStage who busErr) s = .next (after s (c.answer n q stBadArg [] 16))) ∧
    (off % 0x40_0000 = 0 → len ≠ 0 → len % 64 = 0 →
      (c.region (fld (q.w 0) 25 16) = none → exec (.wgtStage who busErr) s = .next (after s (c.answer n q stNotPermitted [] 0))) ∧
      (∀ r, c.region (fld (q.w 0) 25 16) = some r →
        ((r.ctx ≠ n ∨ ((c.wset num).map (fun w => w.ctx != n)).getD false = true) → exec (.wgtStage who busErr) s = .next (after s (c.answer n q stNotPermitted [] 0))) ∧
        (r.ctx = n → ((c.wset num).map (fun w => w.ctx != n)).getD false = false →
          ((r.size < off + len ∨ 64 ≤ c.wsets.length) → exec (.wgtStage who busErr) s = .next (after s (c.refuse n q stNoSpace))) ∧
          (off + len ≤ r.size → c.wsets.length < 64 → c.wsets.foldl (fun k w => k + chunksOf w.len) 0 + chunksOf len ≤ 524288 →
            ((c.regionBusy r = true ∨ (c.wset num).isSome = true ∨ c.placeBusy (r.base + off) len = true) → exec (.wgtStage who busErr) s = .next (after s (c.refuse n q stBusy))) ∧
            (c.regionBusy r = false → c.wset num = none → c.placeBusy (r.base + off) len = false →
              (busErr = true → exec (.wgtStage who busErr) s = .next (after s (c.refuse n q stBounds))) ∧
              (busErr = false → ∀ list, scatter (c.hostRead q.ref.toNat q.refLen.toNat) = list →
                ((q.ref = 0 ∨ q.refLen.toNat % 16 ≠ 0 ∨ list.foldl (fun k e => k + e.2) 0 ≠ len) → exec (.wgtStage who busErr) s = .next (after s (c.refuse n q stBadArg))) ∧
                (q.ref ≠ 0 → q.refLen.toNat % 16 = 0 → list.any (fun e => e.1 % 64 != 0 || e.2 % 64 != 0) = false → list.foldl (fun k e => k + e.2) 0 = len →
                  exec (.wgtStage who busErr) s = .next (after s (({ c with wsets := c.wsets ++ [{ num := num, ctx := n, region := r.num, base := r.base + off, len := len, resident := false, verified := false, damaged := false, chunks := [], digest := [], weights := [], clean := [] }] } : Chip).goBg n q (.stage num list))))))))))) ∧
  (Requested c n 0x0501 q →
    (c.wset num = none → exec (.wgtVerify who busErr) s = .next (after s (c.answer n q stBadArg [] 0))) ∧
    (∀ (w : WSet) (k p : Nat), c.wset num = some w → fld (q.w 0) 28 22 = k → fld (q.w 0) 21 16 = p →
      (c.setBusy num = true → exec (.wgtVerify who busErr) s = .next (after s (c.refuse n q stBusy))) ∧
      (c.setBusy num = false → (k = 0 ∨ 64 < k ∨ k ≤ p ∨ w.resident = false) → exec (.wgtVerify who busErr) s = .next (after s (c.answer n q stBadArg [] 0))) ∧
      (c.setBusy num = false → k ≤ 64 → p < k → w.resident = true →
        ((q.ref = 0 ∨ q.refLen.toNat < 64 * k) → exec (.wgtVerify who busErr) s = .next (after s (c.refuse n q stBadArg))) ∧
        (q.ref ≠ 0 → 64 * k ≤ q.refLen.toNat → busErr = true → exec (.wgtVerify who busErr) s = .next (after s (c.refuse n q stBounds))) ∧
        (q.ref ≠ 0 → 64 * k ≤ q.refLen.toNat → busErr = false → exec (.wgtVerify who busErr) s = .next (after s (c.goBg n q (.verify num k p (c.hostRead q.ref.toNat (64 * k)))))))) ) ∧
  (Requested c n 0x0502 q →
    (c.tide.st ≠ .aligned → c.tide.st ≠ .holdover → exec (.wgtSwitch who) s = .next (after s (c.refuse n q stNotPermitted))) ∧
    ((c.tide.st = .aligned ∨ c.tide.st = .holdover) →
      (c.setBusy num = true → exec (.wgtSwitch who) s = .next (after s (c.refuse n q stBusy))) ∧
      (c.setBusy num = false → ((c.wset num).map (fun w => w.resident && w.verified)).getD false = false → exec (.wgtSwitch who) s = .next (after s (c.answer n q stNotPermitted [] 0))) ∧
      (c.setBusy num = false → ((c.wset num).map (fun w => w.resident && w.verified)).getD false = true →
        ((q.w 1).toNat < c.now + 1175 → exec (.wgtSwitch who) s = .next (after s (c.answer n q stBadArg [] 8))) ∧
        (c.now + 1175 ≤ (q.w 1).toNat → (c.ctx n).pendSet.isSome = true → exec (.wgtSwitch who) s = .next (after s (c.refuse n q stBusy))) ∧
        (c.now + 1175 ≤ (q.w 1).toNat → (c.ctx n).pendSet.isSome = false → exec (.wgtSwitch who) s = .next (after s
          ((c.updCtx n (fun x => { x with pendSet := some (num, q.w 1), wmark := q.w 1 })).refuse n q stOk)))))) ∧
  (Requested c n 0x0503 q →
    (c.wset num = none → exec (.wgtDrop who) s = .next (after s (c.answer n q stBadArg [] 0))) ∧
    ((c.wset num).isSome = true → ∀ b, (c.setBusy num || c.setBound num || (c.ctx n).curSet == some num || ((c.ctx n).pendSet.map (fun p => p.1 == num)).getD false) = b →
      (b = true → exec (.wgtDrop who) s = .next (after s (c.refuse n q stBusy))) ∧
      (b = false → exec (.wgtDrop who) s = .next (after s (({ c with wsets := c.wsets.filter (fun w => w.num != num) } : Chip).refuse n q stOk))))) ∧
  ((c.ctx n).pendSet = none → exec (.wsetEffect who) s = .next s) ∧
  (∀ p, (c.ctx n).pendSet = some p →
    (c.now < p.2.toNat → exec (.wsetEffect who) s = .next s) ∧
    (p.2.toNat ≤ c.now → exec (.wsetEffect who) s = .next (after s ((c.updCtx n (fun x => { x with curSet := some p.1, pendSet := none })).freeSet n (c.ctx n).curSet)))) ∧
  (∀ (set : W16) (ep : Bool) (b : Bg) (w : WSet) (list : List (Nat × Nat)), c.stageBg set = some b → c.wset set = some w → b.kind = .stage set list →
    c.keeper.state = .running →
    ((busErr = true ∨ ep = true) → exec (.wgtStageDone set busErr ep) s = .next (after s (({ c with wsets := c.wsets.filter (fun v => v.num != set) } : Chip).endBg b stPoisoned [] 0xFFFF 0))) ∧
    (busErr = false → ep = false → ∀ (d : Chip) (ds : List (List Byte)), c.writePieces [(w.base, list.flatMap (fun e => c.hostRead e.1 e.2), false)] = d → d.chunkDigests w = ds →
      (sha512 ds.flatten = slice b.req.payload 0x18 64 → exec (.wgtStageDone set busErr ep) s = .next (after s
        ((d.setWset { w with resident := true, chunks := ds, digest := sha512 ds.flatten }).endBg b stOk (wordsBytes [mkWord [(0, 32, ds.length)]] ++ sha512 ds.flatten) 0xFFFF 0))) ∧
      (sha512 ds.flatten ≠ slice b.req.payload 0x18 64 → exec (.wgtStageDone set busErr ep) s = .next (after s
        (({ d with wsets := d.wsets.filter (fun v => v.num != set) } : Chip).endBg b stDigest (wordsBytes [mkWord [(0, 32, ds.length)]] ++ sha512 ds.flatten) 0xFFFF 0))))) ∧
  (∀ (set : W16) (b : Bg) (w : WSet) (k p : Nat) (digs : List Byte) (d : Chip), c.verifyBg set = some b → c.wset set = some w →
    b.kind = .verify set k p digs → c.keeper.state = .running → c.scanLp w.base w.len = d →
    (w.damaged = true → exec (.wgtVerifyDone set) s = .next (after s (d.endBg b stDigest [] 0xFFFF 0))) ∧
    (w.damaged = false → d.poisonLp w.base w.len = true → exec (.wgtVerifyDone set) s = .next (after s (d.endBg b stPoisoned [] 0xFFFF 0))) ∧
    (w.damaged = false → d.poisonLp w.base w.len = false →
      ((d.chunkDigests w ≠ w.chunks ∨ w.digest ≠ slice digs (64 * p) 64) → exec (.wgtVerifyDone set) s = .next (after s (d.endBg b stDigest [] 0xFFFF 0))) ∧
      (d.chunkDigests w = w.chunks → w.digest = slice digs (64 * p) 64 → ∀ e, (if w.verified = true then d else d.recheckAnew w.num) = e → exec (.wgtVerifyDone set) s = .next (after s
        ((e.setWset { w with verified := true, weights := sha512 (leBytes 8 k ++ digs), clean := w.chunks.map (fun _ => e.now) }).endBg b stOk (sha512 (leBytes 8 k ++ digs)) 0xFFFF 0)))))

/-- In a module that runs: run.launch refuses with the status and the word that the first failed check names, else the request waits while the image is hashed and loaded. Loaded in time, a poisoned image is ST_POISONED and else the run becomes the active one with its digest; at B − 1,175 tk it is ST_TIMEOUT. At its base mark the run runs and its shift starts at 0. run.status answers the words of R441 or ST_BAD_ARG. run.cancel of a run that is over answers at once and else stops it, or waits for the recovery under way; it ends once every tile has stopped. An event before its mark changes nothing. -/
def Obligations.RunsAreLaunchedLoadedBegunAndCancelled : Prop :=
  ∀ (s : State) (c : Chip) (who : Issuer) (n : Nat) (q : Req), s.live = true → s.chip = c → issuerNum who = n →
  (Requested c n 0x0600 q → ∀ d, (if c.run.isNone && c.launching.isNone && (c.tide.st == .aligned || c.tide.st == .holdover) then c.readImage n (q.w 0).toNat else c) = d →
    (∀ st off, d.launchRefusal n q = some (st, off) → exec (.runLaunch who) s = .next (after s (d.answer n q st [] off))) ∧
    (d.launchRefusal n q = none → ∀ r, d.runFrom n q = some r → exec (.runLaunch who) s = .next (after s (({ d with launching := some r } : Chip).goBg n q (.launch r.num))))) ∧
  ((c.launching = none → exec .runLaunchLoaded s = .next s ∧ exec .launchLoadDeadline s = .next s) ∧
   (∀ r b, c.launching = some r → c.bgOf (fun k => k == .launch r.num) = some b → c.keeper.state = .running →
    (r.base.toNat < c.now + 1175 → exec .runLaunchLoaded s = .next s) ∧
    (c.now + 1175 < r.base.toNat → exec .launchLoadDeadline s = .next s) ∧
    (r.base.toNat ≤ c.now + 1175 → exec .launchLoadDeadline s = .next (after s (c.loseLaunch.endBg b stTimeout [] 0xFFFF 0))) ∧
    (c.now + 1175 ≤ r.base.toNat → c.gensFree r = false → exec .runLaunchLoaded s = .next s) ∧
    (c.now + 1175 ≤ r.base.toNat → c.gensFree r = true → ∀ d, c.scanLp r.image r.size = d →
      (d.poisonLp r.image r.size = true → exec .runLaunchLoaded s = .next (after s (d.loseLaunch.endBg b stPoisoned [] 0xFFFF 0))) ∧
      (d.poisonLp r.image r.size = false → ∀ r', { r with digest := sha512 (d.bytes r.image r.size) } = r' → exec .runLaunchLoaded s = .next (after s ((d.startRun r').endBg b stOk r'.answer 0xFFFF 0)))))) ∧
  ((c.run = none → exec .runBaseMark s = .next s ∧ exec .runCancelDone s = .next s) ∧
   (∀ r, c.run = some r →
    (c.now < r.base.toNat → exec .runBaseMark s = .next s) ∧ (r.baseSeen = true → exec .runBaseMark s = .next s) ∧
    (r.base.toNat ≤ c.now → r.baseSeen = false → ∀ d, c.updRun (fun r => { r with baseSeen := true, state := if r.state = .waiting then .running else r.state }) = d →
      exec .runBaseMark s = .next (after s { d with tide := { d.tide with shift := 0, grid := r.grid, refPeriod := if r.grid then 0x0728 else 0x0E50 } })) ∧
    ((r.cancelling = false ∨ c.stopped r = false) → exec .runCancelDone s = .next s) ∧
    (r.cancelling = true → c.keeper.state = .running → (c.recov.phase = .none ∨ c.recov.phase = .held) → c.stopped r = true → exec .runCancelDone s = .next (after s (c.endAll 1 0))))) ∧
  (Requested c n 0x0601 q →
    (c.runOf (BitVec.ofNat 16 (fld (q.w 0) 15 0)) = none → exec (.runStatus who) s = .next (after s (c.answer n q stBadArg [] 0))) ∧
    (∀ r, c.runOf (BitVec.ofNat 16 (fld (q.w 0) 15 0)) = some r → exec (.runStatus who) s = .next (after s (c.okay n q
      [mkWord [(16, 16, (r.tiles.filter (fun t => (c.tile t).st == .frozen)).length), (0, 3, c.runState r)], addN r.first (r.reached - 1), addN r.first r.committed])))) ∧
  (Requested c n 0x0602 q →
    (c.runOf (BitVec.ofNat 16 (fld (q.w 0) 15 0)) = none → exec (.runCancel who) s = .next (after s (c.answer n q stBadArg [] 0))) ∧
    (∀ r, c.runOf (BitVec.ofNat 16 (fld (q.w 0) 15 0)) = some r →
      ((r.state = .ended ∨ r.state = .cancelled) → exec (.runCancel who) s = .next (after s (c.okay n q (c.runWords r)))) ∧
      (r.state ≠ .ended → r.state ≠ .cancelled →
        (c.runBusy r.num = true → exec (.runCancel who) s = .next (after s (c.refuse n q stBusy))) ∧
        (c.runBusy r.num = false → ∀ d, c.goBg n q (.cancel r.num) = d →
          ((c.recov.phase = .none ∨ c.recov.phase = .held) → exec (.runCancel who) s = .next (after s d.stopRun)) ∧
          (c.recov.phase ≠ .none → c.recov.phase ≠ .held → exec (.runCancel who) s = .next (after s { d with recov := { c.recov with cancelled := true } }))))))

/-- In a module that runs, for the request in hand: obs.counters refuses a range past the last tile, a small buffer and words the issuer may not read, and else writes header and counters at REF. obs.trace configures the pan unless another owns it in use or a field is bad, arms and stops it for its owner only, and reads it out while stopped. obs.watch refuses in R511's order and else adds a watch. obs.harvest returns the newest stored one of a master, whose slot it frees, or one taken at once. That configuring discards the last capture, and that only the owner arms, stops and reads, are choices (log 33). -/
def Obligations.ObservationCommandsAnswer : Prop :=
  ∀ (s : State) (c : Chip) (who : Issuer) (n : Nat) (busErr : Bool) (q : Req), s.live = true → s.chip = c → issuerNum who = n →
  (Requested c n 0x0700 q → ∀ (first count : Nat) (bl : List (Blk × Nat)) (size : Nat), fld (q.w 0) 11 0 = first → fld (q.w 0) 24 12 = count →
    dumpBlocks (fld (q.w 0) 39 32) first count = bl → 64 + bl.foldl (fun k b => k + 8 * b.2) 0 = size →
    (4096 < first + count → exec (.obsCounters who busErr) s = .next (after s (c.answer n q stBadArg [] 0))) ∧
    (first + count ≤ 4096 → q.room < size → exec (.obsCounters who busErr) s = .next (after s (c.refuse n q stBadArg))) ∧
    (first + count ≤ 4096 → size ≤ q.room → bl.any (fun b => (List.range b.2).any (fun i => !c.sees n b.1 (8 * i))) = true →
      exec (.obsCounters who busErr) s = .next (after s (c.answer n q stNotPermitted [] 0))) ∧
    (first + count ≤ 4096 → size ≤ q.room → bl.any (fun b => (List.range b.2).any (fun i => !c.sees n b.1 (8 * i))) = false → exec (.obsCounters who busErr) s = .next (after s
      (c.toRef n q busErr (wordsBytes [c.tide.count, mkWord [(32, 8, fld (q.w 0) 39 32), (12, 13, count), (0, 12, first)], BitVec.ofNat 64 size, 0, 0, 0, 0, 0] ++
        bl.flatMap (fun b => c.blkBytes s.jtag b.1 b.2)) [c.tide.count])))) ∧
  ((c.ctx n).cur = some q → c.serves n = true → q.opcode.toNat = 0x0701 →
    (3 < q.traceOp → exec (.obsTraceConfigure who) s = .next (after s (c.answer n q stBadArg [] 0))) ∧
    (q.traceOp = 0 → fld (q.w 0) 5 4 = 3 → exec (.obsTraceConfigure who) s = .next (after s (c.answer n q stBadArg [] 0))) ∧
    (q.traceOp = 0 → fld (q.w 0) 5 4 ≠ 3 →
      (c.pan.live = true → c.pan.owner ≠ some n → exec (.obsTraceConfigure who) s = .next (after s (c.refuse n q stBusy))) ∧
      ((c.pan.live = false ∨ c.pan.owner = some n) → ∀ cap : Nat, (if q.w 1 = 0 then 524288 else (q.w 2).toNat / 32) = cap →
        ((q.w 1 ≠ 0 ∧ ((q.w 2).toNat = 0 ∨ (q.w 2).toNat % 0x40_0000 ≠ 0 ∨ 0x1_0000_0000 < (q.w 2).toNat)) → exec (.obsTraceConfigure who) s = .next (after s (c.answer n q stBadArg [] 16))) ∧
        (¬(q.w 1 ≠ 0 ∧ ((q.w 2).toNat = 0 ∨ (q.w 2).toNat % 0x40_0000 ≠ 0 ∨ 0x1_0000_0000 < (q.w 2).toNat)) →
          (4096 < fld (q.w 4) 51 39 → exec (.obsTraceConfigure who) s = .next (after s (c.answer n q stBadArg [] 0x20))) ∧
          (fld (q.w 4) 51 39 ≤ 4096 →
            (4 < fld (q.w 5) 63 60 → exec (.obsTraceConfigure who) s = .next (after s (c.answer n q stBadArg [] 0x28))) ∧
            (fld (q.w 5) 63 60 ≤ 4 →
              (c.selAllowed n (fld (q.w 4) 63 52) (fld (q.w 4) 51 39) (fld (q.w 4) 8 0) = false → exec (.obsTraceConfigure who) s = .next (after s (c.answer n q stNotPermitted [] 0x20))) ∧
              (c.selAllowed n (fld (q.w 4) 63 52) (fld (q.w 4) 51 39) (fld (q.w 4) 8 0) = true → ∀ bad : Bool,
                (decide (q.w 1 ≠ 0) && !(inLp (q.w 1).toNat && covered (c.ctxRegions n) (q.w 1).toNat (q.w 2).toNat)) = bad →
                (bad = true → exec (.obsTraceConfigure who) s = .next (after s (c.answer n q stNotPermitted [] 8))) ∧
                (bad = false → (fld (q.w 0) 5 4 = 2 ∧ cap < fld (q.w 3) 31 0 + fld (q.w 3) 63 32 + 2) → exec (.obsTraceConfigure who) s = .next (after s (c.refuse n q stNoSpace))) ∧
                (bad = false → ¬(fld (q.w 0) 5 4 = 2 ∧ cap < fld (q.w 3) 31 0 + fld (q.w 3) 63 32 + 2) → exec (.obsTraceConfigure who) s = .next (after s (({ c with pan := { c.pan with owner := some n, mode := BitVec.ofNat 2 (fld (q.w 0) 5 4), st := .idle, spill := q.w 1, spillSize := if q.w 1 = 0 then 0 else (q.w 2).toNat, post := fld (q.w 3) 63 32, pre := fld (q.w 3) 31 0, sel := [q.w 4, q.w 5, q.w 6, q.w 7], recs := [], total := 0, lostCap := 0, bufs := [] } } : Chip).refuse n q stOk))))))))) ∧
    (q.traceOp = 1 → (c.pan.owner ≠ some n → exec (.obsTraceArm who) s = .next (after s (c.refuse n q stNotPermitted))) ∧
      (c.pan.owner = some n → exec (.obsTraceArm who) s = .next (after s (({ c with pan := c.pan.arm } : Chip).refuse n q stOk)))) ∧
    (q.traceOp = 2 → (c.pan.owner ≠ some n → exec (.obsTraceStop who) s = .next (after s (c.refuse n q stNotPermitted))) ∧
      (c.pan.owner = some n → c.pan.live = false → exec (.obsTraceStop who) s = .next (after s (c.refuse n q stOk))) ∧
      (c.pan.owner = some n → c.pan.live = true → ∀ (bufs : List PanBuf) (d : Chip), c.pan.bufs.map (fun b => { b with recs := b.recs.filter (fun r => decide (fld r.w0 63 16 ≠ c.now % 2 ^ 48)) }) = bufs →
        panDrain (bufs.foldl (fun k b => k + b.recs.length + 2) 0) { c with pan := { c.pan with bufs := bufs } } = d →
        exec (.obsTraceStop who) s = .next (after s (({ d with pan := { d.pan with st := .stopped, bufs := [] } } : Chip).refuse n q stOk)))) ∧
    (q.traceOp = 3 → (c.pan.owner ≠ some n → exec (.obsTraceRead who busErr) s = .next (after s (c.refuse n q stNotPermitted))) ∧
      (c.pan.owner = some n → c.pan.st ≠ .stopped → exec (.obsTraceRead who busErr) s = .next (after s (c.refuse n q stBusy))) ∧
      (c.pan.owner = some n → c.pan.st = .stopped → ∀ bs, c.traceHead ++ c.pan.recs.flatMap TRec.bytes = bs →
        (q.room < bs.length → exec (.obsTraceRead who busErr) s = .next (after s (c.refuse n q stBadArg))) ∧
        (bs.length ≤ q.room → exec (.obsTraceRead who busErr) s = .next (after s (c.toRef n q busErr bs [])))))) ∧
  (Requested c n 0x0702 q →
    (c.run = none → exec (.obsWatch who) s = .next (after s (c.refuse n q stNotPermitted))) ∧
    (∀ (r : Run) (t k step off len : Nat), c.run = some r → fld (q.w 0) 43 32 = t → fld (q.w 0) 49 44 = k → (q.w 1).toNat = step → (q.w 2).toNat = off → (q.w 3).toNat = len →
      ((r.tiles.contains t = false ∨ c.watchTarget r t (fld (q.w 0) 15 0) (fld (q.w 0) 31 16) step = none) → exec (.obsWatch who) s = .next (after s (c.answer n q stBadArg [] 0))) ∧
      (∀ ix, r.tiles.contains t = true → c.watchTarget r t (fld (q.w 0) 15 0) (fld (q.w 0) 31 16) step = some ix →
        ((((c.hnd t k).kind ≠ 1 ∧ (c.hnd t k).kind ≠ 2) ∨ (c.hnd t k).fits off len = false) → exec (.obsWatch who) s = .next (after s (c.answer n q stBounds [] 16))) ∧
        (((c.hnd t k).kind = 1 ∨ (c.hnd t k).kind = 2) → (c.hnd t k).fits off len = true →
          ((len = 0 ∨ len % 64 ≠ 0 ∨ 0x400_0000 < len ∨ q.room < len + 64) → exec (.obsWatch who) s = .next (after s (c.answer n q stBadArg [] 24))) ∧
          (len ≠ 0 → len % 64 = 0 → len ≤ 0x400_0000 → len + 64 ≤ q.room →
            ((c.watches.any (fun v => v.tile == t) = true ∨ 8 ≤ c.watches.length) → exec (.obsWatch who) s = .next (after s (c.answer n q stNotPermitted [] 0))) ∧
            (c.watches.any (fun v => v.tile == t) = false → c.watches.length < 8 → exec (.obsWatch who) s = .next (after s (({ c with watches := c.watches ++ [{ tile := t, ctx := n, handle := k, oper := BitVec.ofNat 16 (fld (q.w 0) 31 16), layer := BitVec.ofNat 16 (fld (q.w 0) 15 0), step := step, off := off, len := len, ref := q.ref, target := ix, fires := 0, ready := !((c.tile t).cmdDone ix ((c.pushes.e ++ c.pushes.w).filter (fun p => p.tile = t))), copying := false }] } : Chip).refuse n q stOk)))))))) ∧
  (Requested c n 0x0703 q → ∀ kind id : Nat, fld (q.w 0) 63 61 = kind → fld (q.w 0) 11 0 = id →
    ((4 < kind ∨ (kind = 1 ∧ 15 < id) ∨ (kind = 2 ∧ 3 < id) ∨ (kind = 3 ∧ 15 < id)) → exec (.obsHarvest who busErr) s = .next (after s (c.answer n q stBadArg [] 0))) ∧
    (¬(4 < kind ∨ (kind = 1 ∧ 15 < id) ∨ (kind = 2 ∧ 3 < id) ∨ (kind = 3 ∧ 15 < id)) →
      (c.harvestOk n kind id = false → exec (.obsHarvest who busErr) s = .next (after s (c.answer n q stNotPermitted [] 0))) ∧
      (c.harvestOk n kind id = true → kind ≠ 4 → ∀ e, c.newestHarvest kind id = some e →
        ((busErr = true ∨ q.room < e.2.bytes.length) → exec (.obsHarvest who busErr) s = .next (after s (c.refuse n q stBounds))) ∧
        (busErr = false → e.2.bytes.length ≤ q.room → exec (.obsHarvest who busErr) s = .next (after s (({ c with harvests := tblErase c.harvests e.1 } : Chip).toRef n q false e.2.bytes [])))) ∧
      (c.harvestOk n kind id = true → (kind = 4 ∨ c.newestHarvest kind id = none) → ∀ bs, c.harvestBytes (BitVec.ofNat 3 kind) id (c.harvestCause kind id) = bs →
        ((busErr = true ∨ q.room < bs.length) → exec (.obsHarvest who busErr) s = .next (after s (c.refuse n q stBounds))) ∧
        (busErr = false → bs.length ≤ q.room → exec (.obsHarvest who busErr) s = .next (after s (c.toRef n q false bs []))))))

/-- In a module that runs: cfg.read refuses a bad address or count, then what the issuer may not see, then what is unmapped, and else answers all words at one tick. A write off alignment is ST_BAD_ARG, to the management page ST_NOT_PERMITTED, to an unmapped address ST_BOUNDS, each with no effect. TIDE_CTRL takes its fields only while FREE, a reserved source code leaving its field; KPR_TRAY only from ctx 0 and MGMT with no run; PWR_CTRL only from ctx 0 and MGMT; any other register is only cleared in the W1C bits written as 1. cfg.write answers the status; the register write rows have the same effect. -/
def Obligations.RegistersAreReadAndWrittenByTheirRules : Prop :=
  (∀ (s : State) (c : Chip) (who : Issuer) (n : Nat) (q : Req) (a k : Nat), s.live = true → s.chip = c → issuerNum who = n → Requested c n 0x0900 q → (q.w 0).toNat = a → fld (q.w 1) 8 0 = k →
    (a % 8 ≠ 0 → exec (.cfgRead who) s = .next (after s (c.answer n q stBadArg [] 0))) ∧
    (a % 8 = 0 → (k = 0 ∨ 504 < k) → exec (.cfgRead who) s = .next (after s (c.answer n q stBadArg [] 8))) ∧
    (a % 8 = 0 → k ≠ 0 → k ≤ 504 → ∀ ws, (List.range k).map (fun i => c.cfgWord s.jtag n (a + 8 * i)) = ws →
      (ws.any (fun w => (w.map (fun x => !x.1)).getD false) = true → exec (.cfgRead who) s = .next (after s (c.answer n q stNotPermitted [] 0))) ∧
      (ws.any (fun w => (w.map (fun x => !x.1)).getD false) = false → ws.any (fun w => w.isNone) = true → exec (.cfgRead who) s = .next (after s (c.answer n q stBounds [] 0))) ∧
      (ws.any (fun w => (w.map (fun x => !x.1)).getD false) = false → ws.any (fun w => w.isNone) = false → exec (.cfgRead who) s = .next (after s (c.okay n q (ws.map (fun w => (w.map (fun x => x.2)).getD 0))))))) ∧
  (∀ (s : State) (c : Chip) (who : Issuer) (n : Nat) (a : Addr) (v : W64) (st : W16) (d : Chip), s.live = true → s.chip = c → issuerNum who = n →
    ((a.toNat % 8 ≠ 0 ∧ st = stBadArg ∧ d = c) ∨
     (a.toNat % 8 = 0 ∧ 0x10_0000 ≤ a.toNat ∧ a.toNat < 0x11_0000 ∧ st = stNotPermitted ∧ d = c) ∨
     (a.toNat % 8 = 0 ∧ 0x100_0000 ≤ a.toNat ∧ a.toNat < 0x120_0000 ∧ st = stOk ∧ d = c) ∨
     (a.toNat % 8 = 0 ∧ ¬(0x10_0000 ≤ a.toNat ∧ a.toNat < 0x11_0000) ∧ ¬(0x100_0000 ≤ a.toNat ∧ a.toNat < 0x120_0000) ∧ c.ctlWord s.jtag a.toNat = none ∧ st = stBounds ∧ d = c) ∨
     (a = 0x20_0000 ∧ c.tide.st ≠ .free ∧ st = stNotPermitted ∧ d = c) ∨
     (a = 0x20_0000 ∧ c.tide.st = .free ∧ st = stOk ∧ ∃ t : Tide, t = { c.tide with refOutEn := bit v 15, refSec := if fld v 14 12 = 6 then c.tide.refSec else BitVec.ofNat 3 (fld v 14 12), refPri := if 6 ≤ fld v 10 8 then c.tide.refPri else BitVec.ofNat 3 (fld v 10 8), master := bit v 0 } ∧
       d = { c with tide := { t with refActive := if t.pllLock then (t.pick).getD 7 else t.refActive } }) ∨
     (0x20_2000 ≤ a.toNat ∧ a.toNat < 0x20_3000 ∧ a.toNat % 8 = 0 ∧ (c.ctlWord s.jtag a.toNat).isSome = true ∧ ¬((n = 0 ∨ n = 16) ∧ c.run = none) ∧ st = stNotPermitted ∧ d = c) ∨
     (0x20_2000 ≤ a.toNat ∧ a.toNat < 0x20_3000 ∧ a.toNat % 8 = 0 ∧ (c.ctlWord s.jtag a.toNat).isSome = true ∧ (n = 0 ∨ n = 16) ∧ c.run = none ∧ st = stOk ∧ d = trayReg (a.toNat - 0x20_2000) v c) ∨
     (a = 0x20_5008 ∧ ¬(n = 0 ∨ n = 16) ∧ st = stNotPermitted ∧ d = c) ∨
     (a = 0x20_5008 ∧ (n = 0 ∨ n = 16) ∧ st = stOk ∧ d = { c with pwr := { c.pwr with led := BitVec.ofNat 2 (fld v 1 0) } }) ∨
     (a.toNat % 8 = 0 ∧ (c.ctlWord s.jtag a.toNat).isSome = true ∧ ownRow a.toNat = false ∧ st = stOk ∧ ∃ b o, blkOf a.toNat = some (b, o) ∧ d = c.clear b o v)) →
    (∀ q, Requested c n 0x0901 q → (q.w 0).toNat = a.toNat → q.w 1 = v → exec (.cfgWrite who) s = .next (after s (d.answer n q st [] (if st = stOk then 0xFFFF else 0)))) ∧
    (ownRow a.toNat = false → exec (.registerWrite who a v) s = .next (after s d)) ∧
    (a = 0x20_0000 → exec (.tideCtrlWrite who v) s = .next (after s d)) ∧
    (∀ off : BitVec 12, a.toNat = 0x20_2000 + off.toNat → exec (.kprTrayWrite who off v) s = .next (after s d)) ∧
    (a = 0x20_5008 → exec (.pwrCtrlWrite who v) s = .next (after s d))) ∧
  (∀ (v : W64) (c : Chip) (k : Nat), k < 16 →
    trayReg 0 v c = { c with tray := { c.tray with valid := BitVec.ofNat 16 (fld v 31 16), enable := bit v 4, self := BitVec.ofNat 4 (fld v 3 0) } } ∧
    trayReg (0x40 + 8 * k) v c = { c with tray := { c.tray with rid := tblPut 0 c.tray.rid k (BitVec.ofNat 16 (fld v 15 0)) } } ∧
    trayReg (0x100 + 8 * k) v c = { c with tray := { c.tray with bar2 := tblPut 0 c.tray.bar2 k (BitVec.ofNat 32 (fld v 63 32)) } } ∧
    trayReg (0x180 + 8 * k) v c = { c with tray := { c.tray with bar4 := tblPut 0 c.tray.bar4 k (BitVec.ofNat 24 (fld v 63 40)) } })

/-- In a module that runs, for the request in hand: sec.attest answers with the report at REF, or refuses without identity or room. sec.update refuses a reserved target, a bad buffer, firmware without valid settings and a second update, and else erases the slot and copies in the background; at its end the slot is compared and checked, and only a good image enters the boot state record. A watchdog expiry forces a slack, keeps the unanswered requests and resets the Keeper, or halts it on a second within 1 s; the restart loses the generations, writes the EVENT_LOSS record first, answers the kept requests ST_TIMEOUT and raises KEEPER_RESTART. Which slot an update takes, and when it is erased, are choices (log 36). -/
def Obligations.AttestationUpdatesAndTheKeeperRestart : Prop :=
  ∀ (s : State) (c : Chip) (who : Issuer) (n : Nat) (busErr : Bool) (q : Req), s.live = true → s.chip = c → issuerNum who = n →
  (Requested c n 0x0800 q →
    (c.boot.identityOk = false → exec (.secAttest who busErr) s = .next (after s (c.refuse n q stNotPermitted))) ∧
    (c.boot.identityOk = true → q.room < 1536 → exec (.secAttest who busErr) s = .next (after s (c.refuse n q stBounds))) ∧
    (c.boot.identityOk = true → 1536 ≤ q.room → busErr = true → exec (.secAttest who busErr) s = .next (after s (({ c with fresh := ⟨c.fresh.n + 1⟩ } : Chip).refuse n q stBounds))) ∧
    (c.boot.identityOk = true → 1536 ≤ q.room → busErr = false → ∀ bs, c.report (q.payload.take 32) (bit (q.w 4) 0) = bs →
      exec (.secAttest who busErr) s = .next (after s ((({ c with fresh := ⟨c.fresh.n + 1⟩ } : Chip).hostWrite q.ref.toNat bs).answerRef n q stOk (wordsBytes [1536]) bs.length)))) ∧
  (Requested c n 0x0801 q → ∀ (t : BitVec 2) (len : Nat), BitVec.ofNat 2 (fld (q.w 0) 1 0) = t → q.refLen.toNat = len →
    (2 ≤ t.toNat → exec (.secUpdate who busErr) s = .next (after s (c.answer n q stBadArg [] 0))) ∧
    (t.toNat < 2 → (q.ref = 0 ∨ (t = 0 ∧ 0x180_0000 < len) ∨ (t = 1 ∧ len ≠ 1280)) → exec (.secUpdate who busErr) s = .next (after s (c.refuse n q stBadArg))) ∧
    (t.toNat < 2 → ¬(q.ref = 0 ∨ (t = 0 ∧ 0x180_0000 < len) ∨ (t = 1 ∧ len ≠ 1280)) →
      (t = 0 → c.boot.setValid = false → exec (.secUpdate who busErr) s = .next (after s (c.refuse n q stNotPermitted))) ∧
      ((t = 1 ∨ c.boot.setValid = true) →
        (c.updateBg.isSome = true → exec (.secUpdate who busErr) s = .next (after s (c.refuse n q stBusy))) ∧
        (c.updateBg.isSome = false → busErr = true → exec (.secUpdate who busErr) s = .next (after s (c.refuse n q stBounds))) ∧
        (c.updateBg.isSome = false → busErr = false → exec (.secUpdate who busErr) s = .next (after s ((c.norErase (c.updateAt t).1 (c.updateAt t).2).goBg n q (.update t (c.hostRead q.ref.toNat len)))))))) ∧
  (c.updateBg = none → exec .secUpdateDone s = .next s) ∧
  (∀ (b : Bg) (t : BitVec 2) (img : List Byte), c.updateBg = some b → b.kind = .update t img →
    (c.serves b.who = false → exec .secUpdateDone s = .next s) ∧
    (c.serves b.who = true → ∀ d, c.norProg (c.updateAt t).1 img = d →
      (d.hostRead b.req.ref.toNat img.length ≠ img → exec .secUpdateDone s = .next (after s (d.endBg b stDigest [] 0xFFFF 0))) ∧
      (d.hostRead b.req.ref.toNat img.length = img → d.updateVerdict t img ≠ .ok → exec .secUpdateDone s = .next (after s (d.endBg b (d.updateVerdict t img).status [] 0xFFFF 0))) ∧
      (d.hostRead b.req.ref.toNat img.length = img → d.updateVerdict t img = .ok → exec .secUpdateDone s = .next (after s
        ((d.nextBootRec (fun r => if t = 0 then { r with trialValid := true, trial := c.updateSlot t, attempts := 0 } else { r with set := c.updateSlot t })).endBg b stOk [] 0xFFFF 0))))) ∧
  ((c.keeper.state = .running ∨ c.keeper.state = .restarting) → ∀ d, (c.forceSlack 0x07).loseRequests = d → ∀ k : KState,
    (((c.keeper.lastExpiry.map (fun t => decide (c.up ≤ t + 117500000))).getD false = true ∧ k = .halted) ∨
     ((c.keeper.lastExpiry.map (fun t => decide (c.up ≤ t + 117500000))).getD false = false ∧ k = .restarting)) →
    exec .watchdogExpiry s = .next (after s { d with keeper := { d.keeper with state := k, lastExpiry := some d.up, expiryCount := d.tide.count } })) ∧
  ((c.keeper.state ≠ .running ∧ c.keeper.state ≠ .restarting) → exec .watchdogExpiry s = .next s) ∧
  (c.keeper.state ≠ .restarting → exec .keeperRestart s = .next s) ∧
  (c.keeper.state = .restarting → c.boot.memOk = false → exec .keeperRestart s = .next (after s { c with keeper := { c.keeper with state := .halted } })) ∧
  (c.keeper.state = .restarting → c.boot.memOk = true → ∀ d e f g : Chip,
    { c with keeper := { c.keeper with state := .running, restartCnt := c.keeper.restartCnt + 1, wdtExpired := true, lostReqs := [] } } = d →
    (((List.range 17).filter d.isOpen).foldl (fun c n => c.updCtx n (fun x => { x with gen := x.gen + 1 })) d).lossRecord = e → c.keeper.lostReqs.foldl (fun c q => c.respond q.1 q.2 stTimeout [] 0xFFFF 0) e = f → f.evMod 0x0701 f.keeper.restartCnt f.keeper.expiryCount = g →
    exec .keeperRestart s = .next (after s (g.keeper.closing.foldl (fun c n => (c.closeReqs n).closeRun n) g)))

/-- In a module that runs, for every strait: presence brings a strait from DOWN to DETECT; detection moves it to EQUALISE within 1 ms with 4 far receivers or more, equalisation to ALIGN within 8 ms with its lanes and a CREDIT, alignment to IDENTIFY within 1 ms with its width and a PROBE, or DOWN where no group of lanes qualifies; each timeout takes it DOWN, and a retry is due 10 ms later. In UP a lost codeword lock or 1,024 flit times of silence start a RETRAIN; a strait that goes DOWN from IDENTIFY, UP or RETRAIN, and one that loses codeword lock, is no valid reference source from then on; within 150 µs it is UP again, never wider, with its unacknowledged flits to send, else it goes DOWN with its link. In any other state, or before its time, an event changes nothing. -/
def Obligations.StraitTrainingMovesByItsEvents : Prop :=
  ∀ (s : State) (c : Chip) (st : Strait) (x : Str), s.live = true → s.chip = c → c.str st = x →
  (x.train = .down → x.noRetry = false → exec (.cablePresent st) s = .next (after s (c.updStr st (fun y => { y with present := true, train := .detect, since := c.up })))) ∧
  ((x.train ≠ .down ∨ x.noRetry = true) → exec (.cablePresent st) s = .next (after s (c.updStr st (fun y => { y with present := true })))) ∧
  ((x.train = .up ∨ x.train = .retrain) → exec (.cableRemoved st) s = .next (after s ((c.updStr st (fun y => { y with present := false })).linkDown st 1))) ∧
  (x.train = .down → exec (.cableRemoved st) s = .next (after s (c.updStr st (fun y => { y with present := false })))) ∧
  ((x.train = .detect ∨ x.train = .equalise ∨ x.train = .align ∨ x.train = .identify) → exec (.cableRemoved st) s = .next (after s
    (((c.updStr st (fun y => { y with present := false })).updStr st (fun y => y.toDown c.up)).lockLost st))) ∧
  (∀ (i : Instr) (t : Train) (ms : Nat), ((i = .detectTimeout st ∧ t = .detect ∧ ms = 1) ∨ (i = .equaliseTimeout st ∧ t = .equalise ∧ ms = 8) ∨ (i = .alignTimeout st ∧ t = .align ∧ ms = 1)) →
    (x.train = t → ms * 117500 ≤ c.up - x.since → exec i s = .next (after s (c.updStr st (fun y => y.toDown c.up)))) ∧
    ((x.train ≠ t ∨ c.up - x.since < ms * 117500) → exec i s = .next s)) ∧
  (x.train = .identify → x.probeSeen = false → 117500 ≤ c.up - x.since → exec (.identifyTimeout st) s = .next (after s ((c.updStr st (fun y => y.toDown c.up)).lockLost st))) ∧
  ((x.train ≠ .identify ∨ x.probeSeen = true ∨ c.up - x.since < 117500) → exec (.identifyTimeout st) s = .next s) ∧
  (∀ t, x.train = .down → x.present = true → x.noRetry = false → x.retryAt = some t →
    (t ≤ c.up → exec (.detectRetry st) s = .next (after s (c.updStr st (fun y => { y with train := .detect, since := c.up, retryAt := none })))) ∧
    (c.up < t → exec (.detectRetry st) s = .next s)) ∧
  ((x.train ≠ .down ∨ x.present = false ∨ x.noRetry = true ∨ x.retryAt = none) → exec (.detectRetry st) s = .next s) ∧
  (∀ lanes : BitVec 16, (x.train = .detect → 4 ≤ popCount lanes → c.up - x.since ≤ 117500 →
      exec (.detectDone st lanes) s = .next (after s (c.updStr st (fun y => { y with train := .equalise, since := c.up })))) ∧
    ((x.train ≠ .detect ∨ popCount lanes < 4 ∨ 117500 < c.up - x.since) → exec (.detectDone st lanes) s = .next s) ∧
    (x.train = .equalise → c.up - x.since ≤ 8 * 117500 → exec (.equaliseDone st lanes) s = .next (after s ((c.updStr st (fun y => { y with laneOk := lanes })).startAlign st))) ∧
    ((x.train ≠ .equalise ∨ 8 * 117500 < c.up - x.since) → exec (.equaliseDone st lanes) s = .next s) ∧
    (x.train = .retrain → c.up - x.since ≤ 17625 → widthOf lanes ≠ 3 → ∀ (w : BitVec 2) (d : Chip), (if x.width.toNat ≤ (widthOf lanes).toNat then widthOf lanes else x.width) = w →
      c.setStr st { x with train := .up, since := c.up, laneOk := lanes, width := w, resend := x.replay, lastGood := c.up, degraded := x.degraded || decide (w ≠ x.width) } = d →
      (w = x.width → exec (.retrainDone st lanes) s = .next (after s (d.sendProbe st))) ∧
      (w ≠ x.width → exec (.retrainDone st lanes) s = .next (after s ((d.evStr st 0x0602 (mkWord [(32, 16, lanes.toNat), (14, 2, w.toNat)]) 0).sendProbe st)))) ∧
    ((x.train ≠ .retrain ∨ 17625 < c.up - x.since ∨ widthOf lanes = 3) → exec (.retrainDone st lanes) s = .next s)) ∧
  (∀ rev : Bool, x.train = .align → c.up - x.since ≤ 117500 → 0 < x.farBuf.m →
    (widthOf x.laneOk = 3 → exec (.alignDone st rev) s = .next (after s (c.updStr st (fun y => y.toDown c.up)))) ∧
    (widthOf x.laneOk ≠ 3 → exec (.alignDone st rev) s = .next (after s
      ((c.updStr st (fun y => { y with train := .identify, since := c.up, width := widthOf x.laneOk, reversed := rev })).sendProbe st)))) ∧
  (∀ rev : Bool, (x.train ≠ .align ∨ 117500 < c.up - x.since ∨ x.farBuf.m = 0) → exec (.alignDone st rev) s = .next s) ∧
  (x.train = .up → exec (.fecLockLoss st) s = .next (after s ((c.enterRetrain st).lockLost st)) ∧
    (silenceTk x.width ≤ c.up - x.lastGood → exec (.crcSilenceTimeout st) s = .next (after s (c.enterRetrain st))) ∧
    (c.up - x.lastGood < silenceTk x.width → exec (.crcSilenceTimeout st) s = .next s)) ∧
  (x.train ≠ .up → exec (.fecLockLoss st) s = .next s ∧ exec (.crcSilenceTimeout st) s = .next s) ∧
  (x.train = .retrain → 17625 ≤ c.up - x.since → exec (.retrainTimeout st) s = .next (after s (c.linkDown st 2))) ∧
  ((x.train ≠ .retrain ∨ c.up - x.since < 17625) → exec (.retrainTimeout st) s = .next s)

/-- In a module that runs: a flit on a strait that is neither in ALIGN, IDENTIFY nor UP changes nothing; one whose CRC fails sets NAK; one whose CRC holds acknowledges, may start a repeat and returns credits, and then the expected data flit is delivered, one already accepted is passed over, and any other, or one with an uncorrectable codeword, sets NAK. The corrected symbols are counted in each case. A strait without VC-C or VC-M credit for 1 ms raises its stall and freezes, cause 0x06; before that, and when frozen already, nothing changes. That a flit whose CRC fails is treated as a failed data flit is the model's choice (log 22). -/
def Obligations.FlitsAreAcceptedRepeatedOrRefused : Prop :=
  (∀ (s : State) (c : Chip) (st : Strait) (bytes : List Byte) (n : Nat) (bad : Bool), s.live = true → s.chip = c →
    ((c.str st).train ≠ .align → (c.str st).train ≠ .identify → (c.str st).train ≠ .up → exec (.flitReceive st bytes n bad) s = .next s) ∧
    (((c.str st).train = .align ∨ (c.str st).train = .identify ∨ (c.str st).train = .up) → ∀ (d : Chip) (h : W64),
      c.setStr st { c.str st with fecCorr := addN (c.str st).fecCorr n, fecUncorr := addN (c.str st).fecUncorr (b2n bad) } = d → wordAt bytes 0 = h →
      (crc64 (slice bytes 0 248) ≠ leNat (slice bytes 248 8) → exec (.flitReceive st bytes n bad) s = .next (after s (d.badFlit st true))) ∧
      (crc64 (slice bytes 0 248) = leNat (slice bytes 248 8) → ∀ e f : Chip, (d.updStr st (fun x => { x with lastGood := c.up })).takeAck st (BitVec.ofNat 12 (fld h 51 40)) = e →
        e.updStr st (fun x => (x.takeNak (bit h 39)).takeCred (BitVec.ofNat 2 (fld h 34 33)) (BitVec.ofNat 9 (fld h 32 24)) e.up) = f →
        (fld h 7 5 ≠ 1 → exec (.flitReceive st bytes n bad) s = .next (after s f)) ∧
        (fld h 7 5 = 1 → ∀ (q w : BitVec 12), BitVec.ofNat 12 (fld h 63 52) = q → (f.str st).expSeq = w →
          (q = w → bad = false → exec (.flitReceive st bytes n bad) s = .next (after s
            ((f.updStr st (fun x => { x with expSeq := w + 1, nakOut := false, nakRuns := 0, rxFlits := x.rxFlits + 1 })).deliverFlit st (BitVec.ofNat 2 (fld h 38 37)) (bit h 36) (bit h 35)
              (slice bytes 8 (fld h 23 16)) (BitVec.ofNat 8 (fld h 15 8))))) ∧
          (q = w → bad = true → exec (.flitReceive st bytes n bad) s = .next (after s (f.badFlit st true))) ∧
          (q ≠ w → (w - q).toNat < 2048 → exec (.flitReceive st bytes n bad) s = .next (after s f)) ∧
          (q ≠ w → 2048 ≤ (w - q).toNat → exec (.flitReceive st bytes n bad) s = .next (after s (f.badFlit st false))))))) ∧
  (∀ (s : State) (c : Chip) (st : Strait) (t : Nat), s.live = true → s.chip = c →
    ((∀ u, ((c.str st).noCreditC = some u ∨ (c.str st).noCreditM = some u) → c.up < u + 117500) → exec (.creditStallTimeout st) s = .next s) ∧
    ((c.str st).frozen = true → exec (.creditStallTimeout st) s = .next s) ∧
    (((c.str st).noCreditC = some t ∨ ((c.str st).noCreditC = none ∧ (c.str st).noCreditM = some t)) → t + 117500 ≤ c.up → (c.str st).frozen = false →
      exec (.creditStallTimeout st) s = .next (after s ((c.evStr st 0x0204 (mkWord [(40, 8, 7)]) (BitVec.ofNat 64 t)).freezeStr st 0x06 0 0))))

/-- In a module that runs, for the oldest ferry of a strait: a malformed one freezes the strait, cause 0x02; a body that breaks its layout too; one that R99 finds unplanned freezes it, cause 0x01; a stale one is dropped and counted; one whose reservation is not yet live is held; one of the live reservation is ready to land. A ready ferry's bytes land in its berth, its place and buffer credits are freed, and its count is added to the sync object it names, or freezes the strait where the object does not take it. A held ferry at the stall limit raises its stall once and freezes the tiles whose reads keep the reservation. With no ferry at the head nothing changes. The freeze for a count not taken is the model's choice. -/
def Obligations.FerriesLandInTheirBerths : Prop :=
  ∀ (s : State) (c : Chip) (st : Strait), s.live = true → s.chip = c →
  (c.headRx st 0 1 (fun _ => true) = none → exec (.ferry st) s = .next s ∧ exec (.ferryWritten st) s = .next s) ∧
  (∀ r, c.headRx st 0 1 (fun _ => true) = some r → txnBodyOk r.txn.bytes = false →
    exec (.ferry st) s = .next (after s ((c.popRx st 0).freezeBy st 0x02 r.txn.bytes 0)) ∧ exec (.ferryWritten st) s = .next (after s ((c.popRx st 0).freezeBy st 0x02 r.txn.bytes 0))) ∧
  (∀ r, c.headRx st 0 1 (fun _ => true) = some r → txnBodyOk r.txn.bytes = true →
    (r.ready = true → exec (.ferry st) s = .next s) ∧ (r.ready = false → exec (.ferryWritten st) s = .next s) ∧
    (r.ready = false →
      (c.judgeFerry st r = .malformed → exec (.ferry st) s = .next (after s ((c.popRx st 0).freezeBy st 0x02 r.txn.bytes 0))) ∧
      (c.judgeFerry st r = .unplanned → exec (.ferry st) s = .next (after s ((c.popRx st 0).freezeBy st 0x01 r.txn.bytes 0))) ∧
      (c.judgeFerry st r = .stale → exec (.ferry st) s = .next (after s ((c.popRx st 0).updStr st (fun x => { x with ferryStale := x.ferryStale + 1 })))) ∧
      (∀ k, c.judgeFerry st r = .held k → exec (.ferry st) s = .next (after s (c.updStr st (fun x => x.markHead 0 (fun r => { r with held := true }))))) ∧
      (∀ k, c.judgeFerry st r = .write k → exec (.ferry st) s = .next (after s (c.updStr st (fun x => x.markHead 0 (fun r => { r with held := false, ready := true })))))) ∧
    (∀ (k : Nat) (run : Run) (b : Berth) (ix : Nat), r.ready = true → c.judgeFerry st r = .write k → c.run = some run → run.berths[k]? = some b →
      fld (wordAt r.txn.bytes 8) 15 4 = ix →
      (c.shutRange (b.base + ix * b.flen * 64) (r.txn.bytes.drop 32).length = true → exec (.ferryWritten st) s = .next s) ∧
      (c.shutRange (b.base + ix * b.flen * 64) (r.txn.bytes.drop 32).length = false → c.reachable (b.base + ix * b.flen * 64) (r.txn.bytes.drop 32).length = false →
        exec (.ferryWritten st) s = .next (after s ((c.popRx st 0).freezeBy st 0x01 r.txn.bytes (b.base + ix * b.flen * 64))))) ∧
    (∀ (k : Nat) (run : Run) (b : Berth) (ix : Nat) (data : List Byte) (w2 : W64) (d : Chip), r.ready = true → c.judgeFerry st r = .write k → c.run = some run → run.berths[k]? = some b →
      fld (wordAt r.txn.bytes 8) 15 4 = ix → r.txn.bytes.drop 32 = data → wordAt r.txn.bytes 16 = w2 →
      c.shutRange (b.base + ix * b.flen * 64) data.length = false → c.reachable (b.base + ix * b.flen * 64) data.length = true →
      (((c.landRaw otherReader (b.base + ix * b.flen * 64) data (piecesBad r.txn.poison)).updBerth k (fun b => { b with got := setAdd b.got ix })).popRx st 0).traceCmd 6 (straitNum st) 2 0 0 0 0 (BitVec.ofNat 64 data.length) 0 = d →
      (fld w2 17 12 = 63 → exec (.ferryWritten st) s = .next (after s d)) ∧
      (fld w2 17 12 ≠ 63 → (d.runsOn (fld w2 29 18) = false ∨ d.syncApply (rankStrait st) (fld w2 29 18) (fld w2 17 12) (.count data.length 1) 3 3 = none) →
        exec (.ferryWritten st) s = .next (after s (d.freezeBy st 0x01 r.txn.bytes (portAddr (fld w2 29 18) (fld w2 17 12))))) ∧
      (fld w2 17 12 ≠ 63 → d.runsOn (fld w2 29 18) = true → ∀ e, d.syncApply (rankStrait st) (fld w2 29 18) (fld w2 17 12) (.count data.length 1) 3 3 = some e → exec (.ferryWritten st) s = .next (after s e)))) ∧
  (∀ (r : RxTxn) (rest : List RxTxn) (run : Run) (k from_ : Nat), (c.str st).rxF = r :: rest → c.run = some run → c.judgeFerry st r = .held k →
    c.mark (run.steps.getD ((BitVec.ofNat 32 (fld (wordAt r.txn.bytes 8) 63 32) - run.first.setWidth 32).toNat) run.endOff) = from_ →
    ((r.stalled = true ∨ r.held = false ∨ c.now < c.stallLimit from_) → exec (.ferryHoldStall st) s = .next s) ∧
    (r.stalled = false → r.held = true → c.stallLimit from_ ≤ c.now → ∀ d, (c.updStr st (fun x => x.markHead 0 (fun r => { r with stalled := true }))).evStr st 0x0204 (mkWord [(40, 8, 6)]) (BitVec.ofNat 64 from_) = d →
      (∀ b, run.berths[k]? = some b → exec (.ferryHoldStall st) s = .next (after s ((d.openReads b).foldl (fun c e => c.freezeTile e.1 0x0C e.2.id e.2.opB false) d))) ∧
      (run.berths[k]? = none → exec (.ferryHoldStall st) s = .next (after s d)))) ∧
  (((c.str st).rxF = [] ∨ c.run = none) → exec (.ferryHoldStall st) s = .next s)

/-- In a module that runs, for the oldest RWRITE of a strait: with none at the head nothing changes; a broken layout, a bad coded length and flags or counts that do not belong are malformed, cause 0x02; a record of an earlier generation of its tile is discarded and counted; on a cross strait without a run it waits; one to the attention windows goes there; without a run, outside the exports, to what is unreachable, or with an update its object does not take, it is unplanned, cause 0x01; one that cuts a coded group is malformed. While a refresh window shuts a channel it needs it waits. Else it is written, accumulated where it says so, and its LAST is traced, counted and acknowledged, and a cross strait's is recorded for the attention unit; a sum that is not taken is unplanned. -/
def Obligations.RemoteWritesAreJudgedLandedAndCounted : Prop :=
  ∀ (s : State) (c : Chip) (st : Strait), s.live = true → s.chip = c →
  (c.headRx st 1 2 (fun _ => true) = none → exec (.rwrite st) s = .next s) ∧
  (∀ r, c.headRx st 1 2 (fun _ => true) = some r → txnBodyOk r.txn.bytes = false → exec (.rwrite st) s = .next (after s ((c.popRx st 1).freezeBy st 0x02 r.txn.bytes 0))) ∧
  (∀ (r : RxTxn) (bs : List Byte) (w1 w2 w3 : W64) (fl a n t o : Nat), c.headRx st 1 2 (fun _ => true) = some r → txnBodyOk bs = true → r.txn.bytes = bs → wordAt bs 8 = w1 → wordAt bs 16 = w2 → wordAt bs 24 = w3 → txnFlags bs = fl →
    fld w1 47 0 = a → (if fld w1 59 58 = 0 then txnLen bs else 4096) = n → fld w2 29 18 = t → fld w2 17 12 = o → ∀ bad : Bool,
    ((decide (fld w1 59 58 ≠ 0) && (decide (txnLen bs ≠ cdcLen (fld w1 59 58)) || decide (a % 4096 ≠ 0))) ||
      ((decide (fl / 2 % 2 = 1) && !decide (fl % 2 = 1)) || (!decide (fl % 2 = 1) && (decide (fld w3 63 48 ≠ 0) || decide (fld w3 31 0 ≠ 0))))) = bad →
    (bad = true → exec (.rwrite st) s = .next (after s ((c.popRx st 1).freezeBy st 0x02 bs a))) ∧
    ∀ stale : Bool, (!straitMain st && decide (fl % 2 = 1) && (c.recordFor st t (BitVec.ofNat 16 (fld w2 63 48)) a).isSome && c.staleId t (BitVec.ofNat 16 (fld w2 63 48))) = stale →
    (bad = false → stale = true → exec (.rwrite st) s = .next (after s (((c.popRx st 1).updTile t (fun x => { x with cnt := { x.cnt with stale := x.cnt.stale + 1 } })).recordBack st t (BitVec.ofNat 16 (fld w2 63 48)) a))) ∧
    (bad = false → stale = false → c.waitsForRun st = true → exec (.rwrite st) s = .next (after s (c.updStr st (fun x => x.markHead 1 (fun r => { r with held := true }))))) ∧
    (bad = false → stale = false → c.waitsForRun st = false → 0x0100_0000 ≤ a → a < 0x0120_0000 → exec (.rwrite st) s = .next (after s (c.windowWrite st r))) ∧
    (bad = false → stale = false → c.waitsForRun st = false → (a < 0x0100_0000 ∨ 0x0120_0000 ≤ a) →
      (c.run = none → exec (.rwrite st) s = .next (after s ((c.popRx st 1).freezeBy st 0x01 bs a))) ∧
      (∀ run, c.run = some run →
        ((run.mayWrite (fun x => x.names st) (decide (4 ≤ fl)) a n = false ∨ c.reachable a n = false) → exec (.rwrite st) s = .next (after s ((c.popRx st 1).freezeBy st 0x01 bs a))) ∧
        (run.mayWrite (fun x => x.names st) (decide (4 ≤ fl)) a n = true → c.reachable a n = true →
          (fl % 2 = 1 → o ≠ 63 → c.maySync (fun x => x.names st) t o (.count (fld w3 31 0) (fld w3 63 48)) = false →
            exec (.rwrite st) s = .next (after s ((c.popRx st 1).freezeBy st 0x01 bs (portAddr t o)))) ∧
          ((fl % 2 ≠ 1 ∨ o = 63 ∨ c.maySync (fun x => x.names st) t o (.count (fld w3 31 0) (fld w3 63 48)) = true) →
            (c.partGroup a n = true → exec (.rwrite st) s = .next (after s ((c.popRx st 1).freezeBy st 0x02 bs a))) ∧
            (c.partGroup a n = false → c.shutRange a n = true → exec (.rwrite st) s = .next s) ∧
            (c.partGroup a n = false → c.shutRange a n = false → ∀ (d : Chip) (raw : Chip × List Byte × (Nat → Nat → Bool)), c.rwriteRaw st r = raw → raw.1.popRx st 1 = d →
              (fl < 4 → ∀ e f : Chip, (if fl % 2 = 1 then (d.landRaw otherReader a raw.2.1 raw.2.2).traceCmd 6 (straitNum st) 2 1 (fld w2 63 48) 0 0 w3 0 else d.landRaw otherReader a raw.2.1 raw.2.2) = e →
                (if fl % 2 = 1 then e.rwriteLast st bs else e) = f →
                exec (.rwrite st) s = .next (after s (if fl % 2 = 1 ∧ straitMain st = false then f.recordBack st t (BitVec.ofNat 16 (fld w2 63 48)) a else f))) ∧
              (4 ≤ fl → ∀ put, d.aowArrive (a, raw.2.1.length) a raw.2.1 raw.2.2 (fld w1 63 60) (2 ^ 48 * (1 + straitNum st) + fld w2 63 36) (if fl % 2 = 1 then fld w3 31 0 else 0)
                  (if fl % 2 = 1 then some { strait := st, tile := t, sync := o, bytes := fld w3 31 0, pkts := fld w3 63 48, ack := decide (fl / 2 % 2 = 1), srcTile := fld w2 47 36, cmdId := BitVec.ofNat 16 (fld w2 63 48) } else none) = put →
                (put = none → exec (.rwrite st) s = .next (after s (d.freezeBy st 0x01 bs a))) ∧
                (∀ (e0 : Chip) (owed : Bool), put = some (e0, owed) → ∀ e f : Chip, (if fl % 2 = 1 then e0.traceCmd 6 (straitNum st) 2 1 (fld w2 63 48) 0 0 w3 0 else e0) = e →
                  (if fl % 2 = 1 ∧ owed = false then e.rwriteLast st bs else e) = f →
                  exec (.rwrite st) s = .next (after s (if fl % 2 = 1 ∧ straitMain st = false then f.recordBack st t (BitVec.ofNat 16 (fld w2 63 48)) a else f)))))))))) 

/-- In a module that runs, for the oldest transaction of its type on a strait (with none nothing changes, and a broken layout freezes, cause 0x02): a read joins the queue of 8, or freezes where it is not the Keeper's or the queue is full, and the queue answers it once the credits of its response are held; of an address that R2, R267 or R234 keep from every master it answers zeros and freezes the strait, cause 0x01 (log 87). A CREDIT in ALIGN gives the far end's buffers, the credits of every channel; outside ALIGN it is malformed. ADD and SET update a sync object the exports open, else freeze, cause 0x01; ACK completes the transfer of its tile, command and generation and counts a stale one. A PROBE records the far identity, settles the version in IDENTIFY, and freezes a strait whose far end changed. A SLACK request goes to or toward the master, and a new cut is applied and forwarded; on a cross strait both freeze, cause 0x07. -/
def Obligations.ReadsSignalsProbesAndSlacksAreTaken : Prop :=
  ∀ (s : State) (c : Chip) (st : Strait), s.live = true → s.chip = c →
  (∀ (i : Instr) (vc : BitVec 2) (ty : Nat) (k : Nat → Bool), ((i = .rread st ∧ vc = 2 ∧ ty = 3 ∧ k = (fun x => decide (x % 2 = 0))) ∨ (i = .rreadResponse st ∧ vc = 1 ∧ ty = 3 ∧ k = (fun x => decide (x % 2 = 1))) ∨
      (i = .straitSignalAdd st ∧ vc = 2 ∧ ty = 4 ∧ k = (fun x => decide (x % 4 = 0))) ∨ (i = .straitSignalSet st ∧ vc = 2 ∧ ty = 4 ∧ k = (fun x => decide (x % 4 = 1))) ∨
      (i = .straitSignalAck st ∧ vc = 2 ∧ ty = 4 ∧ k = (fun x => decide (x % 4 = 2))) ∨ (i = .probe st ∧ vc = 3 ∧ ty = 6 ∧ k = (fun _ => true)) ∨ (i = .credit st ∧ vc = 3 ∧ ty = 5 ∧ k = (fun _ => true)) ∨
      (i = .slackRequest st ∧ vc = 3 ∧ ty = 8 ∧ k = (fun x => decide (x % 4 = 0))) ∨ (i = .slackCut st ∧ vc = 3 ∧ ty = 8 ∧ k = (fun x => decide (x % 4 = 1)))) →
    (c.headRx st vc ty k = none → exec i s = .next s) ∧
    (∀ r, c.headRx st vc ty k = some r → txnBodyOk r.txn.bytes = false → exec i s = .next (after s ((c.popRx st vc).freezeBy st 0x02 r.txn.bytes 0)))) ∧
  (∀ (r : RxTxn) (bs : List Byte), txnBodyOk bs = true → r.txn.bytes = bs →
    (c.headRx st 2 3 (fun x => decide (x % 2 = 0)) = some r →
      (txnFlags bs / 2 % 2 = 0 → exec (.rread st) s = .next (after s ((c.popRx st 2).freezeBy st 0x04 bs (fld (wordAt bs 8) 47 0)))) ∧
      (txnFlags bs / 2 % 2 ≠ 0 → 8 ≤ ((c.popRx st 2).str st).readQ.length → exec (.rread st) s = .next (after s ((c.popRx st 2).freezeBy st 0x02 bs (fld (wordAt bs 8) 47 0)))) ∧
      (txnFlags bs / 2 % 2 ≠ 0 → ((c.popRx st 2).str st).readQ.length < 8 → exec (.rread st) s = .next (after s ((c.popRx st 2).updStr st (fun x =>
        { x with readQ := x.readQ ++ [⟨BitVec.ofNat 16 (fld (wordAt bs 8) 63 48), fld (wordAt bs 8) 47 0, fld (wordAt bs 16) 12 0⟩] }))))) ∧
    (c.headRx st 1 3 (fun x => decide (x % 2 = 1)) = some r → exec (.rreadResponse st) s = .next (after s ((c.popRx st 1).updStr st (fun x =>
      { x with outReads := x.outReads.filter (fun q => q.tag != BitVec.ofNat 16 (fld (wordAt bs 8) 63 48)) })))) ∧
    (∀ (i : Instr) (m : Nat) (u : SyncUpd) (t o : Nat), ((i = .straitSignalAdd st ∧ m = 0 ∧ u = .add (BitVec.ofNat 32 (fld (wordAt bs 16) 31 0))) ∨ (i = .straitSignalSet st ∧ m = 1 ∧ u = .set (BitVec.ofNat 32 (fld (wordAt bs 16) 31 0)))) →
      c.headRx st 2 4 (fun x => decide (x % 4 = m)) = some r → fld (wordAt bs 8) 47 36 = t → fld (wordAt bs 8) 5 0 = o →
      ((c.popRx st 2).maySync (fun x => x.names st) t o u = true → ∀ d, (c.popRx st 2).syncApply (rankStrait st) t o u (BitVec.ofNat 3 (fld (wordAt bs 8) 35 33)) (straitScope st) = some d → exec i s = .next (after s d)) ∧
      ((c.popRx st 2).maySync (fun x => x.names st) t o u = false → exec i s = .next (after s ((c.popRx st 2).freezeBy st 0x01 bs (portAddr t o))))) ∧
    (∀ (t : Nat) (id : W16) (d : Chip), c.headRx st 2 4 (fun x => decide (x % 4 = 2)) = some r → fld (wordAt bs 8) 47 36 = t → BitVec.ofNat 16 (fld (wordAt bs 8) 63 48) = id →
      { c.popRx st 2 with acks := (c.popRx st 2).acks.filter (fun a => !(a.strait == straitNum st && a.tile == t && a.id == id)) } = d →
      (id.toNat / 0x1000 ≠ (d.tile t).gen.toNat → exec (.straitSignalAck st) s = .next (after s (d.updTile t (fun x => { x with cnt := { x.cnt with stale := x.cnt.stale + 1 } })))) ∧
      (id.toNat / 0x1000 = (d.tile t).gen.toNat → ∀ f, (d.tile t).streams.find? (fun s => (s.2.active.map (fun x => x.cmd.id == id && decide (4 ≤ x.cmd.route) && (routeStrait x.cmd.route == st))).getD false) = f →
        (f = none → exec (.straitSignalAck st) s = .next (after s d)) ∧
        (∀ p, f = some p → exec (.straitSignalAck st) s = .next (after s (transferComplete t p.1 (d.updTile t (fun x => x.setStream p.1 { p.2 with active := p.2.active.map (fun y => { y with acked := true }) }))))))) ∧
    (c.headRx st 3 6 (fun _ => true) = some r → ∀ (f : Ident) (d e : Chip), probeIdent bs = f → (c.popRx st 3).updStr st (fun x => { x with far := f, probeSeen := true }) = d →
      ((c.str st).train = .identify → pairVersion f = none → e = (d.updStr st (fun x => { (x.toDown d.up) with far := f, probeSeen := true, noRetry := true, retryAt := none, versionFail := true })).lockLost st → (e.str st).train ≠ .up → exec (.probe st) s = .next (after s e)) ∧
      ((c.str st).train ≠ .identify → (d.str st).train ≠ .up → exec (.probe st) s = .next (after s d)) ∧
      ((((c.str st).train = .identify ∧ ∃ v, pairVersion f = some v ∧ e = d.updStr st (fun x => { (x.enter .up d.up) with pver := v, versionFail := false, lastGood := d.up })) ∨ ((c.str st).train ≠ .identify ∧ e = d)) → (e.str st).train = .up →
        ∀ g : Chip, (if (e.str st).admitted = none ∨ (e.str st).admitted = some f then e else e.freezeBy st 0x05 bs 0) = g →
        (((c.str st).train = .identify ∧ g.ring.member = true ∧ g.ring.form = .formed) → exec (.probe st) s = .next (after s (g.isolate st 0xF))) ∧
        (¬((c.str st).train = .identify ∧ g.ring.member = true ∧ g.ring.form = .formed) → exec (.probe st) s = .next (after s g.discoverCheck)))) ∧
    (c.headRx st 3 5 (fun _ => true) = some r → ∀ d, c.popRx st 3 = d →
      ((d.str st).train = .align → ∀ (w : W64) (b : V4 Nat), wordAt bs 8 = w → b = ⟨fld w 56 48, fld w 39 32, fld w 21 16, fld w 5 0⟩ →
        exec (.credit st) s = .next (after s (d.updStr st (fun x => ({ x with farBuf := b, credit := b } : Str).noteCredits c.up)))) ∧
      ((d.str st).train ≠ .align → exec (.credit st) s = .next (after s (d.freezeBy st 0x02 bs 0)))) ∧
    (c.headRx st 3 8 (fun x => decide (x % 4 = 0)) = some r → ∀ d, c.popRx st 3 = d →
      (straitMain st = false → exec (.slackRequest st) s = .next (after s (d.freezeBy st 0x07 bs 0))) ∧
      (straitMain st = true → d.tide.master = true → exec (.slackRequest st) s = .next (after s (d.masterTakes (wordAt bs 16) (BitVec.ofNat 6 (fld (wordAt bs 24) 63 58)) (causeOf (fld (wordAt bs 24) 57 56))))) ∧
      (straitMain st = true → d.tide.master = false → (d.towardMaster = none → exec (.slackRequest st) s = .next (after s d)) ∧
        (∀ t, d.towardMaster = some t → exec (.slackRequest st) s = .next (after s (d.sendSlack t 0 (wordAt bs 8) (wordAt bs 16) (BitVec.ofNat 6 (fld (wordAt bs 24) 63 58)) (fld (wordAt bs 24) 57 56)))))) ∧
    (c.headRx st 3 8 (fun x => decide (x % 4 = 1)) = some r → ∀ d, c.popRx st 3 = d →
      (straitMain st = false → exec (.slackCut st) s = .next (after s (d.freezeBy st 0x07 bs 0))) ∧
      (straitMain st = true → d.slack.seen.contains (wordAt bs 8) = true → exec (.slackCut st) s = .next (after s d)) ∧
      (straitMain st = true → d.slack.seen.contains (wordAt bs 8) = false → ∀ (k : SlackCause) (o : BitVec 6), causeOf (fld (wordAt bs 24) 57 56) = k → BitVec.ofNat 6 (fld (wordAt bs 24) 63 58) = o → exec (.slackCut st) s = .next (after s
        (((d.noteReq (wordAt bs 16) k).applyCut (wordAt bs 8) o (k == .forced)).sendSlack (if st = Strait.e then .w else .e) 1 (wordAt bs 8) (wordAt bs 16) o (fld (wordAt bs 24) 57 56)))))) ∧
  ((c.str st).readQ = [] → exec (.rreadQueueServe st) s = .next s) ∧
  (∀ q rest, (c.str st).readQ = q :: rest →
    ((c.str st).credit.w < cdiv (32 + q.size) 240 → exec (.rreadQueueServe st) s = .next s) ∧
    (cdiv (32 + q.size) 240 ≤ (c.str st).credit.w → c.farBarred q.addr q.size = true → ∀ d,
      (c.updStr st (fun x => { x with readQ := rest })).sendVc st 1 ⟨⟨wordsBytes [txnHead 3 (c.str st).pver.toNat 3 q.size, mkWord [(48, 16, q.tag.toNat), (0, 48, q.addr)], mkWord [(0, 13, q.size)], 0] ++ zeros q.size,
        []⟩, none, .rreadResp, 0, (c.updStr st (fun x => { x with readQ := rest })).nowAc⟩ = d →
      exec (.rreadQueueServe st) s = .next (after s (d.freezeBy st 0x01 (wordsBytes [txnHead 3 (d.str st).pver.toNat 2 0, mkWord [(48, 16, q.tag.toNat), (0, 48, q.addr)], mkWord [(0, 13, q.size)], 0]) q.addr))) ∧
    (cdiv (32 + q.size) 240 ≤ (c.str st).credit.w → c.farBarred q.addr q.size = false → ∀ r, c.keeperRead s.jtag q.addr q.size = r → exec (.rreadQueueServe st) s = .next (after s
      ((r.1.updStr st (fun x => { x with readQ := rest })).sendVc st 1 ⟨⟨wordsBytes [txnHead 3 (c.str st).pver.toNat 3 q.size, mkWord [(48, 16, q.tag.toNat), (0, 48, q.addr)], mkWord [(0, 13, q.size)], 0] ++ r.2.1,
        (List.range (cdiv q.size 32)).filter r.2.2⟩, none, .rreadResp, 0, (r.1.updStr st (fun x => { x with readQ := rest })).nowAc⟩))))

/-- In a module that runs: the pin held low disarms itself and, when it was armed, raises its event and requests a slack; released, it is armed again. At its cut mark the cut takes effect, and one that this member knows as forced, with a run active and no recovery open, starts a recovery. The ring is held at the slack once the work and the commits before the cut are done and no recovery runs. With no cut, before its mark, or with work left nothing changes. -/
def Obligations.SlackRequestsCutAndHoldTheRing : Prop :=
  ∀ (s : State) (c : Chip), s.live = true → s.chip = c →
  (c.slack.armed = true → ∀ d : Chip, { c with slack := { c.slack with pinLow := true, armed := false } } = d → exec .slackReqPin s = .next (after s ((d.evMod 0x0803 d.tide.count 0).requestSlack .pin))) ∧
  (c.slack.armed = false → exec .slackReqPin s = .next (after s { c with slack := { c.slack with pinLow := true, armed := false } })) ∧
  exec .slackReqRelease s = .next (after s { c with slack := { c.slack with pinLow := false, armed := true } }) ∧
  (c.slack.cut = none → exec .slackCutMark s = .next s ∧ exec .slackReached s = .next s) ∧
  (∀ m, c.slack.cut = some m →
    ((c.slack.inEffect = true ∨ c.cutHolds c.now = false) → exec .slackCutMark s = .next s) ∧
    (c.slack.inEffect = false → c.cutHolds c.now = true → ∀ d : Chip, { c with slack := { c.slack with inEffect := true } } = d →
      ((d.forcedHere = true ∧ d.run.isSome = true ∧ (c.recov.phase = .none ∨ c.recov.phase = .cut) ∧ c.recov.open_ = false) → exec .slackCutMark s = .next (after s (d.startRecovery m))) ∧
      (¬(d.forcedHere = true ∧ d.run.isSome = true ∧ (c.recov.phase = .none ∨ c.recov.phase = .cut) ∧ c.recov.open_ = false) → exec .slackCutMark s = .next (after s d))) ∧
    ((c.slack.inEffect = true ∧ c.slack.atSlack = false ∧ c.recov.phase = .none ∧ c.recov.open_ = false ∧ c.workDone = true ∧ c.commitsDone = true) →
      ∀ d, c.baseMark = d → exec .slackReached s = .next (after s (({ d with slack := { d.slack with atSlack := true, heldS := m, cut := some m, inEffect := true, req := none, forced := false, sched := false } } : Chip).updRun
        (fun r => { r with state := .atSlack }) |>.evMod 0x0703 m (({ d with slack := { d.slack with atSlack := true, heldS := m, cut := some m, inEffect := true, req := none, forced := false, sched := false } } : Chip).updRun
        (fun r => { r with state := .atSlack })).rollbackNo))) ∧
    (¬(c.slack.inEffect = true ∧ c.slack.atSlack = false ∧ c.recov.phase = .none ∧ c.recov.open_ = false ∧ c.workDone = true ∧ c.commitsDone = true) → exec .slackReached s = .next s))

/-- In a module that runs: a boundary whose mark is reached, not held by the cut and in ALIGNED or HOLDOVER, moves the run on by one step, the end of the drain step among them; a region's reservation is released once its step is over, its reads have ended and no later commit holds it; a used tile that is still copies its state into the pending shadow of its next commit boundary; the module reports a boundary when all its tiles have their shadows; the tide master notes each report and declares a commit on the last; a member that reported takes the declaration. Without a run, or where a condition fails, nothing changes. That the last commit ends the run is the model's reading (log 27). -/
def Obligations.StepsBerthsAndCommitsAdvance : Prop :=
  ∀ (s : State) (c : Chip), s.live = true → s.chip = c →
  (c.run = none → exec .stepBoundary s = .next s ∧ (∀ r, exec (.berthRelease r) s = .next s) ∧ (∀ t, exec (.commitShadow t) s = .next s) ∧ exec .commitReport s = .next s ∧ (∀ b, exec (.commitDeclare b) s = .next s)) ∧
  (∀ (pos : BitVec 6) (b : W32), ((c.tide.master = false ∨ c.run = none) → exec (.commitReportArrival pos b) s = .next s) ∧
    (c.tide.master = true → c.run.isSome = true → ∀ d : Chip, { c with recov := { c.recov with commitReps := c.recov.commitReps.filter (fun e => e.1 != pos.toNat) ++ [(pos.toNat, b.toNat)] } } = d →
      exec (.commitReportArrival pos b) s = .next (after s d.tryDeclare))) ∧
  (∀ r, c.run = some r →
    ((r.reached ≤ r.steps.length ∧ c.boundaryMark r r.reached ≤ c.now ∧ c.cutHolds (c.boundaryMark r r.reached) = false ∧ (c.tide.st = .aligned ∨ c.tide.st = .holdover)) →
      exec .stepBoundary s = .next (after s (c.baseMark.updRun (fun r => { r with reached := r.reached + 1 })))) ∧
    (¬(r.reached ≤ r.steps.length ∧ c.boundaryMark r r.reached ≤ c.now ∧ c.cutHolds (c.boundaryMark r r.reached) = false ∧ (c.tide.st = .aligned ∨ c.tide.st = .holdover)) → exec .stepBoundary s = .next s) ∧
    (∀ k : BitVec 9, (r.berths[k.toNat]? = none → exec (.berthRelease k) s = .next s) ∧
      (∀ b, r.berths[k.toNat]? = some b →
        ((b.st = .live ∧ b.reads = [] ∧ r.heldOver b = true ∧ r.commitBerth b = false) →
          (b.cur + 1 < b.count → exec (.berthRelease k) s = .next (after s (c.updBerth k.toNat Berth.advance)) ∧ b.advance = { b with cur := b.cur + 1, got := [] }) ∧
          (b.count ≤ b.cur + 1 → exec (.berthRelease k) s = .next (after s (c.updBerth k.toNat Berth.advance)) ∧ b.advance = { b with st := .released })) ∧
        (¬(b.st = .live ∧ b.reads = [] ∧ r.heldOver b = true ∧ r.commitBerth b = false) → exec (.berthRelease k) s = .next s))) ∧
    (∀ t : TileId,
      (r.bounds.find? (fun b => decide ((c.tile t.toNat).shadowStep < b)) = none → exec (.commitShadow t) s = .next s) ∧
      (∀ (b m : Nat), r.bounds.find? (fun b => decide ((c.tile t.toNat).shadowStep < b)) = some b → c.boundaryMark r b = m → ∀ ok : Bool,
        (r.tiles.contains t.toNat && (c.tile t.toNat).st == .running && (c.tile t.toNat).pendShadow.isNone && decide (m ≤ c.now) && !c.cutHolds m && c.tileStill t.toNat && c.issuedAll t.toNat (fun k => decide (m ≤ k))) = ok →
        (ok = false → exec (.commitShadow t) s = .next s) ∧
        (ok = true → exec (.commitShadow t) s = .next (after s (c.updTile t.toNat (fun x => { x with pendShadow := some ⟨b, x.syncVals, x.idx, x.nextSeq⟩, seals := [] })))))) ∧
    (r.bounds.find? (fun b => decide (r.reported < b)) = none → exec .commitReport s = .next s) ∧
    (∀ b, r.bounds.find? (fun b => decide (r.reported < b)) = some b → ∀ ok : Bool,
      (r.tiles.all (fun t => ((c.tile t).pendShadow.map (fun s => s.step == b)).getD false) && !c.forcedHere && c.recov.phase == .none && decide (c.boundaryMark r b ≤ c.now)) = ok →
      (ok = false → exec .commitReport s = .next s) ∧
      (ok = true → ∀ d, c.updRun (fun r => { r with reported := b }) = d →
        (d.tide.master = true → exec .commitReport s = .next (after s (d.noteReport d.tide.position.toNat b))) ∧
        (d.tide.master = false → exec .commitReport s = .next (after s (d.send (.commitReport d.tide.position (BitVec.ofNat 32 b))))))) ∧
    (∀ b : W32,
      ((c.tide.master = false ∧ r.committed < b.toNat ∧ r.reported = b.toNat ∧ c.recov.phase ≠ .restore) → exec (.commitDeclare b) s = .next (after s (c.commit b.toNat))) ∧
      (¬(c.tide.master = false ∧ r.committed < b.toNat ∧ r.reported = b.toNat ∧ c.recov.phase ≠ .restore) → exec (.commitDeclare b) s = .next s)))

/-- In a module that runs, with a run: 117,500 tk after the cut unfinished work is halted and the drain begins; the drain begins too once the work is done, and ends when both main straits are drained or down, 58,750 tk after which one that is not counts as down, and the member then reports. The tide master decides on every report, or at 470,000 tk without the missing ones, where the lowest position takes the place of a master that left. A member in the recovery acts on the decision. A restore that is over makes the tiles whose tables break no rule (log 97) run again and holds the ring or resumes; at Rp the recovery is done, and a scheduled slack asked for too late to be held is taken (log 108). The successor has its own sources and takes the place the plan gave the master. Out of its phase or before its time an event changes nothing. -/
def Obligations.RecoveryDrainsDecidesRestoresAndReplays : Prop :=
  ∀ (s : State) (c : Chip), s.live = true → s.chip = c →
  (c.run = none → exec .quiesceTimeout s = .next s ∧ (∀ rs, exec (.recoveryDecide rs) s = .next s ∧ exec (.decisionDeadline rs) s = .next s) ∧ (∀ d, exec (.recoveryDecision d) s = .next s) ∧ exec .restoreDone s = .next s ∧ exec .replayMark s = .next s) ∧
  (∀ r, c.run = some r →
    ((c.recov.phase = .quiesce ∧ c.recov.phaseAt + 117500 ≤ c.up ∧ c.workDone = false) → ∀ d, r.tiles.foldl (fun c t => c.updTile t (Tile.halt c.nowAc)) c = d →
      exec .quiesceTimeout s = .next (after s ({ d with recov := { d.recov with cutStop := some d.nowAc } } : Chip).startDrain)) ∧
    (¬(c.recov.phase = .quiesce ∧ c.recov.phaseAt + 117500 ≤ c.up ∧ c.workDone = false) → exec .quiesceTimeout s = .next s) ∧
    (∀ rs, ((c.tide.master = true ∧ c.keeper.state = .running ∧ c.recov.phase = .decide ∧ missing c.ringSize (c.reports rs) = []) → exec (.recoveryDecide rs) s = .next (after s (c.decideNow r rs))) ∧
      (¬(c.tide.master = true ∧ c.keeper.state = .running ∧ c.recov.phase = .decide ∧ missing c.ringSize (c.reports rs) = []) → exec (.recoveryDecide rs) s = .next s) ∧
      (∀ d : Chip, (if c.tide.master = false ∧ c.recov.phase = .decide ∧ c.succeeds rs = true then c.takeOver else c) = d →
        ((d.tide.master = true ∧ d.keeper.state = .running ∧ d.recov.open_ = true ∧ (d.recov.phase = .quiesce ∨ d.recov.phase = .drain ∨ d.recov.phase = .decide) ∧ d.recov.tReq + 470000 ≤ d.now) → exec (.decisionDeadline rs) s = .next (after s (d.decideNow r rs))) ∧
        (¬(d.tide.master = true ∧ d.keeper.state = .running ∧ d.recov.open_ = true ∧ (d.recov.phase = .quiesce ∨ d.recov.phase = .drain ∨ d.recov.phase = .decide) ∧ d.recov.tReq + 470000 ≤ d.now) → exec (.decisionDeadline rs) s = .next (after s d)))) ∧
    (∀ d : Decision, ((c.recov.phase = .quiesce ∨ c.recov.phase = .drain ∨ c.recov.phase = .decide ∨ ((c.recov.phase = .none ∨ c.recov.phase = .cut) ∧ c.slack.inEffect = true ∧ c.recov.open_ = false)) → exec (.recoveryDecision d) s = .next (after s (c.applyDecision d))) ∧
      ((c.recov.phase = .restore ∨ c.recov.phase = .held ∨ ((c.recov.phase = .none ∨ c.recov.phase = .cut) ∧ (c.slack.inEffect = false ∨ c.recov.open_ = true))) → exec (.recoveryDecision d) s = .next s)) ∧
    (∀ ok : Bool, (c.recov.phase == .restore && c.gensFree r && (c.tide.st == .aligned || c.tide.st == .holdover) && c.keeper.state == .running) = ok →
      (ok = false → exec .restoreDone s = .next s) ∧
      (ok = true → c.recov.cancelled = true → exec .restoreDone s = .next (after s (c.endAll 1 0x19))) ∧
      (ok = true → c.recov.cancelled = false → ∀ d, (c.replayTiles r).foldl (fun c t => c.updTile t Tile.again) c = d →
        (d.recov.result = 0x18 → exec .restoreDone s = .next (after s (({ d with recov := { d.recov with phase := .held } } : Chip).holdAt d.recov.mc))) ∧
        (d.recov.result ≠ 0x18 → exec .restoreDone s = .next (after s (({ d with recov := { d.recov with phase := .none } } : Chip).updRun (fun r => { r with state := .running })))))) ∧
    (∀ p, c.ring.inForce = some p → c.takeOver = { c with ring := { c.ring with inForce := some { p with master := c.tide.position } }, tide := { c.tide with
      master := true, refPri := (tideSources p true c.tide.path).1, refSec := (tideSources p true c.tide.path).2, refActive := 7, hops := 0, st := if c.tide.st = .aligned then .holdover else c.tide.st, holdSince := c.up } }) ∧
    (c.recov.rp = none → exec .replayMark s = .next s) ∧
    (∀ m, c.recov.rp = some m →
      (¬(c.recov.open_ = true ∧ c.recov.phase = .none ∧ m.toNat ≤ c.now) → exec .replayMark s = .next s) ∧
      ((c.recov.open_ = true ∧ c.recov.phase = .none ∧ m.toNat ≤ c.now) → ∀ e d : Chip,
        ({ c with recov := { c.recov with last := BitVec.ofNat 32 (m.toNat - c.recov.detect), worst := BitVec.ofNat 32 (max c.recov.worst.toNat (m.toNat - c.recov.detect)) } } : Chip).clearSlack = e →
        (if c.slack.sched = true ∧ c.tide.master = true ∧ c.recov.result = 0 then e.masterTakes m e.tide.position .cmd else e) = d →
        (c.recov.result = 0 → exec .replayMark s = .next (after s ((d.evMod 0x0704 m d.tide.shift).recoveryDone m))) ∧
        (c.recov.result ≠ 0 → exec .replayMark s = .next (after s (d.recoveryDone m)))))) ∧
  (∀ d : Chip, (if c.recov.phase = .quiesce ∧ c.workDone = true then c.startDrain else c) = d →
    ((d.recov.phase = .drain ∧ d.bothDrained = true ∧ d.keeper.state = .running) → exec .drainDone s = .next (after s d.reportIn)) ∧
    (¬(d.recov.phase = .drain ∧ d.bothDrained = true ∧ d.keeper.state = .running) → exec .drainDone s = .next (after s d))) ∧
  (∀ st : Strait,
    (¬(c.recov.phase = .drain ∧ straitMain st = true ∧ c.recov.phaseAt + 58750 ≤ c.up ∧ (c.str st).drained = false) → exec (.drainTimeout st) s = .next s) ∧
    ((c.recov.phase = .drain ∧ straitMain st = true ∧ c.recov.phaseAt + 58750 ≤ c.up ∧ (c.str st).drained = false) → ∀ d : Chip,
      { c with recov := { c.recov with downE := c.recov.downE || st == .e, downW := c.recov.downW || st == .w } } = d →
      ((d.bothDrained = true ∧ d.keeper.state = .running) → exec (.drainTimeout st) s = .next (after s d.reportIn)) ∧
      (¬(d.bothDrained = true ∧ d.keeper.state = .running) → exec (.drainTimeout st) s = .next (after s d))))

/-- For every state: PWR_EN high closes an open front end, a module reset, unless a shutdown is latched or waits for the input; PWR_EN low opens it, cause 0x00, and releases a latched shutdown. An input out of range opens it, cause 0x01 below and 0x02 above, and waits; the input back, it closes again where PWR_EN is high and nothing is latched. An overcurrent of the input or the core opens and latches it, causes 0x03 and 0x04. Opened, it leaves everything behind it at its reset value but the serial NOR and what the tray holds. A boot starts once after a module reset. That PWR_EN low is held 10 ms is the model's choice (log 37). -/
def Obligations.FrontEndOpensClosesAndLatches : Prop :=
  ∀ (s : State),
  ((s.front.powered = true ∨ s.front.latched = true ∨ s.front.waiting = true) → exec .pwrEnRise s = .next { s with front := { s.front with pwrEn := true } }) ∧
  (s.front.powered = false → s.front.latched = false → s.front.waiting = false → exec .pwrEnRise s = .next { s with front := { s.front with powered := true, pwrEn := true }, chip := Chip.init s.chip.nor s.chip.ext s.chip.fresh.n, pcie := { s.pcie with barsSet := false, vfEnable := false, d3 := 0 }, smb := { window := 0, pecErr := false }, jtag := Jtag.init }) ∧
  (s.front.powered = false → exec .pwrEnFall s = .next { s with front := { s.front with pwrEn := false, latched := false } } ∧
    exec .inputUndervoltage s = .next { s with front := { s.front with waiting := true } } ∧ exec .inputOvervoltage s = .next { s with front := { s.front with waiting := true } } ∧
    exec .inputOvercurrent s = .next s ∧ exec .coreOvercurrent s = .next s) ∧
  (s.front.powered = true → ∀ d : State, { s with chip := Chip.init s.chip.nor s.chip.ext s.chip.fresh.n, pcie := { s.pcie with barsSet := false, vfEnable := false, d3 := 0 }, smb := { window := 0, pecErr := false }, jtag := Jtag.init } = d →
    exec .pwrEnFall s = .next { d with front := { s.front with powered := false, cause := 0x00, pwrEn := false, latched := false } } ∧
    exec .inputUndervoltage s = .next { d with front := { s.front with powered := false, cause := 0x01, waiting := true } } ∧
    exec .inputOvervoltage s = .next { d with front := { s.front with powered := false, cause := 0x02, waiting := true } } ∧
    exec .inputOvercurrent s = .next { d with front := { s.front with powered := false, cause := 0x03, latched := true } } ∧
    exec .coreOvercurrent s = .next { d with front := { s.front with powered := false, cause := 0x04, latched := true } }) ∧
  ((s.front.waiting = true ∧ s.front.pwrEn = true ∧ s.front.latched = false ∧ s.front.powered = false) → exec .inputRestored s = .next { s with front := { s.front with waiting := false, powered := true }, chip := Chip.init s.chip.nor s.chip.ext s.chip.fresh.n, pcie := { s.pcie with barsSet := false, vfEnable := false, d3 := 0 }, smb := { window := 0, pecErr := false }, jtag := Jtag.init }) ∧
  (¬(s.front.waiting = true ∧ s.front.pwrEn = true ∧ s.front.latched = false ∧ s.front.powered = false) → exec .inputRestored s = .next { s with front := { s.front with waiting := false } }) ∧
  (∀ b : BootInputs, ((s.live = true ∧ s.chip.keeper.state = .booting ∧ s.chip.boot.stage = 0) → exec (.powerOnBoot b) s = .next { s with chip := bootSteps b (bootStart b.ga s.front.cause s.chip), pcie := if s.pcie.perst then s.pcie else { s.pcie with barsSet := true, vfEnable := true } }) ∧
    (¬(s.live = true ∧ s.chip.keeper.state = .booting ∧ s.chip.boot.stage = 0) → exec (.powerOnBoot b) s = .next s))

/-- In a module that runs: a sample writes the input's averages and the core's readings, which are open; above 750 W it sets OVER, and outside 41 V to 59 V MARGIN, each raising POWER_ALERT with its cause at most once in 100 ms. A die warns at 95 degrees, the regulator at 105, the inlet at 40 and a package whenever it reports, each setting its bit and raising its event. A die, the regulator, or a package that reported hot for 100 ms shuts the module down, latched, causes 0x05, 0x06 and 0x07; the inlet never. That a warning is taken at the threshold itself is the model's choice (log 37). -/
def Obligations.SensorsAlertWarnAndShutDown : Prop :=
  ∀ (s : State) (c : Chip), s.chip = c →
  (s.live = true → ∀ (mv ma dw : W16) (d e : Chip), { c with pwr := { c.pwr with volt := mv, curr := ma, power := dw, coreVolt := Config.coreMillivolts c.fresh.n, coreCurr := Config.coreCurrent c.fresh.n }, fresh := ⟨c.fresh.n + 1⟩ } = d →
    (if 7500 < dw.toNat then (if d.alertDue d.pwr.overAt then ({ d with pwr := { d.pwr with overIn := true, overAt := some d.up } } : Chip).powerAlert 1 else { d with pwr := { d.pwr with overIn := true } }) else d) = e →
    ((41000 ≤ mv.toNat ∧ mv.toNat ≤ 59000) → exec (.powerSample mv ma dw) s = .next (after s e)) ∧
    ((mv.toNat < 41000 ∨ 59000 < mv.toNat) →
      (e.alertDue e.pwr.marginAt = true → exec (.powerSample mv ma dw) s = .next (after s (({ e with pwr := { e.pwr with margin := true, marginAt := some e.up } } : Chip).powerAlert 2))) ∧
      (e.alertDue e.pwr.marginAt = false → exec (.powerSample mv ma dw) s = .next (after s { e with pwr := { e.pwr with margin := true } })))) ∧
  (s.live = true → ∀ t : Byte,
    (degrees t < 95 → exec (.thermalWarning .die t) s = .next s) ∧ (95 ≤ degrees t → exec (.thermalWarning .die t) s = .next (after s (({ c with pwr := { c.pwr with hot := true, tDie := t } } : Chip).thermal 0 0 t))) ∧
    (degrees t < 105 → exec (.thermalWarning .regulator t) s = .next s) ∧ (105 ≤ degrees t → exec (.thermalWarning .regulator t) s = .next (after s (({ c with pwr := { c.pwr with hot := true, tReg := t } } : Chip).thermal 1 0 t))) ∧
    (degrees t < 40 → exec (.thermalWarning .inlet t) s = .next s) ∧ (40 ≤ degrees t → exec (.thermalWarning .inlet t) s = .next (after s (({ c with pwr := { c.pwr with inletHot := true, tInlet := t } } : Chip).thermal 3 0 t))) ∧
    (∀ p, exec (.thermalWarning (.package p) t) s = .next (after s (({ c with pwr := { c.pwr with memHot := true, tMem := if degrees c.pwr.tMem < degrees t then t else c.pwr.tMem } } : Chip).thermal 2 p.toNat t)))) ∧
  exec (.thermalShutdown .inlet) s = .next s ∧
  (s.front.powered = false → ∀ x, exec (.thermalShutdown x) s = .next s) ∧
  (∀ p, c.memHotHeld p.toNat = false → exec (.thermalShutdown (.package p)) s = .next s) ∧
  (s.front.powered = true → ∀ d : State, { s with chip := Chip.init s.chip.nor s.chip.ext s.chip.fresh.n, pcie := { s.pcie with barsSet := false, vfEnable := false, d3 := 0 }, smb := { window := 0, pecErr := false }, jtag := Jtag.init } = d →
    exec (.thermalShutdown .die) s = .next { d with front := { s.front with powered := false, cause := 0x05, latched := true } } ∧
    exec (.thermalShutdown .regulator) s = .next { d with front := { s.front with powered := false, cause := 0x06, latched := true } } ∧
    (∀ p, c.memHotHeld p.toNat = true → exec (.thermalShutdown (.package p)) s = .next { d with front := { s.front with powered := false, cause := 0x07, latched := true } }))

/-- For every state: PERST, a link down or a hot reset leaves the BARs unassigned, VF Enable 0 and no function in D3hot, and completes the requests that read host memory; contexts, runs and everything else in the module stay. When PERST# rises on a running module the link comes up, with the BARs and VF Enable the host then sets (the model's choice, log 38). A reset of a function that answers closes its context, the physical function's ctx 0 only; clearing VF Enable closes ctx 1 to 15. D3hot and its exit change one function's bit. Of a function that does not answer nothing changes. No one of them is a module reset. -/
def Obligations.PcieResetsCloseContextsNotTheModule : Prop :=
  ∀ (s : State),
  exec .perst s = .next { s with chip := (if s.live = true ∧ s.pcie.perst = false then s.chip.refErrors else s.chip), pcie := { perst := true, barsSet := false, vfEnable := false, d3 := 0 } } ∧
  ((s.pcie.perst = true ∧ s.live = true) → exec .perstRelease s = .next { s with pcie := { perst := false, barsSet := true, vfEnable := true, d3 := 0 } }) ∧
  (¬(s.pcie.perst = true ∧ s.live = true) → exec .perstRelease s = .next { s with pcie := { s.pcie with perst := false } }) ∧
  (∀ n : CtxId, (s.live = true → n ≠ 0 → s.pcie.carries n = true → s.chip.booted = true → exec (.vfFlr n) s = .next (after s (s.chip.closeFor n.toNat))) ∧
    ((s.live = false ∨ n = 0 ∨ s.pcie.carries n = false ∨ s.chip.booted = false) → exec (.vfFlr n) s = .next s) ∧
    ((s.live = true ∧ s.pcie.carries n = true) → exec (.d3hot n) s = .next { s with pcie := { s.pcie with d3 := s.pcie.d3 ||| (1#16 <<< n.toNat) } } ∧
      exec (.d3hotExit n) s = .next { s with pcie := { s.pcie with d3 := s.pcie.d3 &&& ~~~(1#16 <<< n.toNat) } }) ∧
    (¬(s.live = true ∧ s.pcie.carries n = true) → exec (.d3hot n) s = .next s ∧ exec (.d3hotExit n) s = .next s)) ∧
  (s.live = true → s.pcie.carries 0 = true → s.chip.booted = true → exec .pfFlr s = .next (after s (s.chip.closeFor 0))) ∧
  ((s.live = false ∨ s.pcie.carries 0 = false ∨ s.chip.booted = false) → exec .pfFlr s = .next s) ∧
  (s.live = true → s.pcie.carries 0 = true → s.pcie.vfEnable = true → ∀ c : Chip, (if s.chip.booted = true then ((List.range 15).map (· + 1)).foldl Chip.closeFor s.chip else s.chip) = c →
    exec .vfEnableClear s = .next { s with chip := c, pcie := { s.pcie with vfEnable := false } }) ∧
  ((s.live = false ∨ s.pcie.carries 0 = false ∨ s.pcie.vfEnable = false) → exec .vfEnableClear s = .next s) ∧
  (∀ (c : Chip) (n : Nat), ∀ d : Chip, { c with keeper := { c.keeper with closing := setAdd c.keeper.closing n } } = d →
    (d.keeper.state = .running → c.closeFor n = (d.closeReqs n).closeRun n) ∧ (d.keeper.state ≠ .running → c.closeFor n = d))

/-- In a powered module whose pins are not taken: command 0x10 sets the window to a multiple of 8 below 0x8000 and refuses any other with a NACK that applies nothing. Command 0x11 writes or reads 1 to 32 bytes of the management page at the window, which then advances by the count, and past 0x7FFF is a NACK. A write with a bad PEC is discarded and sets the PEC bit, which a status read returns with the Keeper's state and what is unread, and clears. The alert response carries 0x60 + GA while a response or an event is unread. Otherwise nothing changes. -/
def Obligations.SmbusReachesTheManagementPage : Prop :=
  ∀ (s : State),
  (s.live = false → (∀ o p, exec (.smbusSetWindow o p) s = .next s) ∧ (∀ d p, exec (.smbusDataWrite d p) s = .next s) ∧ (∀ n, exec (.smbusDataRead n) s = .next s) ∧ exec .smbusStatusRead s = .next s ∧ exec .alertResponse s = .next s) ∧
  (s.live = true →
    (∀ o, exec (.smbusSetWindow o false) s = .next { s with smb := { s.smb with pecErr := true } }) ∧
    (∀ d, exec (.smbusDataWrite d false) s = .next { s with smb := { s.smb with pecErr := true } }) ∧
    (∀ o : W32, ((o.toNat % 8 = 0 ∧ o.toNat < 0x8000) → exec (.smbusSetWindow o true) s = .next { s with smb := { s.smb with window := o.toNat } }) ∧
      ((o.toNat % 8 ≠ 0 ∨ 0x8000 ≤ o.toNat) → exec (.smbusSetWindow o true) s = .next (after s (s.chip.send .smbNack)))) ∧
    (∀ d : List Byte, ((1 ≤ d.length ∧ d.length ≤ 32 ∧ s.smb.window + d.length ≤ 0x8000) → exec (.smbusDataWrite d true) s = .next { s with chip := pageWrite 16 s.smb.window d s.chip, smb := { s.smb with window := s.smb.window + d.length } }) ∧
      (¬(1 ≤ d.length ∧ d.length ≤ 32 ∧ s.smb.window + d.length ≤ 0x8000) → exec (.smbusDataWrite d true) s = .next (after s (s.chip.send .smbNack)))) ∧
    (∀ n : Nat, ((1 ≤ n ∧ n ≤ 32 ∧ s.smb.window + n ≤ 0x8000) → exec (.smbusDataRead n) s = .next { s with chip := s.chip.send (.smbData (s.chip.pageRead 16 s.smb.window n)), smb := { s.smb with window := s.smb.window + n } }) ∧
      (¬(1 ≤ n ∧ n ≤ 32 ∧ s.smb.window + n ≤ 0x8000) → exec (.smbusDataRead n) s = .next (after s (s.chip.send .smbNack)))) ∧
    (∀ b : Byte, b.getLsbD 0 = (s.chip.keeper.state == .running) → b.getLsbD 1 = ((s.chip.ctx 16).rspTail != (s.chip.ctx 16).rspHead) → b.getLsbD 2 = ((s.chip.ctx 16).evtTail != (s.chip.ctx 16).evtHead) → b.getLsbD 3 = s.smb.pecErr → b.toNat < 16 →
      exec .smbusStatusRead s = .next { s with chip := s.chip.send (.smbData [b]), smb := { s.smb with pecErr := false } }) ∧
    (((s.chip.ctx 16).rspTail ≠ (s.chip.ctx 16).rspHead ∨ (s.chip.ctx 16).evtTail ≠ (s.chip.ctx 16).evtHead) → exec .alertResponse s = .next (after s (s.chip.send (.smbAddr (0x60 + BitVec.setWidth 8 s.chip.pwr.ga))))) ∧
    (((s.chip.ctx 16).rspTail = (s.chip.ctx 16).rspHead ∧ (s.chip.ctx 16).evtTail = (s.chip.ctx 16).evtHead) → exec .alertResponse s = .next s))

/-- In a powered module an instruction becomes the one its TAP holds, and the test condition follows whether any TAP holds one other than BYPASS or IDCODE. Test-Logic-Reset loads IDCODE everywhere. IDCODE shifts out the 32 bits of its layout, BYPASS one 0. SAMPLE/PRELOAD captures the pins and keeps what is shifted in, by TAP. EXTEST, EXTEST_PULSE, EXTEST_TRAIN, CLAMP and HIGHZ take the pins of every die: nothing behind them runs then, and Test-Logic-Reset does not give them back. The levels captured are open values. Without power nothing changes. -/
def Obligations.TestPortsLoadCaptureAndTakeThePins : Prop :=
  ∀ (s : State),
  (s.front.powered = false → exec .tapReset s = .next s ∧ ∀ x bs, exec (.bypass x) s = .next s ∧ exec (.idcode x) s = .next s ∧ exec (.samplePreload x bs) s = .next s ∧ exec (.extest x) s = .next s ∧ exec (.extestPulse x) s = .next s ∧ exec (.extestTrain x) s = .next s ∧ exec (.clamp x) s = .next s ∧ exec (.highz x) s = .next s) ∧
  (s.front.powered = true →
    exec .tapReset s = .next { s with jtag := { s.jtag with irHub := 0x01, irC0 := 0x01, irC1 := 0x01 }, chip := { s.chip with pan := { s.chip.pan with test := false } } } ∧
    (∀ (x : Tap) (ir : Byte) (j : Jtag), (j = if x = .hub then { s.jtag with irHub := ir } else if x = .c0 then { s.jtag with irC0 := ir } else { s.jtag with irC1 := ir }) →
      ∀ c : Chip, { s.chip with pan := { s.chip.pan with test := j.test } } = c →
      (ir = 0xFF → exec (.bypass x) s = .next { s with jtag := j, chip := c.send (.tdo x [false]) }) ∧
      (ir = 0x01 → exec (.idcode x) s = .next { s with jtag := j, chip := c.send (.tdo x ((List.range 32).map (fun i => (idcodeOf s.chip.boot.rev x).getLsbD i))) }) ∧
      (∀ d : Chip, { c.send (.tdo x (Config.pinSample s.chip.fresh.n)) with fresh := ⟨s.chip.fresh.n + 1⟩ } = d →
        (ir = 0x02 → ∀ bs, exec (.samplePreload x bs) s = .next { s with jtag := { j with preload := tblPut [] j.preload (tapNum x) bs }, chip := d }) ∧
        (ir = 0x06 → exec (.extest x) s = .next { s with jtag := { j with pinsTaken := true }, chip := d }) ∧
        (ir = 0x07 → exec (.extestPulse x) s = .next { s with jtag := { j with pinsTaken := true }, chip := d }) ∧
        (ir = 0x08 → exec (.extestTrain x) s = .next { s with jtag := { j with pinsTaken := true }, chip := d })) ∧
      (ir = 0x09 → exec (.clamp x) s = .next { s with jtag := { j with pinsTaken := true }, chip := c.send (.tdo x [false]) }) ∧
      (ir = 0x0A → exec (.highz x) s = .next { s with jtag := { j with pinsTaken := true }, chip := c.send (.tdo x [false]) }))) ∧
  (s.jtag.pinsTaken = true → s.live = false) ∧
  (∀ (rev : W16) (x : Tap), (idcodeOf rev x).extractLsb' 28 4 = rev.extractLsb' 0 4 ∧ (idcodeOf rev x).extractLsb' 1 11 = Config.manufacturer ∧ (idcodeOf rev x).getLsbD 0 = true ∧
    (x = .hub → (idcodeOf rev x).extractLsb' 12 16 = 0xD4A0#16) ∧ (x ≠ .hub → (idcodeOf rev x).extractLsb' 12 16 = 0xD4A1#16))

/-- In a powered module: MEMTEST takes the pins and keeps its channel and operation until done, with a bit for each net that failed. CTRL_ACCESS reads 8 bytes: control space at any time, a harvest slot while the channels are trained; anything else answers VALID 0 and DATA 0, and nothing is written but that a slot read counts as read (the model's choice, log 39). NOR_ACCESS reads 8 bytes, and only while the pins are taken programs 8 bytes or erases the 64 KiB sector; BUSY holds until it is done, and a further access waits for that. Without power nothing changes. -/
def Obligations.TestPortReadsNorControlSpaceAndNets : Prop :=
  ∀ (s : State),
  (s.front.powered = false → (∀ ch, exec (.memtestDq ch) s = .next s ∧ exec (.memtestCa ch) s = .next s) ∧ (∀ f, exec (.memtestDone f) s = .next s) ∧ (∀ a, exec (.ctrlAccess a) s = .next s) ∧ exec .ctrlAccessDone s = .next s ∧
    (∀ a d, exec (.norAccessRead a) s = .next s ∧ exec (.norAccessWrite a d) s = .next s ∧ exec (.norAccessErase a) s = .next s) ∧ exec .norAccessDone s = .next s) ∧
  (s.front.powered = true →
    (∀ (ir : Byte) (j : Jtag) (c : Chip), { s.jtag with irHub := ir } = j → { s.chip with pan := { s.chip.pan with test := true } } = c →
      (ir = 0x20 → ∀ ch, exec (.memtestDq ch) s = .next { s with chip := c, jtag := { j with pinsTaken := true, mtChan := ch, mtOp := 1, mtDone := false, mtFail := 0 } } ∧ exec (.memtestCa ch) s = .next { s with chip := c, jtag := { j with pinsTaken := true, mtChan := ch, mtOp := 2, mtDone := false, mtFail := 0 } }) ∧
      (ir = 0x21 → ∀ a : Addr, exec (.ctrlAccess a) s = .next { s with chip := c, jtag := { j with ctrlAddr := a.toNat, ctrlBusy := true } }) ∧
      (ir = 0x22 → ∀ (a : W32) (d : W64),
        ((s.jtag.norBusy = false ∧ a.toNat % 8 = 0 ∧ a.toNat < 0x800_0000) → exec (.norAccessRead a) s = .next { s with chip := c, jtag := { j with norAddr := a.toNat, norBusy := true, norOp := 0 } } ∧
          (s.jtag.pinsTaken = true → exec (.norAccessWrite a d) s = .next { s with chip := c, jtag := { j with norAddr := a.toNat, norData := d, norBusy := true, norOp := 1 } } ∧ exec (.norAccessErase a) s = .next { s with chip := c, jtag := { j with norAddr := a.toNat, norBusy := true, norOp := 2 } }) ∧
          (s.jtag.pinsTaken = false → exec (.norAccessWrite a d) s = .next { s with chip := c, jtag := j } ∧ exec (.norAccessErase a) s = .next { s with chip := c, jtag := j })) ∧
        (¬(s.jtag.norBusy = false ∧ a.toNat % 8 = 0 ∧ a.toNat < 0x800_0000) → exec (.norAccessRead a) s = .next { s with chip := c, jtag := j } ∧ exec (.norAccessWrite a d) s = .next { s with chip := c, jtag := j } ∧ exec (.norAccessErase a) s = .next { s with chip := c, jtag := j }))) ∧
    (∀ f, ((s.jtag.mtOp ≠ 0 ∧ s.jtag.mtDone = false) → exec (.memtestDone f) s = .next { s with jtag := { s.jtag with mtDone := true, mtFail := f } }) ∧ (¬(s.jtag.mtOp ≠ 0 ∧ s.jtag.mtDone = false) → exec (.memtestDone f) s = .next s)) ∧
    (s.jtag.ctrlBusy = false → exec .ctrlAccessDone s = .next s) ∧
    (s.jtag.ctrlBusy = true →
      (s.portRead s.jtag.ctrlAddr = none → exec .ctrlAccessDone s = .next { s with jtag := { s.jtag with ctrlBusy := false, ctrlValid := false, ctrlData := 0 } }) ∧
      (∀ w, s.portRead s.jtag.ctrlAddr = some w →
        (s.chip.slotAt s.jtag.ctrlAddr = none → exec .ctrlAccessDone s = .next { s with jtag := { s.jtag with ctrlBusy := false, ctrlValid := true, ctrlData := w } }) ∧
        (∀ n, s.chip.slotAt s.jtag.ctrlAddr = some n → exec .ctrlAccessDone s = .next { s with jtag := { s.jtag with ctrlBusy := false, ctrlValid := true, ctrlData := w }, chip := { s.chip with harvests := s.chip.harvests.map (fun (e : Nat × Harvest) => (e.1, if e.1 = n then { e.2 with readB := true } else e.2)) } }))) ∧
    (s.jtag.norBusy = false → exec .norAccessDone s = .next s) ∧
    (s.jtag.norBusy = true → ∀ j : Jtag, { s.jtag with norBusy := false } = j →
      (s.jtag.norOp = 1 → exec .norAccessDone s = .next { s with jtag := j, chip := s.chip.norProg s.jtag.norAddr (leBytes 8 s.jtag.norData.toNat) }) ∧
      (s.jtag.norOp = 2 → exec .norAccessDone s = .next { s with jtag := j, chip := s.chip.norErase (s.jtag.norAddr / 0x1_0000 * 0x1_0000) 0x1_0000 }) ∧
      (s.jtag.norOp ≠ 1 → s.jtag.norOp ≠ 2 → exec .norAccessDone s = .next { s with jtag := { j with norData := wordAt (s.chip.norBytes s.jtag.norAddr 8) 0 } }))) ∧
  (∀ a : Nat, (a % 8 ≠ 0 → s.portRead a = none) ∧ (a % 8 = 0 → s.chip.slotAt a = none → (blkOf a).isSome = true → (a < 0x10_0000 ∨ 0x11_0000 ≤ a) → (a < 0x100_0000 ∨ 0x120_0000 ≤ a) → s.portRead a = ((blkOf a).bind (fun b => s.chip.blkWord s.jtag b.1 b.2))) ∧
    (∀ n, s.chip.slotAt a = some n → (s.chip.boot.memOk = false ∨ s.jtag.pinsTaken = true) → s.portRead a = none))
end

