-- ==== Sys2Proof/Laws/State.lean ====
section
/-! SUPPORT. What each named update of the state leaves as it was, field by field, and what it puts in place. -/
namespace Sys2Proof.Machine


/-! ### Chip.setTile -/

@[simp] theorem setTile_tide (c : Chip) (t : Nat) (x : Tile) : (c.setTile t x).tide = c.tide := rfl
@[simp] theorem setTile_runs (c : Chip) (t : Nat) (x : Tile) : (c.setTile t x).runs = c.runs := rfl
@[simp] theorem setTile_launching (c : Chip) (t : Nat) (x : Tile) : (c.setTile t x).launching = c.launching := rfl
@[simp] theorem setTile_wsets (c : Chip) (t : Nat) (x : Tile) : (c.setTile t x).wsets = c.wsets := rfl
@[simp] theorem setTile_regions (c : Chip) (t : Nat) (x : Tile) : (c.setTile t x).regions = c.regions := rfl
@[simp] theorem setTile_spdMem (c : Chip) (t : Nat) (x : Tile) : (c.setTile t x).spdMem = c.spdMem := rfl
@[simp] theorem setTile_spdPoison (c : Chip) (t : Nat) (x : Tile) : (c.setTile t x).spdPoison = c.spdPoison := rfl
@[simp] theorem setTile_spdErr (c : Chip) (t : Nat) (x : Tile) : (c.setTile t x).spdErr = c.spdErr := rfl
@[simp] theorem setTile_lpMem (c : Chip) (t : Nat) (x : Tile) : (c.setTile t x).lpMem = c.lpMem := rfl
@[simp] theorem setTile_lpPoison (c : Chip) (t : Nat) (x : Tile) : (c.setTile t x).lpPoison = c.lpPoison := rfl
@[simp] theorem setTile_lpErr (c : Chip) (t : Nat) (x : Tile) : (c.setTile t x).lpErr = c.lpErr := rfl
@[simp] theorem setTile_macBad (c : Chip) (t : Nat) (x : Tile) : (c.setTile t x).macBad = c.macBad := rfl
@[simp] theorem setTile_undef (c : Chip) (t : Nat) (x : Tile) : (c.setTile t x).undef = c.undef := rfl
@[simp] theorem setTile_defined (c : Chip) (t : Nat) (x : Tile) : (c.setTile t x).defined = c.defined := rfl
@[simp] theorem setTile_chans (c : Chip) (t : Nat) (x : Tile) : (c.setTile t x).chans = c.chans := rfl
@[simp] theorem setTile_engines (c : Chip) (t : Nat) (x : Tile) : (c.setTile t x).engines = c.engines := rfl
@[simp] theorem setTile_disp (c : Chip) (t : Nat) (x : Tile) : (c.setTile t x).disp = c.disp := rfl
@[simp] theorem setTile_attWin (c : Chip) (t : Nat) (x : Tile) : (c.setTile t x).attWin = c.attWin := rfl
@[simp] theorem setTile_attPoison (c : Chip) (t : Nat) (x : Tile) : (c.setTile t x).attPoison = c.attPoison := rfl
@[simp] theorem setTile_cdcs (c : Chip) (t : Nat) (x : Tile) : (c.setTile t x).cdcs = c.cdcs := rfl
@[simp] theorem setTile_cslots (c : Chip) (t : Nat) (x : Tile) : (c.setTile t x).cslots = c.cslots := rfl
@[simp] theorem setTile_pushes (c : Chip) (t : Nat) (x : Tile) : (c.setTile t x).pushes = c.pushes := rfl
@[simp] theorem setTile_acks (c : Chip) (t : Nat) (x : Tile) : (c.setTile t x).acks = c.acks := rfl
@[simp] theorem setTile_nextPush (c : Chip) (t : Nat) (x : Tile) : (c.setTile t x).nextPush = c.nextPush := rfl
@[simp] theorem setTile_recheckSet (c : Chip) (t : Nat) (x : Tile) : (c.setTile t x).recheckSet = c.recheckSet := rfl
@[simp] theorem setTile_recheckChunk (c : Chip) (t : Nat) (x : Tile) : (c.setTile t x).recheckChunk = c.recheckChunk := rfl
@[simp] theorem setTile_recheckPoison (c : Chip) (t : Nat) (x : Tile) : (c.setTile t x).recheckPoison = c.recheckPoison := rfl
@[simp] theorem setTile_damagedCnt (c : Chip) (t : Nat) (x : Tile) : (c.setTile t x).damagedCnt = c.damagedCnt := rfl
@[simp] theorem setTile_strs (c : Chip) (t : Nat) (x : Tile) : (c.setTile t x).strs = c.strs := rfl
@[simp] theorem setTile_ring (c : Chip) (t : Nat) (x : Tile) : (c.setTile t x).ring = c.ring := rfl
@[simp] theorem setTile_ctxs (c : Chip) (t : Nat) (x : Tile) : (c.setTile t x).ctxs = c.ctxs := rfl
@[simp] theorem setTile_keeper (c : Chip) (t : Nat) (x : Tile) : (c.setTile t x).keeper = c.keeper := rfl
@[simp] theorem setTile_tray (c : Chip) (t : Nat) (x : Tile) : (c.setTile t x).tray = c.tray := rfl
@[simp] theorem setTile_slack (c : Chip) (t : Nat) (x : Tile) : (c.setTile t x).slack = c.slack := rfl
@[simp] theorem setTile_recov (c : Chip) (t : Nat) (x : Tile) : (c.setTile t x).recov = c.recov := rfl
@[simp] theorem setTile_pan (c : Chip) (t : Nat) (x : Tile) : (c.setTile t x).pan = c.pan := rfl
@[simp] theorem setTile_watches (c : Chip) (t : Nat) (x : Tile) : (c.setTile t x).watches = c.watches := rfl
@[simp] theorem setTile_harvests (c : Chip) (t : Nat) (x : Tile) : (c.setTile t x).harvests = c.harvests := rfl
@[simp] theorem setTile_harvQ (c : Chip) (t : Nat) (x : Tile) : (c.setTile t x).harvQ = c.harvQ := rfl
@[simp] theorem setTile_boot (c : Chip) (t : Nat) (x : Tile) : (c.setTile t x).boot = c.boot := rfl
@[simp] theorem setTile_pwr (c : Chip) (t : Nat) (x : Tile) : (c.setTile t x).pwr = c.pwr := rfl
@[simp] theorem setTile_nor (c : Chip) (t : Nat) (x : Tile) : (c.setTile t x).nor = c.nor := rfl
@[simp] theorem setTile_fresh (c : Chip) (t : Nat) (x : Tile) : (c.setTile t x).fresh = c.fresh := rfl
@[simp] theorem setTile_ext (c : Chip) (t : Nat) (x : Tile) : (c.setTile t x).ext = c.ext := rfl

/-! ### Chip.updTile -/

@[simp] theorem updTile_tide (c : Chip) (t : Nat) (f : Tile → Tile) : (c.updTile t f).tide = c.tide := rfl
@[simp] theorem updTile_runs (c : Chip) (t : Nat) (f : Tile → Tile) : (c.updTile t f).runs = c.runs := rfl
@[simp] theorem updTile_launching (c : Chip) (t : Nat) (f : Tile → Tile) : (c.updTile t f).launching = c.launching := rfl
@[simp] theorem updTile_wsets (c : Chip) (t : Nat) (f : Tile → Tile) : (c.updTile t f).wsets = c.wsets := rfl
@[simp] theorem updTile_regions (c : Chip) (t : Nat) (f : Tile → Tile) : (c.updTile t f).regions = c.regions := rfl
@[simp] theorem updTile_spdMem (c : Chip) (t : Nat) (f : Tile → Tile) : (c.updTile t f).spdMem = c.spdMem := rfl
@[simp] theorem updTile_spdPoison (c : Chip) (t : Nat) (f : Tile → Tile) : (c.updTile t f).spdPoison = c.spdPoison := rfl
@[simp] theorem updTile_spdErr (c : Chip) (t : Nat) (f : Tile → Tile) : (c.updTile t f).spdErr = c.spdErr := rfl
@[simp] theorem updTile_lpMem (c : Chip) (t : Nat) (f : Tile → Tile) : (c.updTile t f).lpMem = c.lpMem := rfl
@[simp] theorem updTile_lpPoison (c : Chip) (t : Nat) (f : Tile → Tile) : (c.updTile t f).lpPoison = c.lpPoison := rfl
@[simp] theorem updTile_lpErr (c : Chip) (t : Nat) (f : Tile → Tile) : (c.updTile t f).lpErr = c.lpErr := rfl
@[simp] theorem updTile_macBad (c : Chip) (t : Nat) (f : Tile → Tile) : (c.updTile t f).macBad = c.macBad := rfl
@[simp] theorem updTile_undef (c : Chip) (t : Nat) (f : Tile → Tile) : (c.updTile t f).undef = c.undef := rfl
@[simp] theorem updTile_defined (c : Chip) (t : Nat) (f : Tile → Tile) : (c.updTile t f).defined = c.defined := rfl
@[simp] theorem updTile_chans (c : Chip) (t : Nat) (f : Tile → Tile) : (c.updTile t f).chans = c.chans := rfl
@[simp] theorem updTile_engines (c : Chip) (t : Nat) (f : Tile → Tile) : (c.updTile t f).engines = c.engines := rfl
@[simp] theorem updTile_disp (c : Chip) (t : Nat) (f : Tile → Tile) : (c.updTile t f).disp = c.disp := rfl
@[simp] theorem updTile_attWin (c : Chip) (t : Nat) (f : Tile → Tile) : (c.updTile t f).attWin = c.attWin := rfl
@[simp] theorem updTile_attPoison (c : Chip) (t : Nat) (f : Tile → Tile) : (c.updTile t f).attPoison = c.attPoison := rfl
@[simp] theorem updTile_cdcs (c : Chip) (t : Nat) (f : Tile → Tile) : (c.updTile t f).cdcs = c.cdcs := rfl
@[simp] theorem updTile_cslots (c : Chip) (t : Nat) (f : Tile → Tile) : (c.updTile t f).cslots = c.cslots := rfl
@[simp] theorem updTile_pushes (c : Chip) (t : Nat) (f : Tile → Tile) : (c.updTile t f).pushes = c.pushes := rfl
@[simp] theorem updTile_acks (c : Chip) (t : Nat) (f : Tile → Tile) : (c.updTile t f).acks = c.acks := rfl
@[simp] theorem updTile_nextPush (c : Chip) (t : Nat) (f : Tile → Tile) : (c.updTile t f).nextPush = c.nextPush := rfl
@[simp] theorem updTile_recheckSet (c : Chip) (t : Nat) (f : Tile → Tile) : (c.updTile t f).recheckSet = c.recheckSet := rfl
@[simp] theorem updTile_recheckChunk (c : Chip) (t : Nat) (f : Tile → Tile) : (c.updTile t f).recheckChunk = c.recheckChunk := rfl
@[simp] theorem updTile_recheckPoison (c : Chip) (t : Nat) (f : Tile → Tile) : (c.updTile t f).recheckPoison = c.recheckPoison := rfl
@[simp] theorem updTile_damagedCnt (c : Chip) (t : Nat) (f : Tile → Tile) : (c.updTile t f).damagedCnt = c.damagedCnt := rfl
@[simp] theorem updTile_strs (c : Chip) (t : Nat) (f : Tile → Tile) : (c.updTile t f).strs = c.strs := rfl
@[simp] theorem updTile_ring (c : Chip) (t : Nat) (f : Tile → Tile) : (c.updTile t f).ring = c.ring := rfl
@[simp] theorem updTile_ctxs (c : Chip) (t : Nat) (f : Tile → Tile) : (c.updTile t f).ctxs = c.ctxs := rfl
@[simp] theorem updTile_keeper (c : Chip) (t : Nat) (f : Tile → Tile) : (c.updTile t f).keeper = c.keeper := rfl
@[simp] theorem updTile_tray (c : Chip) (t : Nat) (f : Tile → Tile) : (c.updTile t f).tray = c.tray := rfl
@[simp] theorem updTile_slack (c : Chip) (t : Nat) (f : Tile → Tile) : (c.updTile t f).slack = c.slack := rfl
@[simp] theorem updTile_recov (c : Chip) (t : Nat) (f : Tile → Tile) : (c.updTile t f).recov = c.recov := rfl
@[simp] theorem updTile_pan (c : Chip) (t : Nat) (f : Tile → Tile) : (c.updTile t f).pan = c.pan := rfl
@[simp] theorem updTile_watches (c : Chip) (t : Nat) (f : Tile → Tile) : (c.updTile t f).watches = c.watches := rfl
@[simp] theorem updTile_harvests (c : Chip) (t : Nat) (f : Tile → Tile) : (c.updTile t f).harvests = c.harvests := rfl
@[simp] theorem updTile_harvQ (c : Chip) (t : Nat) (f : Tile → Tile) : (c.updTile t f).harvQ = c.harvQ := rfl
@[simp] theorem updTile_boot (c : Chip) (t : Nat) (f : Tile → Tile) : (c.updTile t f).boot = c.boot := rfl
@[simp] theorem updTile_pwr (c : Chip) (t : Nat) (f : Tile → Tile) : (c.updTile t f).pwr = c.pwr := rfl
@[simp] theorem updTile_nor (c : Chip) (t : Nat) (f : Tile → Tile) : (c.updTile t f).nor = c.nor := rfl
@[simp] theorem updTile_fresh (c : Chip) (t : Nat) (f : Tile → Tile) : (c.updTile t f).fresh = c.fresh := rfl
@[simp] theorem updTile_ext (c : Chip) (t : Nat) (f : Tile → Tile) : (c.updTile t f).ext = c.ext := rfl

/-! ### Chip.setStr -/

@[simp] theorem setStr_tide (c : Chip) (n : Strait) (x : Str) : (c.setStr n x).tide = c.tide := rfl
@[simp] theorem setStr_runs (c : Chip) (n : Strait) (x : Str) : (c.setStr n x).runs = c.runs := rfl
@[simp] theorem setStr_launching (c : Chip) (n : Strait) (x : Str) : (c.setStr n x).launching = c.launching := rfl
@[simp] theorem setStr_wsets (c : Chip) (n : Strait) (x : Str) : (c.setStr n x).wsets = c.wsets := rfl
@[simp] theorem setStr_regions (c : Chip) (n : Strait) (x : Str) : (c.setStr n x).regions = c.regions := rfl
@[simp] theorem setStr_tiles (c : Chip) (n : Strait) (x : Str) : (c.setStr n x).tiles = c.tiles := rfl
@[simp] theorem setStr_spdMem (c : Chip) (n : Strait) (x : Str) : (c.setStr n x).spdMem = c.spdMem := rfl
@[simp] theorem setStr_spdPoison (c : Chip) (n : Strait) (x : Str) : (c.setStr n x).spdPoison = c.spdPoison := rfl
@[simp] theorem setStr_spdErr (c : Chip) (n : Strait) (x : Str) : (c.setStr n x).spdErr = c.spdErr := rfl
@[simp] theorem setStr_lpMem (c : Chip) (n : Strait) (x : Str) : (c.setStr n x).lpMem = c.lpMem := rfl
@[simp] theorem setStr_lpPoison (c : Chip) (n : Strait) (x : Str) : (c.setStr n x).lpPoison = c.lpPoison := rfl
@[simp] theorem setStr_lpErr (c : Chip) (n : Strait) (x : Str) : (c.setStr n x).lpErr = c.lpErr := rfl
@[simp] theorem setStr_macBad (c : Chip) (n : Strait) (x : Str) : (c.setStr n x).macBad = c.macBad := rfl
@[simp] theorem setStr_undef (c : Chip) (n : Strait) (x : Str) : (c.setStr n x).undef = c.undef := rfl
@[simp] theorem setStr_defined (c : Chip) (n : Strait) (x : Str) : (c.setStr n x).defined = c.defined := rfl
@[simp] theorem setStr_chans (c : Chip) (n : Strait) (x : Str) : (c.setStr n x).chans = c.chans := rfl
@[simp] theorem setStr_engines (c : Chip) (n : Strait) (x : Str) : (c.setStr n x).engines = c.engines := rfl
@[simp] theorem setStr_disp (c : Chip) (n : Strait) (x : Str) : (c.setStr n x).disp = c.disp := rfl
@[simp] theorem setStr_attWin (c : Chip) (n : Strait) (x : Str) : (c.setStr n x).attWin = c.attWin := rfl
@[simp] theorem setStr_attPoison (c : Chip) (n : Strait) (x : Str) : (c.setStr n x).attPoison = c.attPoison := rfl
@[simp] theorem setStr_cdcs (c : Chip) (n : Strait) (x : Str) : (c.setStr n x).cdcs = c.cdcs := rfl
@[simp] theorem setStr_cslots (c : Chip) (n : Strait) (x : Str) : (c.setStr n x).cslots = c.cslots := rfl
@[simp] theorem setStr_pushes (c : Chip) (n : Strait) (x : Str) : (c.setStr n x).pushes = c.pushes := rfl
@[simp] theorem setStr_acks (c : Chip) (n : Strait) (x : Str) : (c.setStr n x).acks = c.acks := rfl
@[simp] theorem setStr_nextPush (c : Chip) (n : Strait) (x : Str) : (c.setStr n x).nextPush = c.nextPush := rfl
@[simp] theorem setStr_recheckSet (c : Chip) (n : Strait) (x : Str) : (c.setStr n x).recheckSet = c.recheckSet := rfl
@[simp] theorem setStr_recheckChunk (c : Chip) (n : Strait) (x : Str) : (c.setStr n x).recheckChunk = c.recheckChunk := rfl
@[simp] theorem setStr_recheckPoison (c : Chip) (n : Strait) (x : Str) : (c.setStr n x).recheckPoison = c.recheckPoison := rfl
@[simp] theorem setStr_damagedCnt (c : Chip) (n : Strait) (x : Str) : (c.setStr n x).damagedCnt = c.damagedCnt := rfl
@[simp] theorem setStr_ring (c : Chip) (n : Strait) (x : Str) : (c.setStr n x).ring = c.ring := rfl
@[simp] theorem setStr_ctxs (c : Chip) (n : Strait) (x : Str) : (c.setStr n x).ctxs = c.ctxs := rfl
@[simp] theorem setStr_keeper (c : Chip) (n : Strait) (x : Str) : (c.setStr n x).keeper = c.keeper := rfl
@[simp] theorem setStr_tray (c : Chip) (n : Strait) (x : Str) : (c.setStr n x).tray = c.tray := rfl
@[simp] theorem setStr_slack (c : Chip) (n : Strait) (x : Str) : (c.setStr n x).slack = c.slack := rfl
@[simp] theorem setStr_recov (c : Chip) (n : Strait) (x : Str) : (c.setStr n x).recov = c.recov := rfl
@[simp] theorem setStr_pan (c : Chip) (n : Strait) (x : Str) : (c.setStr n x).pan = c.pan := rfl
@[simp] theorem setStr_watches (c : Chip) (n : Strait) (x : Str) : (c.setStr n x).watches = c.watches := rfl
@[simp] theorem setStr_harvests (c : Chip) (n : Strait) (x : Str) : (c.setStr n x).harvests = c.harvests := rfl
@[simp] theorem setStr_harvQ (c : Chip) (n : Strait) (x : Str) : (c.setStr n x).harvQ = c.harvQ := rfl
@[simp] theorem setStr_boot (c : Chip) (n : Strait) (x : Str) : (c.setStr n x).boot = c.boot := rfl
@[simp] theorem setStr_pwr (c : Chip) (n : Strait) (x : Str) : (c.setStr n x).pwr = c.pwr := rfl
@[simp] theorem setStr_nor (c : Chip) (n : Strait) (x : Str) : (c.setStr n x).nor = c.nor := rfl
@[simp] theorem setStr_fresh (c : Chip) (n : Strait) (x : Str) : (c.setStr n x).fresh = c.fresh := rfl
@[simp] theorem setStr_ext (c : Chip) (n : Strait) (x : Str) : (c.setStr n x).ext = c.ext := rfl

/-! ### Chip.updStr -/

@[simp] theorem updStr_tide (c : Chip) (n : Strait) (f : Str → Str) : (c.updStr n f).tide = c.tide := rfl
@[simp] theorem updStr_runs (c : Chip) (n : Strait) (f : Str → Str) : (c.updStr n f).runs = c.runs := rfl
@[simp] theorem updStr_launching (c : Chip) (n : Strait) (f : Str → Str) : (c.updStr n f).launching = c.launching := rfl
@[simp] theorem updStr_wsets (c : Chip) (n : Strait) (f : Str → Str) : (c.updStr n f).wsets = c.wsets := rfl
@[simp] theorem updStr_regions (c : Chip) (n : Strait) (f : Str → Str) : (c.updStr n f).regions = c.regions := rfl
@[simp] theorem updStr_tiles (c : Chip) (n : Strait) (f : Str → Str) : (c.updStr n f).tiles = c.tiles := rfl
@[simp] theorem updStr_spdMem (c : Chip) (n : Strait) (f : Str → Str) : (c.updStr n f).spdMem = c.spdMem := rfl
@[simp] theorem updStr_spdPoison (c : Chip) (n : Strait) (f : Str → Str) : (c.updStr n f).spdPoison = c.spdPoison := rfl
@[simp] theorem updStr_spdErr (c : Chip) (n : Strait) (f : Str → Str) : (c.updStr n f).spdErr = c.spdErr := rfl
@[simp] theorem updStr_lpMem (c : Chip) (n : Strait) (f : Str → Str) : (c.updStr n f).lpMem = c.lpMem := rfl
@[simp] theorem updStr_lpPoison (c : Chip) (n : Strait) (f : Str → Str) : (c.updStr n f).lpPoison = c.lpPoison := rfl
@[simp] theorem updStr_lpErr (c : Chip) (n : Strait) (f : Str → Str) : (c.updStr n f).lpErr = c.lpErr := rfl
@[simp] theorem updStr_macBad (c : Chip) (n : Strait) (f : Str → Str) : (c.updStr n f).macBad = c.macBad := rfl
@[simp] theorem updStr_undef (c : Chip) (n : Strait) (f : Str → Str) : (c.updStr n f).undef = c.undef := rfl
@[simp] theorem updStr_defined (c : Chip) (n : Strait) (f : Str → Str) : (c.updStr n f).defined = c.defined := rfl
@[simp] theorem updStr_chans (c : Chip) (n : Strait) (f : Str → Str) : (c.updStr n f).chans = c.chans := rfl
@[simp] theorem updStr_engines (c : Chip) (n : Strait) (f : Str → Str) : (c.updStr n f).engines = c.engines := rfl
@[simp] theorem updStr_disp (c : Chip) (n : Strait) (f : Str → Str) : (c.updStr n f).disp = c.disp := rfl
@[simp] theorem updStr_attWin (c : Chip) (n : Strait) (f : Str → Str) : (c.updStr n f).attWin = c.attWin := rfl
@[simp] theorem updStr_attPoison (c : Chip) (n : Strait) (f : Str → Str) : (c.updStr n f).attPoison = c.attPoison := rfl
@[simp] theorem updStr_cdcs (c : Chip) (n : Strait) (f : Str → Str) : (c.updStr n f).cdcs = c.cdcs := rfl
@[simp] theorem updStr_cslots (c : Chip) (n : Strait) (f : Str → Str) : (c.updStr n f).cslots = c.cslots := rfl
@[simp] theorem updStr_pushes (c : Chip) (n : Strait) (f : Str → Str) : (c.updStr n f).pushes = c.pushes := rfl
@[simp] theorem updStr_acks (c : Chip) (n : Strait) (f : Str → Str) : (c.updStr n f).acks = c.acks := rfl
@[simp] theorem updStr_nextPush (c : Chip) (n : Strait) (f : Str → Str) : (c.updStr n f).nextPush = c.nextPush := rfl
@[simp] theorem updStr_recheckSet (c : Chip) (n : Strait) (f : Str → Str) : (c.updStr n f).recheckSet = c.recheckSet := rfl
@[simp] theorem updStr_recheckChunk (c : Chip) (n : Strait) (f : Str → Str) : (c.updStr n f).recheckChunk = c.recheckChunk := rfl
@[simp] theorem updStr_recheckPoison (c : Chip) (n : Strait) (f : Str → Str) : (c.updStr n f).recheckPoison = c.recheckPoison := rfl
@[simp] theorem updStr_damagedCnt (c : Chip) (n : Strait) (f : Str → Str) : (c.updStr n f).damagedCnt = c.damagedCnt := rfl
@[simp] theorem updStr_ring (c : Chip) (n : Strait) (f : Str → Str) : (c.updStr n f).ring = c.ring := rfl
@[simp] theorem updStr_ctxs (c : Chip) (n : Strait) (f : Str → Str) : (c.updStr n f).ctxs = c.ctxs := rfl
@[simp] theorem updStr_keeper (c : Chip) (n : Strait) (f : Str → Str) : (c.updStr n f).keeper = c.keeper := rfl
@[simp] theorem updStr_tray (c : Chip) (n : Strait) (f : Str → Str) : (c.updStr n f).tray = c.tray := rfl
@[simp] theorem updStr_slack (c : Chip) (n : Strait) (f : Str → Str) : (c.updStr n f).slack = c.slack := rfl
@[simp] theorem updStr_recov (c : Chip) (n : Strait) (f : Str → Str) : (c.updStr n f).recov = c.recov := rfl
@[simp] theorem updStr_pan (c : Chip) (n : Strait) (f : Str → Str) : (c.updStr n f).pan = c.pan := rfl
@[simp] theorem updStr_watches (c : Chip) (n : Strait) (f : Str → Str) : (c.updStr n f).watches = c.watches := rfl
@[simp] theorem updStr_harvests (c : Chip) (n : Strait) (f : Str → Str) : (c.updStr n f).harvests = c.harvests := rfl
@[simp] theorem updStr_harvQ (c : Chip) (n : Strait) (f : Str → Str) : (c.updStr n f).harvQ = c.harvQ := rfl
@[simp] theorem updStr_boot (c : Chip) (n : Strait) (f : Str → Str) : (c.updStr n f).boot = c.boot := rfl
@[simp] theorem updStr_pwr (c : Chip) (n : Strait) (f : Str → Str) : (c.updStr n f).pwr = c.pwr := rfl
@[simp] theorem updStr_nor (c : Chip) (n : Strait) (f : Str → Str) : (c.updStr n f).nor = c.nor := rfl
@[simp] theorem updStr_fresh (c : Chip) (n : Strait) (f : Str → Str) : (c.updStr n f).fresh = c.fresh := rfl
@[simp] theorem updStr_ext (c : Chip) (n : Strait) (f : Str → Str) : (c.updStr n f).ext = c.ext := rfl

/-! ### Chip.updChan -/

@[simp] theorem updChan_tide (c : Chip) (n : Nat) (f : Chan → Chan) : (c.updChan n f).tide = c.tide := rfl
@[simp] theorem updChan_runs (c : Chip) (n : Nat) (f : Chan → Chan) : (c.updChan n f).runs = c.runs := rfl
@[simp] theorem updChan_launching (c : Chip) (n : Nat) (f : Chan → Chan) : (c.updChan n f).launching = c.launching := rfl
@[simp] theorem updChan_wsets (c : Chip) (n : Nat) (f : Chan → Chan) : (c.updChan n f).wsets = c.wsets := rfl
@[simp] theorem updChan_regions (c : Chip) (n : Nat) (f : Chan → Chan) : (c.updChan n f).regions = c.regions := rfl
@[simp] theorem updChan_tiles (c : Chip) (n : Nat) (f : Chan → Chan) : (c.updChan n f).tiles = c.tiles := rfl
@[simp] theorem updChan_spdMem (c : Chip) (n : Nat) (f : Chan → Chan) : (c.updChan n f).spdMem = c.spdMem := rfl
@[simp] theorem updChan_spdPoison (c : Chip) (n : Nat) (f : Chan → Chan) : (c.updChan n f).spdPoison = c.spdPoison := rfl
@[simp] theorem updChan_spdErr (c : Chip) (n : Nat) (f : Chan → Chan) : (c.updChan n f).spdErr = c.spdErr := rfl
@[simp] theorem updChan_lpMem (c : Chip) (n : Nat) (f : Chan → Chan) : (c.updChan n f).lpMem = c.lpMem := rfl
@[simp] theorem updChan_lpPoison (c : Chip) (n : Nat) (f : Chan → Chan) : (c.updChan n f).lpPoison = c.lpPoison := rfl
@[simp] theorem updChan_lpErr (c : Chip) (n : Nat) (f : Chan → Chan) : (c.updChan n f).lpErr = c.lpErr := rfl
@[simp] theorem updChan_macBad (c : Chip) (n : Nat) (f : Chan → Chan) : (c.updChan n f).macBad = c.macBad := rfl
@[simp] theorem updChan_undef (c : Chip) (n : Nat) (f : Chan → Chan) : (c.updChan n f).undef = c.undef := rfl
@[simp] theorem updChan_defined (c : Chip) (n : Nat) (f : Chan → Chan) : (c.updChan n f).defined = c.defined := rfl
@[simp] theorem updChan_engines (c : Chip) (n : Nat) (f : Chan → Chan) : (c.updChan n f).engines = c.engines := rfl
@[simp] theorem updChan_disp (c : Chip) (n : Nat) (f : Chan → Chan) : (c.updChan n f).disp = c.disp := rfl
@[simp] theorem updChan_attWin (c : Chip) (n : Nat) (f : Chan → Chan) : (c.updChan n f).attWin = c.attWin := rfl
@[simp] theorem updChan_attPoison (c : Chip) (n : Nat) (f : Chan → Chan) : (c.updChan n f).attPoison = c.attPoison := rfl
@[simp] theorem updChan_cdcs (c : Chip) (n : Nat) (f : Chan → Chan) : (c.updChan n f).cdcs = c.cdcs := rfl
@[simp] theorem updChan_cslots (c : Chip) (n : Nat) (f : Chan → Chan) : (c.updChan n f).cslots = c.cslots := rfl
@[simp] theorem updChan_pushes (c : Chip) (n : Nat) (f : Chan → Chan) : (c.updChan n f).pushes = c.pushes := rfl
@[simp] theorem updChan_acks (c : Chip) (n : Nat) (f : Chan → Chan) : (c.updChan n f).acks = c.acks := rfl
@[simp] theorem updChan_nextPush (c : Chip) (n : Nat) (f : Chan → Chan) : (c.updChan n f).nextPush = c.nextPush := rfl
@[simp] theorem updChan_recheckSet (c : Chip) (n : Nat) (f : Chan → Chan) : (c.updChan n f).recheckSet = c.recheckSet := rfl
@[simp] theorem updChan_recheckChunk (c : Chip) (n : Nat) (f : Chan → Chan) : (c.updChan n f).recheckChunk = c.recheckChunk := rfl
@[simp] theorem updChan_recheckPoison (c : Chip) (n : Nat) (f : Chan → Chan) : (c.updChan n f).recheckPoison = c.recheckPoison := rfl
@[simp] theorem updChan_damagedCnt (c : Chip) (n : Nat) (f : Chan → Chan) : (c.updChan n f).damagedCnt = c.damagedCnt := rfl
@[simp] theorem updChan_strs (c : Chip) (n : Nat) (f : Chan → Chan) : (c.updChan n f).strs = c.strs := rfl
@[simp] theorem updChan_ring (c : Chip) (n : Nat) (f : Chan → Chan) : (c.updChan n f).ring = c.ring := rfl
@[simp] theorem updChan_ctxs (c : Chip) (n : Nat) (f : Chan → Chan) : (c.updChan n f).ctxs = c.ctxs := rfl
@[simp] theorem updChan_keeper (c : Chip) (n : Nat) (f : Chan → Chan) : (c.updChan n f).keeper = c.keeper := rfl
@[simp] theorem updChan_tray (c : Chip) (n : Nat) (f : Chan → Chan) : (c.updChan n f).tray = c.tray := rfl
@[simp] theorem updChan_slack (c : Chip) (n : Nat) (f : Chan → Chan) : (c.updChan n f).slack = c.slack := rfl
@[simp] theorem updChan_recov (c : Chip) (n : Nat) (f : Chan → Chan) : (c.updChan n f).recov = c.recov := rfl
@[simp] theorem updChan_pan (c : Chip) (n : Nat) (f : Chan → Chan) : (c.updChan n f).pan = c.pan := rfl
@[simp] theorem updChan_watches (c : Chip) (n : Nat) (f : Chan → Chan) : (c.updChan n f).watches = c.watches := rfl
@[simp] theorem updChan_harvests (c : Chip) (n : Nat) (f : Chan → Chan) : (c.updChan n f).harvests = c.harvests := rfl
@[simp] theorem updChan_harvQ (c : Chip) (n : Nat) (f : Chan → Chan) : (c.updChan n f).harvQ = c.harvQ := rfl
@[simp] theorem updChan_boot (c : Chip) (n : Nat) (f : Chan → Chan) : (c.updChan n f).boot = c.boot := rfl
@[simp] theorem updChan_pwr (c : Chip) (n : Nat) (f : Chan → Chan) : (c.updChan n f).pwr = c.pwr := rfl
@[simp] theorem updChan_nor (c : Chip) (n : Nat) (f : Chan → Chan) : (c.updChan n f).nor = c.nor := rfl
@[simp] theorem updChan_fresh (c : Chip) (n : Nat) (f : Chan → Chan) : (c.updChan n f).fresh = c.fresh := rfl
@[simp] theorem updChan_ext (c : Chip) (n : Nat) (f : Chan → Chan) : (c.updChan n f).ext = c.ext := rfl

/-! ### Chip.updEngine -/

@[simp] theorem updEngine_tide (c : Chip) (n : Nat) (f : Engine → Engine) : (c.updEngine n f).tide = c.tide := rfl
@[simp] theorem updEngine_runs (c : Chip) (n : Nat) (f : Engine → Engine) : (c.updEngine n f).runs = c.runs := rfl
@[simp] theorem updEngine_launching (c : Chip) (n : Nat) (f : Engine → Engine) : (c.updEngine n f).launching = c.launching := rfl
@[simp] theorem updEngine_wsets (c : Chip) (n : Nat) (f : Engine → Engine) : (c.updEngine n f).wsets = c.wsets := rfl
@[simp] theorem updEngine_regions (c : Chip) (n : Nat) (f : Engine → Engine) : (c.updEngine n f).regions = c.regions := rfl
@[simp] theorem updEngine_tiles (c : Chip) (n : Nat) (f : Engine → Engine) : (c.updEngine n f).tiles = c.tiles := rfl
@[simp] theorem updEngine_spdMem (c : Chip) (n : Nat) (f : Engine → Engine) : (c.updEngine n f).spdMem = c.spdMem := rfl
@[simp] theorem updEngine_spdPoison (c : Chip) (n : Nat) (f : Engine → Engine) : (c.updEngine n f).spdPoison = c.spdPoison := rfl
@[simp] theorem updEngine_spdErr (c : Chip) (n : Nat) (f : Engine → Engine) : (c.updEngine n f).spdErr = c.spdErr := rfl
@[simp] theorem updEngine_lpMem (c : Chip) (n : Nat) (f : Engine → Engine) : (c.updEngine n f).lpMem = c.lpMem := rfl
@[simp] theorem updEngine_lpPoison (c : Chip) (n : Nat) (f : Engine → Engine) : (c.updEngine n f).lpPoison = c.lpPoison := rfl
@[simp] theorem updEngine_lpErr (c : Chip) (n : Nat) (f : Engine → Engine) : (c.updEngine n f).lpErr = c.lpErr := rfl
@[simp] theorem updEngine_macBad (c : Chip) (n : Nat) (f : Engine → Engine) : (c.updEngine n f).macBad = c.macBad := rfl
@[simp] theorem updEngine_undef (c : Chip) (n : Nat) (f : Engine → Engine) : (c.updEngine n f).undef = c.undef := rfl
@[simp] theorem updEngine_defined (c : Chip) (n : Nat) (f : Engine → Engine) : (c.updEngine n f).defined = c.defined := rfl
@[simp] theorem updEngine_chans (c : Chip) (n : Nat) (f : Engine → Engine) : (c.updEngine n f).chans = c.chans := rfl
@[simp] theorem updEngine_disp (c : Chip) (n : Nat) (f : Engine → Engine) : (c.updEngine n f).disp = c.disp := rfl
@[simp] theorem updEngine_attWin (c : Chip) (n : Nat) (f : Engine → Engine) : (c.updEngine n f).attWin = c.attWin := rfl
@[simp] theorem updEngine_attPoison (c : Chip) (n : Nat) (f : Engine → Engine) : (c.updEngine n f).attPoison = c.attPoison := rfl
@[simp] theorem updEngine_cdcs (c : Chip) (n : Nat) (f : Engine → Engine) : (c.updEngine n f).cdcs = c.cdcs := rfl
@[simp] theorem updEngine_cslots (c : Chip) (n : Nat) (f : Engine → Engine) : (c.updEngine n f).cslots = c.cslots := rfl
@[simp] theorem updEngine_pushes (c : Chip) (n : Nat) (f : Engine → Engine) : (c.updEngine n f).pushes = c.pushes := rfl
@[simp] theorem updEngine_acks (c : Chip) (n : Nat) (f : Engine → Engine) : (c.updEngine n f).acks = c.acks := rfl
@[simp] theorem updEngine_nextPush (c : Chip) (n : Nat) (f : Engine → Engine) : (c.updEngine n f).nextPush = c.nextPush := rfl
@[simp] theorem updEngine_recheckSet (c : Chip) (n : Nat) (f : Engine → Engine) : (c.updEngine n f).recheckSet = c.recheckSet := rfl
@[simp] theorem updEngine_recheckChunk (c : Chip) (n : Nat) (f : Engine → Engine) : (c.updEngine n f).recheckChunk = c.recheckChunk := rfl
@[simp] theorem updEngine_recheckPoison (c : Chip) (n : Nat) (f : Engine → Engine) : (c.updEngine n f).recheckPoison = c.recheckPoison := rfl
@[simp] theorem updEngine_damagedCnt (c : Chip) (n : Nat) (f : Engine → Engine) : (c.updEngine n f).damagedCnt = c.damagedCnt := rfl
@[simp] theorem updEngine_strs (c : Chip) (n : Nat) (f : Engine → Engine) : (c.updEngine n f).strs = c.strs := rfl
@[simp] theorem updEngine_ring (c : Chip) (n : Nat) (f : Engine → Engine) : (c.updEngine n f).ring = c.ring := rfl
@[simp] theorem updEngine_ctxs (c : Chip) (n : Nat) (f : Engine → Engine) : (c.updEngine n f).ctxs = c.ctxs := rfl
@[simp] theorem updEngine_keeper (c : Chip) (n : Nat) (f : Engine → Engine) : (c.updEngine n f).keeper = c.keeper := rfl
@[simp] theorem updEngine_tray (c : Chip) (n : Nat) (f : Engine → Engine) : (c.updEngine n f).tray = c.tray := rfl
@[simp] theorem updEngine_slack (c : Chip) (n : Nat) (f : Engine → Engine) : (c.updEngine n f).slack = c.slack := rfl
@[simp] theorem updEngine_recov (c : Chip) (n : Nat) (f : Engine → Engine) : (c.updEngine n f).recov = c.recov := rfl
@[simp] theorem updEngine_pan (c : Chip) (n : Nat) (f : Engine → Engine) : (c.updEngine n f).pan = c.pan := rfl
@[simp] theorem updEngine_watches (c : Chip) (n : Nat) (f : Engine → Engine) : (c.updEngine n f).watches = c.watches := rfl
@[simp] theorem updEngine_harvests (c : Chip) (n : Nat) (f : Engine → Engine) : (c.updEngine n f).harvests = c.harvests := rfl
@[simp] theorem updEngine_harvQ (c : Chip) (n : Nat) (f : Engine → Engine) : (c.updEngine n f).harvQ = c.harvQ := rfl
@[simp] theorem updEngine_boot (c : Chip) (n : Nat) (f : Engine → Engine) : (c.updEngine n f).boot = c.boot := rfl
@[simp] theorem updEngine_pwr (c : Chip) (n : Nat) (f : Engine → Engine) : (c.updEngine n f).pwr = c.pwr := rfl
@[simp] theorem updEngine_nor (c : Chip) (n : Nat) (f : Engine → Engine) : (c.updEngine n f).nor = c.nor := rfl
@[simp] theorem updEngine_fresh (c : Chip) (n : Nat) (f : Engine → Engine) : (c.updEngine n f).fresh = c.fresh := rfl
@[simp] theorem updEngine_ext (c : Chip) (n : Nat) (f : Engine → Engine) : (c.updEngine n f).ext = c.ext := rfl

/-! ### Chip.updCdc -/

@[simp] theorem updCdc_tide (c : Chip) (n : Nat) (f : Cdc → Cdc) : (c.updCdc n f).tide = c.tide := rfl
@[simp] theorem updCdc_runs (c : Chip) (n : Nat) (f : Cdc → Cdc) : (c.updCdc n f).runs = c.runs := rfl
@[simp] theorem updCdc_launching (c : Chip) (n : Nat) (f : Cdc → Cdc) : (c.updCdc n f).launching = c.launching := rfl
@[simp] theorem updCdc_wsets (c : Chip) (n : Nat) (f : Cdc → Cdc) : (c.updCdc n f).wsets = c.wsets := rfl
@[simp] theorem updCdc_regions (c : Chip) (n : Nat) (f : Cdc → Cdc) : (c.updCdc n f).regions = c.regions := rfl
@[simp] theorem updCdc_tiles (c : Chip) (n : Nat) (f : Cdc → Cdc) : (c.updCdc n f).tiles = c.tiles := rfl
@[simp] theorem updCdc_spdMem (c : Chip) (n : Nat) (f : Cdc → Cdc) : (c.updCdc n f).spdMem = c.spdMem := rfl
@[simp] theorem updCdc_spdPoison (c : Chip) (n : Nat) (f : Cdc → Cdc) : (c.updCdc n f).spdPoison = c.spdPoison := rfl
@[simp] theorem updCdc_spdErr (c : Chip) (n : Nat) (f : Cdc → Cdc) : (c.updCdc n f).spdErr = c.spdErr := rfl
@[simp] theorem updCdc_lpMem (c : Chip) (n : Nat) (f : Cdc → Cdc) : (c.updCdc n f).lpMem = c.lpMem := rfl
@[simp] theorem updCdc_lpPoison (c : Chip) (n : Nat) (f : Cdc → Cdc) : (c.updCdc n f).lpPoison = c.lpPoison := rfl
@[simp] theorem updCdc_lpErr (c : Chip) (n : Nat) (f : Cdc → Cdc) : (c.updCdc n f).lpErr = c.lpErr := rfl
@[simp] theorem updCdc_macBad (c : Chip) (n : Nat) (f : Cdc → Cdc) : (c.updCdc n f).macBad = c.macBad := rfl
@[simp] theorem updCdc_undef (c : Chip) (n : Nat) (f : Cdc → Cdc) : (c.updCdc n f).undef = c.undef := rfl
@[simp] theorem updCdc_defined (c : Chip) (n : Nat) (f : Cdc → Cdc) : (c.updCdc n f).defined = c.defined := rfl
@[simp] theorem updCdc_chans (c : Chip) (n : Nat) (f : Cdc → Cdc) : (c.updCdc n f).chans = c.chans := rfl
@[simp] theorem updCdc_engines (c : Chip) (n : Nat) (f : Cdc → Cdc) : (c.updCdc n f).engines = c.engines := rfl
@[simp] theorem updCdc_disp (c : Chip) (n : Nat) (f : Cdc → Cdc) : (c.updCdc n f).disp = c.disp := rfl
@[simp] theorem updCdc_attWin (c : Chip) (n : Nat) (f : Cdc → Cdc) : (c.updCdc n f).attWin = c.attWin := rfl
@[simp] theorem updCdc_attPoison (c : Chip) (n : Nat) (f : Cdc → Cdc) : (c.updCdc n f).attPoison = c.attPoison := rfl
@[simp] theorem updCdc_cslots (c : Chip) (n : Nat) (f : Cdc → Cdc) : (c.updCdc n f).cslots = c.cslots := rfl
@[simp] theorem updCdc_pushes (c : Chip) (n : Nat) (f : Cdc → Cdc) : (c.updCdc n f).pushes = c.pushes := rfl
@[simp] theorem updCdc_acks (c : Chip) (n : Nat) (f : Cdc → Cdc) : (c.updCdc n f).acks = c.acks := rfl
@[simp] theorem updCdc_nextPush (c : Chip) (n : Nat) (f : Cdc → Cdc) : (c.updCdc n f).nextPush = c.nextPush := rfl
@[simp] theorem updCdc_recheckSet (c : Chip) (n : Nat) (f : Cdc → Cdc) : (c.updCdc n f).recheckSet = c.recheckSet := rfl
@[simp] theorem updCdc_recheckChunk (c : Chip) (n : Nat) (f : Cdc → Cdc) : (c.updCdc n f).recheckChunk = c.recheckChunk := rfl
@[simp] theorem updCdc_recheckPoison (c : Chip) (n : Nat) (f : Cdc → Cdc) : (c.updCdc n f).recheckPoison = c.recheckPoison := rfl
@[simp] theorem updCdc_damagedCnt (c : Chip) (n : Nat) (f : Cdc → Cdc) : (c.updCdc n f).damagedCnt = c.damagedCnt := rfl
@[simp] theorem updCdc_strs (c : Chip) (n : Nat) (f : Cdc → Cdc) : (c.updCdc n f).strs = c.strs := rfl
@[simp] theorem updCdc_ring (c : Chip) (n : Nat) (f : Cdc → Cdc) : (c.updCdc n f).ring = c.ring := rfl
@[simp] theorem updCdc_ctxs (c : Chip) (n : Nat) (f : Cdc → Cdc) : (c.updCdc n f).ctxs = c.ctxs := rfl
@[simp] theorem updCdc_keeper (c : Chip) (n : Nat) (f : Cdc → Cdc) : (c.updCdc n f).keeper = c.keeper := rfl
@[simp] theorem updCdc_tray (c : Chip) (n : Nat) (f : Cdc → Cdc) : (c.updCdc n f).tray = c.tray := rfl
@[simp] theorem updCdc_slack (c : Chip) (n : Nat) (f : Cdc → Cdc) : (c.updCdc n f).slack = c.slack := rfl
@[simp] theorem updCdc_recov (c : Chip) (n : Nat) (f : Cdc → Cdc) : (c.updCdc n f).recov = c.recov := rfl
@[simp] theorem updCdc_pan (c : Chip) (n : Nat) (f : Cdc → Cdc) : (c.updCdc n f).pan = c.pan := rfl
@[simp] theorem updCdc_watches (c : Chip) (n : Nat) (f : Cdc → Cdc) : (c.updCdc n f).watches = c.watches := rfl
@[simp] theorem updCdc_harvests (c : Chip) (n : Nat) (f : Cdc → Cdc) : (c.updCdc n f).harvests = c.harvests := rfl
@[simp] theorem updCdc_harvQ (c : Chip) (n : Nat) (f : Cdc → Cdc) : (c.updCdc n f).harvQ = c.harvQ := rfl
@[simp] theorem updCdc_boot (c : Chip) (n : Nat) (f : Cdc → Cdc) : (c.updCdc n f).boot = c.boot := rfl
@[simp] theorem updCdc_pwr (c : Chip) (n : Nat) (f : Cdc → Cdc) : (c.updCdc n f).pwr = c.pwr := rfl
@[simp] theorem updCdc_nor (c : Chip) (n : Nat) (f : Cdc → Cdc) : (c.updCdc n f).nor = c.nor := rfl
@[simp] theorem updCdc_fresh (c : Chip) (n : Nat) (f : Cdc → Cdc) : (c.updCdc n f).fresh = c.fresh := rfl
@[simp] theorem updCdc_ext (c : Chip) (n : Nat) (f : Cdc → Cdc) : (c.updCdc n f).ext = c.ext := rfl

/-! ### Chip.updCslot -/

@[simp] theorem updCslot_tide (c : Chip) (n : Nat) (f : CSlot → CSlot) : (c.updCslot n f).tide = c.tide := rfl
@[simp] theorem updCslot_runs (c : Chip) (n : Nat) (f : CSlot → CSlot) : (c.updCslot n f).runs = c.runs := rfl
@[simp] theorem updCslot_launching (c : Chip) (n : Nat) (f : CSlot → CSlot) : (c.updCslot n f).launching = c.launching := rfl
@[simp] theorem updCslot_wsets (c : Chip) (n : Nat) (f : CSlot → CSlot) : (c.updCslot n f).wsets = c.wsets := rfl
@[simp] theorem updCslot_regions (c : Chip) (n : Nat) (f : CSlot → CSlot) : (c.updCslot n f).regions = c.regions := rfl
@[simp] theorem updCslot_tiles (c : Chip) (n : Nat) (f : CSlot → CSlot) : (c.updCslot n f).tiles = c.tiles := rfl
@[simp] theorem updCslot_spdMem (c : Chip) (n : Nat) (f : CSlot → CSlot) : (c.updCslot n f).spdMem = c.spdMem := rfl
@[simp] theorem updCslot_spdPoison (c : Chip) (n : Nat) (f : CSlot → CSlot) : (c.updCslot n f).spdPoison = c.spdPoison := rfl
@[simp] theorem updCslot_spdErr (c : Chip) (n : Nat) (f : CSlot → CSlot) : (c.updCslot n f).spdErr = c.spdErr := rfl
@[simp] theorem updCslot_lpMem (c : Chip) (n : Nat) (f : CSlot → CSlot) : (c.updCslot n f).lpMem = c.lpMem := rfl
@[simp] theorem updCslot_lpPoison (c : Chip) (n : Nat) (f : CSlot → CSlot) : (c.updCslot n f).lpPoison = c.lpPoison := rfl
@[simp] theorem updCslot_lpErr (c : Chip) (n : Nat) (f : CSlot → CSlot) : (c.updCslot n f).lpErr = c.lpErr := rfl
@[simp] theorem updCslot_macBad (c : Chip) (n : Nat) (f : CSlot → CSlot) : (c.updCslot n f).macBad = c.macBad := rfl
@[simp] theorem updCslot_undef (c : Chip) (n : Nat) (f : CSlot → CSlot) : (c.updCslot n f).undef = c.undef := rfl
@[simp] theorem updCslot_defined (c : Chip) (n : Nat) (f : CSlot → CSlot) : (c.updCslot n f).defined = c.defined := rfl
@[simp] theorem updCslot_chans (c : Chip) (n : Nat) (f : CSlot → CSlot) : (c.updCslot n f).chans = c.chans := rfl
@[simp] theorem updCslot_engines (c : Chip) (n : Nat) (f : CSlot → CSlot) : (c.updCslot n f).engines = c.engines := rfl
@[simp] theorem updCslot_disp (c : Chip) (n : Nat) (f : CSlot → CSlot) : (c.updCslot n f).disp = c.disp := rfl
@[simp] theorem updCslot_attWin (c : Chip) (n : Nat) (f : CSlot → CSlot) : (c.updCslot n f).attWin = c.attWin := rfl
@[simp] theorem updCslot_attPoison (c : Chip) (n : Nat) (f : CSlot → CSlot) : (c.updCslot n f).attPoison = c.attPoison := rfl
@[simp] theorem updCslot_cdcs (c : Chip) (n : Nat) (f : CSlot → CSlot) : (c.updCslot n f).cdcs = c.cdcs := rfl
@[simp] theorem updCslot_pushes (c : Chip) (n : Nat) (f : CSlot → CSlot) : (c.updCslot n f).pushes = c.pushes := rfl
@[simp] theorem updCslot_acks (c : Chip) (n : Nat) (f : CSlot → CSlot) : (c.updCslot n f).acks = c.acks := rfl
@[simp] theorem updCslot_nextPush (c : Chip) (n : Nat) (f : CSlot → CSlot) : (c.updCslot n f).nextPush = c.nextPush := rfl
@[simp] theorem updCslot_recheckSet (c : Chip) (n : Nat) (f : CSlot → CSlot) : (c.updCslot n f).recheckSet = c.recheckSet := rfl
@[simp] theorem updCslot_recheckChunk (c : Chip) (n : Nat) (f : CSlot → CSlot) : (c.updCslot n f).recheckChunk = c.recheckChunk := rfl
@[simp] theorem updCslot_recheckPoison (c : Chip) (n : Nat) (f : CSlot → CSlot) : (c.updCslot n f).recheckPoison = c.recheckPoison := rfl
@[simp] theorem updCslot_damagedCnt (c : Chip) (n : Nat) (f : CSlot → CSlot) : (c.updCslot n f).damagedCnt = c.damagedCnt := rfl
@[simp] theorem updCslot_strs (c : Chip) (n : Nat) (f : CSlot → CSlot) : (c.updCslot n f).strs = c.strs := rfl
@[simp] theorem updCslot_ring (c : Chip) (n : Nat) (f : CSlot → CSlot) : (c.updCslot n f).ring = c.ring := rfl
@[simp] theorem updCslot_ctxs (c : Chip) (n : Nat) (f : CSlot → CSlot) : (c.updCslot n f).ctxs = c.ctxs := rfl
@[simp] theorem updCslot_keeper (c : Chip) (n : Nat) (f : CSlot → CSlot) : (c.updCslot n f).keeper = c.keeper := rfl
@[simp] theorem updCslot_tray (c : Chip) (n : Nat) (f : CSlot → CSlot) : (c.updCslot n f).tray = c.tray := rfl
@[simp] theorem updCslot_slack (c : Chip) (n : Nat) (f : CSlot → CSlot) : (c.updCslot n f).slack = c.slack := rfl
@[simp] theorem updCslot_recov (c : Chip) (n : Nat) (f : CSlot → CSlot) : (c.updCslot n f).recov = c.recov := rfl
@[simp] theorem updCslot_pan (c : Chip) (n : Nat) (f : CSlot → CSlot) : (c.updCslot n f).pan = c.pan := rfl
@[simp] theorem updCslot_watches (c : Chip) (n : Nat) (f : CSlot → CSlot) : (c.updCslot n f).watches = c.watches := rfl
@[simp] theorem updCslot_harvests (c : Chip) (n : Nat) (f : CSlot → CSlot) : (c.updCslot n f).harvests = c.harvests := rfl
@[simp] theorem updCslot_harvQ (c : Chip) (n : Nat) (f : CSlot → CSlot) : (c.updCslot n f).harvQ = c.harvQ := rfl
@[simp] theorem updCslot_boot (c : Chip) (n : Nat) (f : CSlot → CSlot) : (c.updCslot n f).boot = c.boot := rfl
@[simp] theorem updCslot_pwr (c : Chip) (n : Nat) (f : CSlot → CSlot) : (c.updCslot n f).pwr = c.pwr := rfl
@[simp] theorem updCslot_nor (c : Chip) (n : Nat) (f : CSlot → CSlot) : (c.updCslot n f).nor = c.nor := rfl
@[simp] theorem updCslot_fresh (c : Chip) (n : Nat) (f : CSlot → CSlot) : (c.updCslot n f).fresh = c.fresh := rfl
@[simp] theorem updCslot_ext (c : Chip) (n : Nat) (f : CSlot → CSlot) : (c.updCslot n f).ext = c.ext := rfl

/-! ### Chip.updCtx -/

@[simp] theorem updCtx_tide (c : Chip) (n : Nat) (f : Ctx → Ctx) : (c.updCtx n f).tide = c.tide := rfl
@[simp] theorem updCtx_runs (c : Chip) (n : Nat) (f : Ctx → Ctx) : (c.updCtx n f).runs = c.runs := rfl
@[simp] theorem updCtx_launching (c : Chip) (n : Nat) (f : Ctx → Ctx) : (c.updCtx n f).launching = c.launching := rfl
@[simp] theorem updCtx_wsets (c : Chip) (n : Nat) (f : Ctx → Ctx) : (c.updCtx n f).wsets = c.wsets := rfl
@[simp] theorem updCtx_regions (c : Chip) (n : Nat) (f : Ctx → Ctx) : (c.updCtx n f).regions = c.regions := rfl
@[simp] theorem updCtx_tiles (c : Chip) (n : Nat) (f : Ctx → Ctx) : (c.updCtx n f).tiles = c.tiles := rfl
@[simp] theorem updCtx_spdMem (c : Chip) (n : Nat) (f : Ctx → Ctx) : (c.updCtx n f).spdMem = c.spdMem := rfl
@[simp] theorem updCtx_spdPoison (c : Chip) (n : Nat) (f : Ctx → Ctx) : (c.updCtx n f).spdPoison = c.spdPoison := rfl
@[simp] theorem updCtx_spdErr (c : Chip) (n : Nat) (f : Ctx → Ctx) : (c.updCtx n f).spdErr = c.spdErr := rfl
@[simp] theorem updCtx_lpMem (c : Chip) (n : Nat) (f : Ctx → Ctx) : (c.updCtx n f).lpMem = c.lpMem := rfl
@[simp] theorem updCtx_lpPoison (c : Chip) (n : Nat) (f : Ctx → Ctx) : (c.updCtx n f).lpPoison = c.lpPoison := rfl
@[simp] theorem updCtx_lpErr (c : Chip) (n : Nat) (f : Ctx → Ctx) : (c.updCtx n f).lpErr = c.lpErr := rfl
@[simp] theorem updCtx_macBad (c : Chip) (n : Nat) (f : Ctx → Ctx) : (c.updCtx n f).macBad = c.macBad := rfl
@[simp] theorem updCtx_undef (c : Chip) (n : Nat) (f : Ctx → Ctx) : (c.updCtx n f).undef = c.undef := rfl
@[simp] theorem updCtx_defined (c : Chip) (n : Nat) (f : Ctx → Ctx) : (c.updCtx n f).defined = c.defined := rfl
@[simp] theorem updCtx_chans (c : Chip) (n : Nat) (f : Ctx → Ctx) : (c.updCtx n f).chans = c.chans := rfl
@[simp] theorem updCtx_engines (c : Chip) (n : Nat) (f : Ctx → Ctx) : (c.updCtx n f).engines = c.engines := rfl
@[simp] theorem updCtx_disp (c : Chip) (n : Nat) (f : Ctx → Ctx) : (c.updCtx n f).disp = c.disp := rfl
@[simp] theorem updCtx_attWin (c : Chip) (n : Nat) (f : Ctx → Ctx) : (c.updCtx n f).attWin = c.attWin := rfl
@[simp] theorem updCtx_attPoison (c : Chip) (n : Nat) (f : Ctx → Ctx) : (c.updCtx n f).attPoison = c.attPoison := rfl
@[simp] theorem updCtx_cdcs (c : Chip) (n : Nat) (f : Ctx → Ctx) : (c.updCtx n f).cdcs = c.cdcs := rfl
@[simp] theorem updCtx_cslots (c : Chip) (n : Nat) (f : Ctx → Ctx) : (c.updCtx n f).cslots = c.cslots := rfl
@[simp] theorem updCtx_pushes (c : Chip) (n : Nat) (f : Ctx → Ctx) : (c.updCtx n f).pushes = c.pushes := rfl
@[simp] theorem updCtx_acks (c : Chip) (n : Nat) (f : Ctx → Ctx) : (c.updCtx n f).acks = c.acks := rfl
@[simp] theorem updCtx_nextPush (c : Chip) (n : Nat) (f : Ctx → Ctx) : (c.updCtx n f).nextPush = c.nextPush := rfl
@[simp] theorem updCtx_recheckSet (c : Chip) (n : Nat) (f : Ctx → Ctx) : (c.updCtx n f).recheckSet = c.recheckSet := rfl
@[simp] theorem updCtx_recheckChunk (c : Chip) (n : Nat) (f : Ctx → Ctx) : (c.updCtx n f).recheckChunk = c.recheckChunk := rfl
@[simp] theorem updCtx_recheckPoison (c : Chip) (n : Nat) (f : Ctx → Ctx) : (c.updCtx n f).recheckPoison = c.recheckPoison := rfl
@[simp] theorem updCtx_damagedCnt (c : Chip) (n : Nat) (f : Ctx → Ctx) : (c.updCtx n f).damagedCnt = c.damagedCnt := rfl
@[simp] theorem updCtx_strs (c : Chip) (n : Nat) (f : Ctx → Ctx) : (c.updCtx n f).strs = c.strs := rfl
@[simp] theorem updCtx_ring (c : Chip) (n : Nat) (f : Ctx → Ctx) : (c.updCtx n f).ring = c.ring := rfl
@[simp] theorem updCtx_keeper (c : Chip) (n : Nat) (f : Ctx → Ctx) : (c.updCtx n f).keeper = c.keeper := rfl
@[simp] theorem updCtx_tray (c : Chip) (n : Nat) (f : Ctx → Ctx) : (c.updCtx n f).tray = c.tray := rfl
@[simp] theorem updCtx_slack (c : Chip) (n : Nat) (f : Ctx → Ctx) : (c.updCtx n f).slack = c.slack := rfl
@[simp] theorem updCtx_recov (c : Chip) (n : Nat) (f : Ctx → Ctx) : (c.updCtx n f).recov = c.recov := rfl
@[simp] theorem updCtx_pan (c : Chip) (n : Nat) (f : Ctx → Ctx) : (c.updCtx n f).pan = c.pan := rfl
@[simp] theorem updCtx_watches (c : Chip) (n : Nat) (f : Ctx → Ctx) : (c.updCtx n f).watches = c.watches := rfl
@[simp] theorem updCtx_harvests (c : Chip) (n : Nat) (f : Ctx → Ctx) : (c.updCtx n f).harvests = c.harvests := rfl
@[simp] theorem updCtx_harvQ (c : Chip) (n : Nat) (f : Ctx → Ctx) : (c.updCtx n f).harvQ = c.harvQ := rfl
@[simp] theorem updCtx_boot (c : Chip) (n : Nat) (f : Ctx → Ctx) : (c.updCtx n f).boot = c.boot := rfl
@[simp] theorem updCtx_pwr (c : Chip) (n : Nat) (f : Ctx → Ctx) : (c.updCtx n f).pwr = c.pwr := rfl
@[simp] theorem updCtx_nor (c : Chip) (n : Nat) (f : Ctx → Ctx) : (c.updCtx n f).nor = c.nor := rfl
@[simp] theorem updCtx_fresh (c : Chip) (n : Nat) (f : Ctx → Ctx) : (c.updCtx n f).fresh = c.fresh := rfl
@[simp] theorem updCtx_ext (c : Chip) (n : Nat) (f : Ctx → Ctx) : (c.updCtx n f).ext = c.ext := rfl

/-! ### Chip.send -/

@[simp] theorem send_tide (c : Chip) (o : Out) : (c.send o).tide = c.tide := rfl
@[simp] theorem send_runs (c : Chip) (o : Out) : (c.send o).runs = c.runs := rfl
@[simp] theorem send_launching (c : Chip) (o : Out) : (c.send o).launching = c.launching := rfl
@[simp] theorem send_wsets (c : Chip) (o : Out) : (c.send o).wsets = c.wsets := rfl
@[simp] theorem send_regions (c : Chip) (o : Out) : (c.send o).regions = c.regions := rfl
@[simp] theorem send_tiles (c : Chip) (o : Out) : (c.send o).tiles = c.tiles := rfl
@[simp] theorem send_spdMem (c : Chip) (o : Out) : (c.send o).spdMem = c.spdMem := rfl
@[simp] theorem send_spdPoison (c : Chip) (o : Out) : (c.send o).spdPoison = c.spdPoison := rfl
@[simp] theorem send_spdErr (c : Chip) (o : Out) : (c.send o).spdErr = c.spdErr := rfl
@[simp] theorem send_lpMem (c : Chip) (o : Out) : (c.send o).lpMem = c.lpMem := rfl
@[simp] theorem send_lpPoison (c : Chip) (o : Out) : (c.send o).lpPoison = c.lpPoison := rfl
@[simp] theorem send_lpErr (c : Chip) (o : Out) : (c.send o).lpErr = c.lpErr := rfl
@[simp] theorem send_macBad (c : Chip) (o : Out) : (c.send o).macBad = c.macBad := rfl
@[simp] theorem send_undef (c : Chip) (o : Out) : (c.send o).undef = c.undef := rfl
@[simp] theorem send_defined (c : Chip) (o : Out) : (c.send o).defined = c.defined := rfl
@[simp] theorem send_chans (c : Chip) (o : Out) : (c.send o).chans = c.chans := rfl
@[simp] theorem send_engines (c : Chip) (o : Out) : (c.send o).engines = c.engines := rfl
@[simp] theorem send_disp (c : Chip) (o : Out) : (c.send o).disp = c.disp := rfl
@[simp] theorem send_attWin (c : Chip) (o : Out) : (c.send o).attWin = c.attWin := rfl
@[simp] theorem send_attPoison (c : Chip) (o : Out) : (c.send o).attPoison = c.attPoison := rfl
@[simp] theorem send_cdcs (c : Chip) (o : Out) : (c.send o).cdcs = c.cdcs := rfl
@[simp] theorem send_cslots (c : Chip) (o : Out) : (c.send o).cslots = c.cslots := rfl
@[simp] theorem send_pushes (c : Chip) (o : Out) : (c.send o).pushes = c.pushes := rfl
@[simp] theorem send_acks (c : Chip) (o : Out) : (c.send o).acks = c.acks := rfl
@[simp] theorem send_nextPush (c : Chip) (o : Out) : (c.send o).nextPush = c.nextPush := rfl
@[simp] theorem send_recheckSet (c : Chip) (o : Out) : (c.send o).recheckSet = c.recheckSet := rfl
@[simp] theorem send_recheckChunk (c : Chip) (o : Out) : (c.send o).recheckChunk = c.recheckChunk := rfl
@[simp] theorem send_recheckPoison (c : Chip) (o : Out) : (c.send o).recheckPoison = c.recheckPoison := rfl
@[simp] theorem send_damagedCnt (c : Chip) (o : Out) : (c.send o).damagedCnt = c.damagedCnt := rfl
@[simp] theorem send_strs (c : Chip) (o : Out) : (c.send o).strs = c.strs := rfl
@[simp] theorem send_ring (c : Chip) (o : Out) : (c.send o).ring = c.ring := rfl
@[simp] theorem send_ctxs (c : Chip) (o : Out) : (c.send o).ctxs = c.ctxs := rfl
@[simp] theorem send_keeper (c : Chip) (o : Out) : (c.send o).keeper = c.keeper := rfl
@[simp] theorem send_tray (c : Chip) (o : Out) : (c.send o).tray = c.tray := rfl
@[simp] theorem send_slack (c : Chip) (o : Out) : (c.send o).slack = c.slack := rfl
@[simp] theorem send_recov (c : Chip) (o : Out) : (c.send o).recov = c.recov := rfl
@[simp] theorem send_pan (c : Chip) (o : Out) : (c.send o).pan = c.pan := rfl
@[simp] theorem send_watches (c : Chip) (o : Out) : (c.send o).watches = c.watches := rfl
@[simp] theorem send_harvests (c : Chip) (o : Out) : (c.send o).harvests = c.harvests := rfl
@[simp] theorem send_harvQ (c : Chip) (o : Out) : (c.send o).harvQ = c.harvQ := rfl
@[simp] theorem send_boot (c : Chip) (o : Out) : (c.send o).boot = c.boot := rfl
@[simp] theorem send_pwr (c : Chip) (o : Out) : (c.send o).pwr = c.pwr := rfl
@[simp] theorem send_nor (c : Chip) (o : Out) : (c.send o).nor = c.nor := rfl
@[simp] theorem send_fresh (c : Chip) (o : Out) : (c.send o).fresh = c.fresh := rfl

/-! ### Chip.hostWrite -/

@[simp] theorem hostWrite_tide (c : Chip) (a : Nat) (bs : List Byte) : (c.hostWrite a bs).tide = c.tide := rfl
@[simp] theorem hostWrite_runs (c : Chip) (a : Nat) (bs : List Byte) : (c.hostWrite a bs).runs = c.runs := rfl
@[simp] theorem hostWrite_launching (c : Chip) (a : Nat) (bs : List Byte) : (c.hostWrite a bs).launching = c.launching := rfl
@[simp] theorem hostWrite_wsets (c : Chip) (a : Nat) (bs : List Byte) : (c.hostWrite a bs).wsets = c.wsets := rfl
@[simp] theorem hostWrite_regions (c : Chip) (a : Nat) (bs : List Byte) : (c.hostWrite a bs).regions = c.regions := rfl
@[simp] theorem hostWrite_tiles (c : Chip) (a : Nat) (bs : List Byte) : (c.hostWrite a bs).tiles = c.tiles := rfl
@[simp] theorem hostWrite_spdMem (c : Chip) (a : Nat) (bs : List Byte) : (c.hostWrite a bs).spdMem = c.spdMem := rfl
@[simp] theorem hostWrite_spdPoison (c : Chip) (a : Nat) (bs : List Byte) : (c.hostWrite a bs).spdPoison = c.spdPoison := rfl
@[simp] theorem hostWrite_spdErr (c : Chip) (a : Nat) (bs : List Byte) : (c.hostWrite a bs).spdErr = c.spdErr := rfl
@[simp] theorem hostWrite_lpMem (c : Chip) (a : Nat) (bs : List Byte) : (c.hostWrite a bs).lpMem = c.lpMem := rfl
@[simp] theorem hostWrite_lpPoison (c : Chip) (a : Nat) (bs : List Byte) : (c.hostWrite a bs).lpPoison = c.lpPoison := rfl
@[simp] theorem hostWrite_lpErr (c : Chip) (a : Nat) (bs : List Byte) : (c.hostWrite a bs).lpErr = c.lpErr := rfl
@[simp] theorem hostWrite_macBad (c : Chip) (a : Nat) (bs : List Byte) : (c.hostWrite a bs).macBad = c.macBad := rfl
@[simp] theorem hostWrite_undef (c : Chip) (a : Nat) (bs : List Byte) : (c.hostWrite a bs).undef = c.undef := rfl
@[simp] theorem hostWrite_defined (c : Chip) (a : Nat) (bs : List Byte) : (c.hostWrite a bs).defined = c.defined := rfl
@[simp] theorem hostWrite_chans (c : Chip) (a : Nat) (bs : List Byte) : (c.hostWrite a bs).chans = c.chans := rfl
@[simp] theorem hostWrite_engines (c : Chip) (a : Nat) (bs : List Byte) : (c.hostWrite a bs).engines = c.engines := rfl
@[simp] theorem hostWrite_disp (c : Chip) (a : Nat) (bs : List Byte) : (c.hostWrite a bs).disp = c.disp := rfl
@[simp] theorem hostWrite_attWin (c : Chip) (a : Nat) (bs : List Byte) : (c.hostWrite a bs).attWin = c.attWin := rfl
@[simp] theorem hostWrite_attPoison (c : Chip) (a : Nat) (bs : List Byte) : (c.hostWrite a bs).attPoison = c.attPoison := rfl
@[simp] theorem hostWrite_cdcs (c : Chip) (a : Nat) (bs : List Byte) : (c.hostWrite a bs).cdcs = c.cdcs := rfl
@[simp] theorem hostWrite_cslots (c : Chip) (a : Nat) (bs : List Byte) : (c.hostWrite a bs).cslots = c.cslots := rfl
@[simp] theorem hostWrite_pushes (c : Chip) (a : Nat) (bs : List Byte) : (c.hostWrite a bs).pushes = c.pushes := rfl
@[simp] theorem hostWrite_acks (c : Chip) (a : Nat) (bs : List Byte) : (c.hostWrite a bs).acks = c.acks := rfl
@[simp] theorem hostWrite_nextPush (c : Chip) (a : Nat) (bs : List Byte) : (c.hostWrite a bs).nextPush = c.nextPush := rfl
@[simp] theorem hostWrite_recheckSet (c : Chip) (a : Nat) (bs : List Byte) : (c.hostWrite a bs).recheckSet = c.recheckSet := rfl
@[simp] theorem hostWrite_recheckChunk (c : Chip) (a : Nat) (bs : List Byte) : (c.hostWrite a bs).recheckChunk = c.recheckChunk := rfl
@[simp] theorem hostWrite_recheckPoison (c : Chip) (a : Nat) (bs : List Byte) : (c.hostWrite a bs).recheckPoison = c.recheckPoison := rfl
@[simp] theorem hostWrite_damagedCnt (c : Chip) (a : Nat) (bs : List Byte) : (c.hostWrite a bs).damagedCnt = c.damagedCnt := rfl
@[simp] theorem hostWrite_strs (c : Chip) (a : Nat) (bs : List Byte) : (c.hostWrite a bs).strs = c.strs := rfl
@[simp] theorem hostWrite_ring (c : Chip) (a : Nat) (bs : List Byte) : (c.hostWrite a bs).ring = c.ring := rfl
@[simp] theorem hostWrite_ctxs (c : Chip) (a : Nat) (bs : List Byte) : (c.hostWrite a bs).ctxs = c.ctxs := rfl
@[simp] theorem hostWrite_keeper (c : Chip) (a : Nat) (bs : List Byte) : (c.hostWrite a bs).keeper = c.keeper := rfl
@[simp] theorem hostWrite_tray (c : Chip) (a : Nat) (bs : List Byte) : (c.hostWrite a bs).tray = c.tray := rfl
@[simp] theorem hostWrite_slack (c : Chip) (a : Nat) (bs : List Byte) : (c.hostWrite a bs).slack = c.slack := rfl
@[simp] theorem hostWrite_recov (c : Chip) (a : Nat) (bs : List Byte) : (c.hostWrite a bs).recov = c.recov := rfl
@[simp] theorem hostWrite_pan (c : Chip) (a : Nat) (bs : List Byte) : (c.hostWrite a bs).pan = c.pan := rfl
@[simp] theorem hostWrite_watches (c : Chip) (a : Nat) (bs : List Byte) : (c.hostWrite a bs).watches = c.watches := rfl
@[simp] theorem hostWrite_harvests (c : Chip) (a : Nat) (bs : List Byte) : (c.hostWrite a bs).harvests = c.harvests := rfl
@[simp] theorem hostWrite_harvQ (c : Chip) (a : Nat) (bs : List Byte) : (c.hostWrite a bs).harvQ = c.harvQ := rfl
@[simp] theorem hostWrite_boot (c : Chip) (a : Nat) (bs : List Byte) : (c.hostWrite a bs).boot = c.boot := rfl
@[simp] theorem hostWrite_pwr (c : Chip) (a : Nat) (bs : List Byte) : (c.hostWrite a bs).pwr = c.pwr := rfl
@[simp] theorem hostWrite_nor (c : Chip) (a : Nat) (bs : List Byte) : (c.hostWrite a bs).nor = c.nor := rfl
@[simp] theorem hostWrite_fresh (c : Chip) (a : Nat) (bs : List Byte) : (c.hostWrite a bs).fresh = c.fresh := rfl

/-! ### Chip.norProg -/

@[simp] theorem norProg_tide (c : Chip) (a : Nat) (bs : List Byte) : (c.norProg a bs).tide = c.tide := rfl
@[simp] theorem norProg_runs (c : Chip) (a : Nat) (bs : List Byte) : (c.norProg a bs).runs = c.runs := rfl
@[simp] theorem norProg_launching (c : Chip) (a : Nat) (bs : List Byte) : (c.norProg a bs).launching = c.launching := rfl
@[simp] theorem norProg_wsets (c : Chip) (a : Nat) (bs : List Byte) : (c.norProg a bs).wsets = c.wsets := rfl
@[simp] theorem norProg_regions (c : Chip) (a : Nat) (bs : List Byte) : (c.norProg a bs).regions = c.regions := rfl
@[simp] theorem norProg_tiles (c : Chip) (a : Nat) (bs : List Byte) : (c.norProg a bs).tiles = c.tiles := rfl
@[simp] theorem norProg_spdMem (c : Chip) (a : Nat) (bs : List Byte) : (c.norProg a bs).spdMem = c.spdMem := rfl
@[simp] theorem norProg_spdPoison (c : Chip) (a : Nat) (bs : List Byte) : (c.norProg a bs).spdPoison = c.spdPoison := rfl
@[simp] theorem norProg_spdErr (c : Chip) (a : Nat) (bs : List Byte) : (c.norProg a bs).spdErr = c.spdErr := rfl
@[simp] theorem norProg_lpMem (c : Chip) (a : Nat) (bs : List Byte) : (c.norProg a bs).lpMem = c.lpMem := rfl
@[simp] theorem norProg_lpPoison (c : Chip) (a : Nat) (bs : List Byte) : (c.norProg a bs).lpPoison = c.lpPoison := rfl
@[simp] theorem norProg_lpErr (c : Chip) (a : Nat) (bs : List Byte) : (c.norProg a bs).lpErr = c.lpErr := rfl
@[simp] theorem norProg_macBad (c : Chip) (a : Nat) (bs : List Byte) : (c.norProg a bs).macBad = c.macBad := rfl
@[simp] theorem norProg_undef (c : Chip) (a : Nat) (bs : List Byte) : (c.norProg a bs).undef = c.undef := rfl
@[simp] theorem norProg_defined (c : Chip) (a : Nat) (bs : List Byte) : (c.norProg a bs).defined = c.defined := rfl
@[simp] theorem norProg_chans (c : Chip) (a : Nat) (bs : List Byte) : (c.norProg a bs).chans = c.chans := rfl
@[simp] theorem norProg_engines (c : Chip) (a : Nat) (bs : List Byte) : (c.norProg a bs).engines = c.engines := rfl
@[simp] theorem norProg_disp (c : Chip) (a : Nat) (bs : List Byte) : (c.norProg a bs).disp = c.disp := rfl
@[simp] theorem norProg_attWin (c : Chip) (a : Nat) (bs : List Byte) : (c.norProg a bs).attWin = c.attWin := rfl
@[simp] theorem norProg_attPoison (c : Chip) (a : Nat) (bs : List Byte) : (c.norProg a bs).attPoison = c.attPoison := rfl
@[simp] theorem norProg_cdcs (c : Chip) (a : Nat) (bs : List Byte) : (c.norProg a bs).cdcs = c.cdcs := rfl
@[simp] theorem norProg_cslots (c : Chip) (a : Nat) (bs : List Byte) : (c.norProg a bs).cslots = c.cslots := rfl
@[simp] theorem norProg_pushes (c : Chip) (a : Nat) (bs : List Byte) : (c.norProg a bs).pushes = c.pushes := rfl
@[simp] theorem norProg_acks (c : Chip) (a : Nat) (bs : List Byte) : (c.norProg a bs).acks = c.acks := rfl
@[simp] theorem norProg_nextPush (c : Chip) (a : Nat) (bs : List Byte) : (c.norProg a bs).nextPush = c.nextPush := rfl
@[simp] theorem norProg_recheckSet (c : Chip) (a : Nat) (bs : List Byte) : (c.norProg a bs).recheckSet = c.recheckSet := rfl
@[simp] theorem norProg_recheckChunk (c : Chip) (a : Nat) (bs : List Byte) : (c.norProg a bs).recheckChunk = c.recheckChunk := rfl
@[simp] theorem norProg_recheckPoison (c : Chip) (a : Nat) (bs : List Byte) : (c.norProg a bs).recheckPoison = c.recheckPoison := rfl
@[simp] theorem norProg_damagedCnt (c : Chip) (a : Nat) (bs : List Byte) : (c.norProg a bs).damagedCnt = c.damagedCnt := rfl
@[simp] theorem norProg_strs (c : Chip) (a : Nat) (bs : List Byte) : (c.norProg a bs).strs = c.strs := rfl
@[simp] theorem norProg_ring (c : Chip) (a : Nat) (bs : List Byte) : (c.norProg a bs).ring = c.ring := rfl
@[simp] theorem norProg_ctxs (c : Chip) (a : Nat) (bs : List Byte) : (c.norProg a bs).ctxs = c.ctxs := rfl
@[simp] theorem norProg_keeper (c : Chip) (a : Nat) (bs : List Byte) : (c.norProg a bs).keeper = c.keeper := rfl
@[simp] theorem norProg_tray (c : Chip) (a : Nat) (bs : List Byte) : (c.norProg a bs).tray = c.tray := rfl
@[simp] theorem norProg_slack (c : Chip) (a : Nat) (bs : List Byte) : (c.norProg a bs).slack = c.slack := rfl
@[simp] theorem norProg_recov (c : Chip) (a : Nat) (bs : List Byte) : (c.norProg a bs).recov = c.recov := rfl
@[simp] theorem norProg_pan (c : Chip) (a : Nat) (bs : List Byte) : (c.norProg a bs).pan = c.pan := rfl
@[simp] theorem norProg_watches (c : Chip) (a : Nat) (bs : List Byte) : (c.norProg a bs).watches = c.watches := rfl
@[simp] theorem norProg_harvests (c : Chip) (a : Nat) (bs : List Byte) : (c.norProg a bs).harvests = c.harvests := rfl
@[simp] theorem norProg_harvQ (c : Chip) (a : Nat) (bs : List Byte) : (c.norProg a bs).harvQ = c.harvQ := rfl
@[simp] theorem norProg_boot (c : Chip) (a : Nat) (bs : List Byte) : (c.norProg a bs).boot = c.boot := rfl
@[simp] theorem norProg_pwr (c : Chip) (a : Nat) (bs : List Byte) : (c.norProg a bs).pwr = c.pwr := rfl
@[simp] theorem norProg_fresh (c : Chip) (a : Nat) (bs : List Byte) : (c.norProg a bs).fresh = c.fresh := rfl
@[simp] theorem norProg_ext (c : Chip) (a : Nat) (bs : List Byte) : (c.norProg a bs).ext = c.ext := rfl

/-! ### Chip.norErase -/

@[simp] theorem norErase_tide (c : Chip) (a n : Nat) : (c.norErase a n).tide = c.tide := rfl
@[simp] theorem norErase_runs (c : Chip) (a n : Nat) : (c.norErase a n).runs = c.runs := rfl
@[simp] theorem norErase_launching (c : Chip) (a n : Nat) : (c.norErase a n).launching = c.launching := rfl
@[simp] theorem norErase_wsets (c : Chip) (a n : Nat) : (c.norErase a n).wsets = c.wsets := rfl
@[simp] theorem norErase_regions (c : Chip) (a n : Nat) : (c.norErase a n).regions = c.regions := rfl
@[simp] theorem norErase_tiles (c : Chip) (a n : Nat) : (c.norErase a n).tiles = c.tiles := rfl
@[simp] theorem norErase_spdMem (c : Chip) (a n : Nat) : (c.norErase a n).spdMem = c.spdMem := rfl
@[simp] theorem norErase_spdPoison (c : Chip) (a n : Nat) : (c.norErase a n).spdPoison = c.spdPoison := rfl
@[simp] theorem norErase_spdErr (c : Chip) (a n : Nat) : (c.norErase a n).spdErr = c.spdErr := rfl
@[simp] theorem norErase_lpMem (c : Chip) (a n : Nat) : (c.norErase a n).lpMem = c.lpMem := rfl
@[simp] theorem norErase_lpPoison (c : Chip) (a n : Nat) : (c.norErase a n).lpPoison = c.lpPoison := rfl
@[simp] theorem norErase_lpErr (c : Chip) (a n : Nat) : (c.norErase a n).lpErr = c.lpErr := rfl
@[simp] theorem norErase_macBad (c : Chip) (a n : Nat) : (c.norErase a n).macBad = c.macBad := rfl
@[simp] theorem norErase_undef (c : Chip) (a n : Nat) : (c.norErase a n).undef = c.undef := rfl
@[simp] theorem norErase_defined (c : Chip) (a n : Nat) : (c.norErase a n).defined = c.defined := rfl
@[simp] theorem norErase_chans (c : Chip) (a n : Nat) : (c.norErase a n).chans = c.chans := rfl
@[simp] theorem norErase_engines (c : Chip) (a n : Nat) : (c.norErase a n).engines = c.engines := rfl
@[simp] theorem norErase_disp (c : Chip) (a n : Nat) : (c.norErase a n).disp = c.disp := rfl
@[simp] theorem norErase_attWin (c : Chip) (a n : Nat) : (c.norErase a n).attWin = c.attWin := rfl
@[simp] theorem norErase_attPoison (c : Chip) (a n : Nat) : (c.norErase a n).attPoison = c.attPoison := rfl
@[simp] theorem norErase_cdcs (c : Chip) (a n : Nat) : (c.norErase a n).cdcs = c.cdcs := rfl
@[simp] theorem norErase_cslots (c : Chip) (a n : Nat) : (c.norErase a n).cslots = c.cslots := rfl
@[simp] theorem norErase_pushes (c : Chip) (a n : Nat) : (c.norErase a n).pushes = c.pushes := rfl
@[simp] theorem norErase_acks (c : Chip) (a n : Nat) : (c.norErase a n).acks = c.acks := rfl
@[simp] theorem norErase_nextPush (c : Chip) (a n : Nat) : (c.norErase a n).nextPush = c.nextPush := rfl
@[simp] theorem norErase_recheckSet (c : Chip) (a n : Nat) : (c.norErase a n).recheckSet = c.recheckSet := rfl
@[simp] theorem norErase_recheckChunk (c : Chip) (a n : Nat) : (c.norErase a n).recheckChunk = c.recheckChunk := rfl
@[simp] theorem norErase_recheckPoison (c : Chip) (a n : Nat) : (c.norErase a n).recheckPoison = c.recheckPoison := rfl
@[simp] theorem norErase_damagedCnt (c : Chip) (a n : Nat) : (c.norErase a n).damagedCnt = c.damagedCnt := rfl
@[simp] theorem norErase_strs (c : Chip) (a n : Nat) : (c.norErase a n).strs = c.strs := rfl
@[simp] theorem norErase_ring (c : Chip) (a n : Nat) : (c.norErase a n).ring = c.ring := rfl
@[simp] theorem norErase_ctxs (c : Chip) (a n : Nat) : (c.norErase a n).ctxs = c.ctxs := rfl
@[simp] theorem norErase_keeper (c : Chip) (a n : Nat) : (c.norErase a n).keeper = c.keeper := rfl
@[simp] theorem norErase_tray (c : Chip) (a n : Nat) : (c.norErase a n).tray = c.tray := rfl
@[simp] theorem norErase_slack (c : Chip) (a n : Nat) : (c.norErase a n).slack = c.slack := rfl
@[simp] theorem norErase_recov (c : Chip) (a n : Nat) : (c.norErase a n).recov = c.recov := rfl
@[simp] theorem norErase_pan (c : Chip) (a n : Nat) : (c.norErase a n).pan = c.pan := rfl
@[simp] theorem norErase_watches (c : Chip) (a n : Nat) : (c.norErase a n).watches = c.watches := rfl
@[simp] theorem norErase_harvests (c : Chip) (a n : Nat) : (c.norErase a n).harvests = c.harvests := rfl
@[simp] theorem norErase_harvQ (c : Chip) (a n : Nat) : (c.norErase a n).harvQ = c.harvQ := rfl
@[simp] theorem norErase_boot (c : Chip) (a n : Nat) : (c.norErase a n).boot = c.boot := rfl
@[simp] theorem norErase_pwr (c : Chip) (a n : Nat) : (c.norErase a n).pwr = c.pwr := rfl
@[simp] theorem norErase_fresh (c : Chip) (a n : Nat) : (c.norErase a n).fresh = c.fresh := rfl
@[simp] theorem norErase_ext (c : Chip) (a n : Nat) : (c.norErase a n).ext = c.ext := rfl

/-! ### Tile.setArr -/

@[simp] theorem tile_setArr_st (t : Tile) (a : Nat) (x : Arr) : (t.setArr a x).st = t.st := by
  unfold Tile.setArr; split <;> (try split) <;> (try split) <;> rfl
@[simp] theorem tile_setArr_suspect (t : Tile) (a : Nat) (x : Arr) : (t.setArr a x).suspect = t.suspect := by
  unfold Tile.setArr; split <;> (try split) <;> (try split) <;> rfl
@[simp] theorem tile_setArr_descErr (t : Tile) (a : Nat) (x : Arr) : (t.setArr a x).descErr = t.descErr := by
  unfold Tile.setArr; split <;> (try split) <;> (try split) <;> rfl
@[simp] theorem tile_setArr_arrayCheck (t : Tile) (a : Nat) (x : Arr) : (t.setArr a x).arrayCheck = t.arrayCheck := by
  unfold Tile.setArr; split <;> (try split) <;> (try split) <;> rfl
@[simp] theorem tile_setArr_lateBit (t : Tile) (a : Nat) (x : Arr) : (t.setArr a x).lateBit = t.lateBit := by
  unfold Tile.setArr; split <;> (try split) <;> (try split) <;> rfl
@[simp] theorem tile_setArr_gen (t : Tile) (a : Nat) (x : Arr) : (t.setArr a x).gen = t.gen := by
  unfold Tile.setArr; split <;> (try split) <;> (try split) <;> rfl
@[simp] theorem tile_setArr_nextSeq (t : Tile) (a : Nat) (x : Arr) : (t.setArr a x).nextSeq = t.nextSeq := by
  unfold Tile.setArr; split <;> (try split) <;> (try split) <;> rfl
@[simp] theorem tile_setArr_faultId (t : Tile) (a : Nat) (x : Arr) : (t.setArr a x).faultId = t.faultId := by
  unfold Tile.setArr; split <;> (try split) <;> (try split) <;> rfl
@[simp] theorem tile_setArr_faultOp (t : Tile) (a : Nat) (x : Arr) : (t.setArr a x).faultOp = t.faultOp := by
  unfold Tile.setArr; split <;> (try split) <;> (try split) <;> rfl
@[simp] theorem tile_setArr_faultCause (t : Tile) (a : Nat) (x : Arr) : (t.setArr a x).faultCause = t.faultCause := by
  unfold Tile.setArr; split <;> (try split) <;> (try split) <;> rfl
@[simp] theorem tile_setArr_streamAt (t : Tile) (a : Nat) (x : Arr) : (t.setArr a x).streamAt = t.streamAt := by
  unfold Tile.setArr; split <;> (try split) <;> (try split) <;> rfl
@[simp] theorem tile_setArr_streamLen (t : Tile) (a : Nat) (x : Arr) : (t.setArr a x).streamLen = t.streamLen := by
  unfold Tile.setArr; split <;> (try split) <;> (try split) <;> rfl
@[simp] theorem tile_setArr_fetched (t : Tile) (a : Nat) (x : Arr) : (t.setArr a x).fetched = t.fetched := by
  unfold Tile.setArr; split <;> (try split) <;> (try split) <;> rfl
@[simp] theorem tile_setArr_queue (t : Tile) (a : Nat) (x : Arr) : (t.setArr a x).queue = t.queue := by
  unfold Tile.setArr; split <;> (try split) <;> (try split) <;> rfl
@[simp] theorem tile_setArr_idx (t : Tile) (a : Nat) (x : Arr) : (t.setArr a x).idx = t.idx := by
  unfold Tile.setArr; split <;> (try split) <;> (try split) <;> rfl
@[simp] theorem tile_setArr_gang (t : Tile) (a : Nat) (x : Arr) : (t.setArr a x).gang = t.gang := by
  unfold Tile.setArr; split <;> (try split) <;> (try split) <;> rfl
@[simp] theorem tile_setArr_warm (t : Tile) (a : Nat) (x : Arr) : (t.setArr a x).warm = t.warm := by
  unfold Tile.setArr; split <;> (try split) <;> (try split) <;> rfl
@[simp] theorem tile_setArr_level (t : Tile) (a : Nat) (x : Arr) : (t.setArr a x).level = t.level := by
  unfold Tile.setArr; split <;> (try split) <;> (try split) <;> rfl
@[simp] theorem tile_setArr_warmAc (t : Tile) (a : Nat) (x : Arr) : (t.setArr a x).warmAc = t.warmAc := by
  unfold Tile.setArr; split <;> (try split) <;> (try split) <;> rfl
@[simp] theorem tile_setArr_lastUse (t : Tile) (a : Nat) (x : Arr) : (t.setArr a x).lastUse = t.lastUse := by
  unfold Tile.setArr; split <;> (try split) <;> (try split) <;> rfl
@[simp] theorem tile_setArr_vec (t : Tile) (a : Nat) (x : Arr) : (t.setArr a x).vec = t.vec := by
  unfold Tile.setArr; split <;> (try split) <;> (try split) <;> rfl
@[simp] theorem tile_setArr_handles (t : Tile) (a : Nat) (x : Arr) : (t.setArr a x).handles = t.handles := by
  unfold Tile.setArr; split <;> (try split) <;> (try split) <;> rfl
@[simp] theorem tile_setArr_sb (t : Tile) (a : Nat) (x : Arr) : (t.setArr a x).sb = t.sb := by
  unfold Tile.setArr; split <;> (try split) <;> (try split) <;> rfl
@[simp] theorem tile_setArr_fetchGot (t : Tile) (a : Nat) (x : Arr) : (t.setArr a x).fetchGot = t.fetchGot := by
  unfold Tile.setArr; split <;> (try split) <;> (try split) <;> rfl
@[simp] theorem tile_setArr_port (t : Tile) (a : Nat) (x : Arr) : (t.setArr a x).port = t.port := by
  unfold Tile.setArr; split <;> (try split) <;> (try split) <;> rfl
@[simp] theorem tile_setArr_aows (t : Tile) (a : Nat) (x : Arr) : (t.setArr a x).aows = t.aows := by
  unfold Tile.setArr; split <;> (try split) <;> (try split) <;> rfl
@[simp] theorem tile_setArr_syncs (t : Tile) (a : Nat) (x : Arr) : (t.setArr a x).syncs = t.syncs := by
  unfold Tile.setArr; split <;> (try split) <;> (try split) <;> rfl
@[simp] theorem tile_setArr_streams (t : Tile) (a : Nat) (x : Arr) : (t.setArr a x).streams = t.streams := by
  unfold Tile.setArr; split <;> (try split) <;> (try split) <;> rfl
@[simp] theorem tile_setArr_attns (t : Tile) (a : Nat) (x : Arr) : (t.setArr a x).attns = t.attns := by
  unfold Tile.setArr; split <;> (try split) <;> (try split) <;> rfl
@[simp] theorem tile_setArr_dumps (t : Tile) (a : Nat) (x : Arr) : (t.setArr a x).dumps = t.dumps := by
  unfold Tile.setArr; split <;> (try split) <;> (try split) <;> rfl
@[simp] theorem tile_setArr_seals (t : Tile) (a : Nat) (x : Arr) : (t.setArr a x).seals = t.seals := by
  unfold Tile.setArr; split <;> (try split) <;> (try split) <;> rfl
@[simp] theorem tile_setArr_pendShadow (t : Tile) (a : Nat) (x : Arr) : (t.setArr a x).pendShadow = t.pendShadow := by
  unfold Tile.setArr; split <;> (try split) <;> (try split) <;> rfl
@[simp] theorem tile_setArr_commShadow (t : Tile) (a : Nat) (x : Arr) : (t.setArr a x).commShadow = t.commShadow := by
  unfold Tile.setArr; split <;> (try split) <;> (try split) <;> rfl
@[simp] theorem tile_setArr_cnt (t : Tile) (a : Nat) (x : Arr) : (t.setArr a x).cnt = t.cnt := by
  unfold Tile.setArr; split <;> (try split) <;> (try split) <;> rfl
@[simp] theorem tile_setArr_spd (t : Tile) (a : Nat) (x : Arr) : (t.setArr a x).spd = t.spd := by
  unfold Tile.setArr; split <;> (try split) <;> (try split) <;> rfl
@[simp] theorem tile_setArr_cohort (t : Tile) (a : Nat) (x : Arr) : (t.setArr a x).cohort = t.cohort := by
  unfold Tile.setArr; split <;> (try split) <;> (try split) <;> rfl
@[simp] theorem tile_setArr_dlmiss (t : Tile) (a : Nat) (x : Arr) : (t.setArr a x).dlmiss = t.dlmiss := by
  unfold Tile.setArr; split <;> (try split) <;> (try split) <;> rfl
@[simp] theorem tile_setArr_stall (t : Tile) (a : Nat) (x : Arr) : (t.setArr a x).stall = t.stall := by
  unfold Tile.setArr; split <;> (try split) <;> (try split) <;> rfl
@[simp] theorem tile_setArr_lateRaised (t : Tile) (a : Nat) (x : Arr) : (t.setArr a x).lateRaised = t.lateRaised := by
  unfold Tile.setArr; split <;> (try split) <;> (try split) <;> rfl
@[simp] theorem tile_setArr_conflictRaised (t : Tile) (a : Nat) (x : Arr) : (t.setArr a x).conflictRaised = t.conflictRaised := by
  unfold Tile.setArr; split <;> (try split) <;> (try split) <;> rfl
@[simp] theorem tile_setArr_scopeRaised (t : Tile) (a : Nat) (x : Arr) : (t.setArr a x).scopeRaised = t.scopeRaised := by
  unfold Tile.setArr; split <;> (try split) <;> (try split) <;> rfl
@[simp] theorem tile_setArr_pushMissAt (t : Tile) (a : Nat) (x : Arr) : (t.setArr a x).pushMissAt = t.pushMissAt := by
  unfold Tile.setArr; split <;> (try split) <;> (try split) <;> rfl
@[simp] theorem tile_setArr_attnMissAt (t : Tile) (a : Nat) (x : Arr) : (t.setArr a x).attnMissAt = t.attnMissAt := by
  unfold Tile.setArr; split <;> (try split) <;> (try split) <;> rfl
@[simp] theorem tile_setArr_keep (t : Tile) (a : Nat) (x : Arr) : (t.setArr a x).keep = t.keep := by
  unfold Tile.setArr; split <;> (try split) <;> (try split) <;> rfl
@[simp] theorem tile_setArr_retain (t : Tile) (a : Nat) (x : Arr) : (t.setArr a x).retain = t.retain := by
  unfold Tile.setArr; split <;> (try split) <;> (try split) <;> rfl
@[simp] theorem tile_setArr_lastCtx (t : Tile) (a : Nat) (x : Arr) : (t.setArr a x).lastCtx = t.lastCtx := by
  unfold Tile.setArr; split <;> (try split) <;> (try split) <;> rfl
@[simp] theorem tile_setArr_watchHold (t : Tile) (a : Nat) (x : Arr) : (t.setArr a x).watchHold = t.watchHold := by
  unfold Tile.setArr; split <;> (try split) <;> (try split) <;> rfl
@[simp] theorem tile_setArr_stop (t : Tile) (a : Nat) (x : Arr) : (t.setArr a x).stop = t.stop := by
  unfold Tile.setArr; split <;> (try split) <;> (try split) <;> rfl
@[simp] theorem tile_setArr_checkInBatch (t : Tile) (a : Nat) (x : Arr) : (t.setArr a x).checkInBatch = t.checkInBatch := by
  unfold Tile.setArr; split <;> (try split) <;> (try split) <;> rfl
@[simp] theorem tile_setArr_checkSeen (t : Tile) (a : Nat) (x : Arr) : (t.setArr a x).checkSeen = t.checkSeen := by
  unfold Tile.setArr; split <;> (try split) <;> (try split) <;> rfl
@[simp] theorem tile_setArr_lastIssueAc (t : Tile) (a : Nat) (x : Arr) : (t.setArr a x).lastIssueAc = t.lastIssueAc := by
  unfold Tile.setArr; split <;> (try split) <;> (try split) <;> rfl

/-! ### Tile.setStream -/

@[simp] theorem tile_setStream_st (t : Tile) (k : Nat) (x : Stream) : (t.setStream k x).st = t.st := rfl
@[simp] theorem tile_setStream_suspect (t : Tile) (k : Nat) (x : Stream) : (t.setStream k x).suspect = t.suspect := rfl
@[simp] theorem tile_setStream_descErr (t : Tile) (k : Nat) (x : Stream) : (t.setStream k x).descErr = t.descErr := rfl
@[simp] theorem tile_setStream_arrayCheck (t : Tile) (k : Nat) (x : Stream) : (t.setStream k x).arrayCheck = t.arrayCheck := rfl
@[simp] theorem tile_setStream_lateBit (t : Tile) (k : Nat) (x : Stream) : (t.setStream k x).lateBit = t.lateBit := rfl
@[simp] theorem tile_setStream_gen (t : Tile) (k : Nat) (x : Stream) : (t.setStream k x).gen = t.gen := rfl
@[simp] theorem tile_setStream_nextSeq (t : Tile) (k : Nat) (x : Stream) : (t.setStream k x).nextSeq = t.nextSeq := rfl
@[simp] theorem tile_setStream_faultId (t : Tile) (k : Nat) (x : Stream) : (t.setStream k x).faultId = t.faultId := rfl
@[simp] theorem tile_setStream_faultOp (t : Tile) (k : Nat) (x : Stream) : (t.setStream k x).faultOp = t.faultOp := rfl
@[simp] theorem tile_setStream_faultCause (t : Tile) (k : Nat) (x : Stream) : (t.setStream k x).faultCause = t.faultCause := rfl
@[simp] theorem tile_setStream_streamAt (t : Tile) (k : Nat) (x : Stream) : (t.setStream k x).streamAt = t.streamAt := rfl
@[simp] theorem tile_setStream_streamLen (t : Tile) (k : Nat) (x : Stream) : (t.setStream k x).streamLen = t.streamLen := rfl
@[simp] theorem tile_setStream_fetched (t : Tile) (k : Nat) (x : Stream) : (t.setStream k x).fetched = t.fetched := rfl
@[simp] theorem tile_setStream_queue (t : Tile) (k : Nat) (x : Stream) : (t.setStream k x).queue = t.queue := rfl
@[simp] theorem tile_setStream_idx (t : Tile) (k : Nat) (x : Stream) : (t.setStream k x).idx = t.idx := rfl
@[simp] theorem tile_setStream_gang (t : Tile) (k : Nat) (x : Stream) : (t.setStream k x).gang = t.gang := rfl
@[simp] theorem tile_setStream_warm (t : Tile) (k : Nat) (x : Stream) : (t.setStream k x).warm = t.warm := rfl
@[simp] theorem tile_setStream_level (t : Tile) (k : Nat) (x : Stream) : (t.setStream k x).level = t.level := rfl
@[simp] theorem tile_setStream_warmAc (t : Tile) (k : Nat) (x : Stream) : (t.setStream k x).warmAc = t.warmAc := rfl
@[simp] theorem tile_setStream_lastUse (t : Tile) (k : Nat) (x : Stream) : (t.setStream k x).lastUse = t.lastUse := rfl
@[simp] theorem tile_setStream_a0 (t : Tile) (k : Nat) (x : Stream) : (t.setStream k x).a0 = t.a0 := rfl
@[simp] theorem tile_setStream_a1 (t : Tile) (k : Nat) (x : Stream) : (t.setStream k x).a1 = t.a1 := rfl
@[simp] theorem tile_setStream_a2 (t : Tile) (k : Nat) (x : Stream) : (t.setStream k x).a2 = t.a2 := rfl
@[simp] theorem tile_setStream_a3 (t : Tile) (k : Nat) (x : Stream) : (t.setStream k x).a3 = t.a3 := rfl
@[simp] theorem tile_setStream_vec (t : Tile) (k : Nat) (x : Stream) : (t.setStream k x).vec = t.vec := rfl
@[simp] theorem tile_setStream_handles (t : Tile) (k : Nat) (x : Stream) : (t.setStream k x).handles = t.handles := rfl
@[simp] theorem tile_setStream_sb (t : Tile) (k : Nat) (x : Stream) : (t.setStream k x).sb = t.sb := rfl
@[simp] theorem tile_setStream_fetchGot (t : Tile) (k : Nat) (x : Stream) : (t.setStream k x).fetchGot = t.fetchGot := rfl
@[simp] theorem tile_setStream_port (t : Tile) (k : Nat) (x : Stream) : (t.setStream k x).port = t.port := rfl
@[simp] theorem tile_setStream_aows (t : Tile) (k : Nat) (x : Stream) : (t.setStream k x).aows = t.aows := rfl
@[simp] theorem tile_setStream_syncs (t : Tile) (k : Nat) (x : Stream) : (t.setStream k x).syncs = t.syncs := rfl
@[simp] theorem tile_setStream_attns (t : Tile) (k : Nat) (x : Stream) : (t.setStream k x).attns = t.attns := rfl
@[simp] theorem tile_setStream_dumps (t : Tile) (k : Nat) (x : Stream) : (t.setStream k x).dumps = t.dumps := rfl
@[simp] theorem tile_setStream_seals (t : Tile) (k : Nat) (x : Stream) : (t.setStream k x).seals = t.seals := rfl
@[simp] theorem tile_setStream_pendShadow (t : Tile) (k : Nat) (x : Stream) : (t.setStream k x).pendShadow = t.pendShadow := rfl
@[simp] theorem tile_setStream_commShadow (t : Tile) (k : Nat) (x : Stream) : (t.setStream k x).commShadow = t.commShadow := rfl
@[simp] theorem tile_setStream_cnt (t : Tile) (k : Nat) (x : Stream) : (t.setStream k x).cnt = t.cnt := rfl
@[simp] theorem tile_setStream_spd (t : Tile) (k : Nat) (x : Stream) : (t.setStream k x).spd = t.spd := rfl
@[simp] theorem tile_setStream_cohort (t : Tile) (k : Nat) (x : Stream) : (t.setStream k x).cohort = t.cohort := rfl
@[simp] theorem tile_setStream_dlmiss (t : Tile) (k : Nat) (x : Stream) : (t.setStream k x).dlmiss = t.dlmiss := rfl
@[simp] theorem tile_setStream_stall (t : Tile) (k : Nat) (x : Stream) : (t.setStream k x).stall = t.stall := rfl
@[simp] theorem tile_setStream_lateRaised (t : Tile) (k : Nat) (x : Stream) : (t.setStream k x).lateRaised = t.lateRaised := rfl
@[simp] theorem tile_setStream_conflictRaised (t : Tile) (k : Nat) (x : Stream) : (t.setStream k x).conflictRaised = t.conflictRaised := rfl
@[simp] theorem tile_setStream_scopeRaised (t : Tile) (k : Nat) (x : Stream) : (t.setStream k x).scopeRaised = t.scopeRaised := rfl
@[simp] theorem tile_setStream_pushMissAt (t : Tile) (k : Nat) (x : Stream) : (t.setStream k x).pushMissAt = t.pushMissAt := rfl
@[simp] theorem tile_setStream_attnMissAt (t : Tile) (k : Nat) (x : Stream) : (t.setStream k x).attnMissAt = t.attnMissAt := rfl
@[simp] theorem tile_setStream_keep (t : Tile) (k : Nat) (x : Stream) : (t.setStream k x).keep = t.keep := rfl
@[simp] theorem tile_setStream_retain (t : Tile) (k : Nat) (x : Stream) : (t.setStream k x).retain = t.retain := rfl
@[simp] theorem tile_setStream_lastCtx (t : Tile) (k : Nat) (x : Stream) : (t.setStream k x).lastCtx = t.lastCtx := rfl
@[simp] theorem tile_setStream_watchHold (t : Tile) (k : Nat) (x : Stream) : (t.setStream k x).watchHold = t.watchHold := rfl
@[simp] theorem tile_setStream_stop (t : Tile) (k : Nat) (x : Stream) : (t.setStream k x).stop = t.stop := rfl
@[simp] theorem tile_setStream_checkInBatch (t : Tile) (k : Nat) (x : Stream) : (t.setStream k x).checkInBatch = t.checkInBatch := rfl
@[simp] theorem tile_setStream_checkSeen (t : Tile) (k : Nat) (x : Stream) : (t.setStream k x).checkSeen = t.checkSeen := rfl
@[simp] theorem tile_setStream_lastIssueAc (t : Tile) (k : Nat) (x : Stream) : (t.setStream k x).lastIssueAc = t.lastIssueAc := rfl

/-! ### Tile.setSync -/

@[simp] theorem tile_setSync_st (t : Tile) (o : Nat) (x : Sync) : (t.setSync o x).st = t.st := rfl
@[simp] theorem tile_setSync_suspect (t : Tile) (o : Nat) (x : Sync) : (t.setSync o x).suspect = t.suspect := rfl
@[simp] theorem tile_setSync_descErr (t : Tile) (o : Nat) (x : Sync) : (t.setSync o x).descErr = t.descErr := rfl
@[simp] theorem tile_setSync_arrayCheck (t : Tile) (o : Nat) (x : Sync) : (t.setSync o x).arrayCheck = t.arrayCheck := rfl
@[simp] theorem tile_setSync_lateBit (t : Tile) (o : Nat) (x : Sync) : (t.setSync o x).lateBit = t.lateBit := rfl
@[simp] theorem tile_setSync_gen (t : Tile) (o : Nat) (x : Sync) : (t.setSync o x).gen = t.gen := rfl
@[simp] theorem tile_setSync_nextSeq (t : Tile) (o : Nat) (x : Sync) : (t.setSync o x).nextSeq = t.nextSeq := rfl
@[simp] theorem tile_setSync_faultId (t : Tile) (o : Nat) (x : Sync) : (t.setSync o x).faultId = t.faultId := rfl
@[simp] theorem tile_setSync_faultOp (t : Tile) (o : Nat) (x : Sync) : (t.setSync o x).faultOp = t.faultOp := rfl
@[simp] theorem tile_setSync_faultCause (t : Tile) (o : Nat) (x : Sync) : (t.setSync o x).faultCause = t.faultCause := rfl
@[simp] theorem tile_setSync_streamAt (t : Tile) (o : Nat) (x : Sync) : (t.setSync o x).streamAt = t.streamAt := rfl
@[simp] theorem tile_setSync_streamLen (t : Tile) (o : Nat) (x : Sync) : (t.setSync o x).streamLen = t.streamLen := rfl
@[simp] theorem tile_setSync_fetched (t : Tile) (o : Nat) (x : Sync) : (t.setSync o x).fetched = t.fetched := rfl
@[simp] theorem tile_setSync_queue (t : Tile) (o : Nat) (x : Sync) : (t.setSync o x).queue = t.queue := rfl
@[simp] theorem tile_setSync_idx (t : Tile) (o : Nat) (x : Sync) : (t.setSync o x).idx = t.idx := rfl
@[simp] theorem tile_setSync_gang (t : Tile) (o : Nat) (x : Sync) : (t.setSync o x).gang = t.gang := rfl
@[simp] theorem tile_setSync_warm (t : Tile) (o : Nat) (x : Sync) : (t.setSync o x).warm = t.warm := rfl
@[simp] theorem tile_setSync_level (t : Tile) (o : Nat) (x : Sync) : (t.setSync o x).level = t.level := rfl
@[simp] theorem tile_setSync_warmAc (t : Tile) (o : Nat) (x : Sync) : (t.setSync o x).warmAc = t.warmAc := rfl
@[simp] theorem tile_setSync_lastUse (t : Tile) (o : Nat) (x : Sync) : (t.setSync o x).lastUse = t.lastUse := rfl
@[simp] theorem tile_setSync_a0 (t : Tile) (o : Nat) (x : Sync) : (t.setSync o x).a0 = t.a0 := rfl
@[simp] theorem tile_setSync_a1 (t : Tile) (o : Nat) (x : Sync) : (t.setSync o x).a1 = t.a1 := rfl
@[simp] theorem tile_setSync_a2 (t : Tile) (o : Nat) (x : Sync) : (t.setSync o x).a2 = t.a2 := rfl
@[simp] theorem tile_setSync_a3 (t : Tile) (o : Nat) (x : Sync) : (t.setSync o x).a3 = t.a3 := rfl
@[simp] theorem tile_setSync_vec (t : Tile) (o : Nat) (x : Sync) : (t.setSync o x).vec = t.vec := rfl
@[simp] theorem tile_setSync_handles (t : Tile) (o : Nat) (x : Sync) : (t.setSync o x).handles = t.handles := rfl
@[simp] theorem tile_setSync_sb (t : Tile) (o : Nat) (x : Sync) : (t.setSync o x).sb = t.sb := rfl
@[simp] theorem tile_setSync_fetchGot (t : Tile) (o : Nat) (x : Sync) : (t.setSync o x).fetchGot = t.fetchGot := rfl
@[simp] theorem tile_setSync_port (t : Tile) (o : Nat) (x : Sync) : (t.setSync o x).port = t.port := rfl
@[simp] theorem tile_setSync_aows (t : Tile) (o : Nat) (x : Sync) : (t.setSync o x).aows = t.aows := rfl
@[simp] theorem tile_setSync_streams (t : Tile) (o : Nat) (x : Sync) : (t.setSync o x).streams = t.streams := rfl
@[simp] theorem tile_setSync_attns (t : Tile) (o : Nat) (x : Sync) : (t.setSync o x).attns = t.attns := rfl
@[simp] theorem tile_setSync_dumps (t : Tile) (o : Nat) (x : Sync) : (t.setSync o x).dumps = t.dumps := rfl
@[simp] theorem tile_setSync_seals (t : Tile) (o : Nat) (x : Sync) : (t.setSync o x).seals = t.seals := rfl
@[simp] theorem tile_setSync_pendShadow (t : Tile) (o : Nat) (x : Sync) : (t.setSync o x).pendShadow = t.pendShadow := rfl
@[simp] theorem tile_setSync_commShadow (t : Tile) (o : Nat) (x : Sync) : (t.setSync o x).commShadow = t.commShadow := rfl
@[simp] theorem tile_setSync_cnt (t : Tile) (o : Nat) (x : Sync) : (t.setSync o x).cnt = t.cnt := rfl
@[simp] theorem tile_setSync_spd (t : Tile) (o : Nat) (x : Sync) : (t.setSync o x).spd = t.spd := rfl
@[simp] theorem tile_setSync_cohort (t : Tile) (o : Nat) (x : Sync) : (t.setSync o x).cohort = t.cohort := rfl
@[simp] theorem tile_setSync_dlmiss (t : Tile) (o : Nat) (x : Sync) : (t.setSync o x).dlmiss = t.dlmiss := rfl
@[simp] theorem tile_setSync_stall (t : Tile) (o : Nat) (x : Sync) : (t.setSync o x).stall = t.stall := rfl
@[simp] theorem tile_setSync_lateRaised (t : Tile) (o : Nat) (x : Sync) : (t.setSync o x).lateRaised = t.lateRaised := rfl
@[simp] theorem tile_setSync_conflictRaised (t : Tile) (o : Nat) (x : Sync) : (t.setSync o x).conflictRaised = t.conflictRaised := rfl
@[simp] theorem tile_setSync_scopeRaised (t : Tile) (o : Nat) (x : Sync) : (t.setSync o x).scopeRaised = t.scopeRaised := rfl
@[simp] theorem tile_setSync_pushMissAt (t : Tile) (o : Nat) (x : Sync) : (t.setSync o x).pushMissAt = t.pushMissAt := rfl
@[simp] theorem tile_setSync_attnMissAt (t : Tile) (o : Nat) (x : Sync) : (t.setSync o x).attnMissAt = t.attnMissAt := rfl
@[simp] theorem tile_setSync_keep (t : Tile) (o : Nat) (x : Sync) : (t.setSync o x).keep = t.keep := rfl
@[simp] theorem tile_setSync_retain (t : Tile) (o : Nat) (x : Sync) : (t.setSync o x).retain = t.retain := rfl
@[simp] theorem tile_setSync_lastCtx (t : Tile) (o : Nat) (x : Sync) : (t.setSync o x).lastCtx = t.lastCtx := rfl
@[simp] theorem tile_setSync_watchHold (t : Tile) (o : Nat) (x : Sync) : (t.setSync o x).watchHold = t.watchHold := rfl
@[simp] theorem tile_setSync_stop (t : Tile) (o : Nat) (x : Sync) : (t.setSync o x).stop = t.stop := rfl
@[simp] theorem tile_setSync_checkInBatch (t : Tile) (o : Nat) (x : Sync) : (t.setSync o x).checkInBatch = t.checkInBatch := rfl
@[simp] theorem tile_setSync_checkSeen (t : Tile) (o : Nat) (x : Sync) : (t.setSync o x).checkSeen = t.checkSeen := rfl
@[simp] theorem tile_setSync_lastIssueAc (t : Tile) (o : Nat) (x : Sync) : (t.setSync o x).lastIssueAc = t.lastIssueAc := rfl

end Sys2Proof.Machine
end

