-- ==== Sys2Proof/Laws/Table.lean ====
section
/-! SUPPORT. Tables in canonical form: reading after a write, and the canonical form kept by every operation on memory. -/
namespace Sys2Proof.Machine

variable {α : Type}

/-! ### Reading -/

@[simp] theorem tblGet_nil (d : α) (a : Nat) : tblGet d [] a = d := rfl

theorem tblGet_erase_ne (d : α) {a b : Nat} (h : b ≠ a) (t : Tbl α) : tblGet d (tblErase t a) b = tblGet d t b := by
  induction t with
  | nil => rfl
  | cons e r ih =>
    obtain ⟨k, v⟩ := e
    by_cases hk : k = a
    · subst hk; simp [tblErase, tblGet, Ne.symm h]
    · rw [tblErase, if_neg hk, tblGet, tblGet, ih]

theorem tblGet_insert (d : α) (t : Tbl α) (a b : Nat) (x : α) :
    tblGet d (tblInsert t a x) b = if b = a then x else tblGet d t b := by
  induction t with
  | nil =>
    by_cases h : b = a
    · simp [tblInsert, tblGet, h]
    · simp [tblInsert, tblGet, h, Ne.symm h]
  | cons e r ih =>
    obtain ⟨k, v⟩ := e
    simp only [tblInsert]
    split
    · by_cases h : b = a
      · simp [tblGet, h]
      · simp [tblGet, h, Ne.symm h]
    · split
      · rename_i h2; subst h2
        by_cases h : b = a
        · simp [tblGet, h]
        · simp [tblGet, h, Ne.symm h]
      · rename_i h1 h2
        by_cases hk : k = b
        · subst hk
          simp [tblGet, Ne.symm h2]
        · simp [tblGet, hk, ih]

variable [DecidableEq α]

/-- Keys of a canonical table lie above its bound. -/
theorem tblWfFrom_cons (d : α) (lo : Option Nat) (k : Nat) (v : α) (r : Tbl α) :
    tblWfFrom d lo ((k, v) :: r) = ((match lo with | none => true | some b => decide (b < k)) && decide (v ≠ d) && tblWfFrom d (some k) r) := rfl

theorem tblWfFrom_weaken (d : α) {lo k : Nat} (h : lo < k) : ∀ {t : Tbl α}, tblWfFrom d (some k) t = true → tblWfFrom d (some lo) t = true
  | [], _ => rfl
  | (k', v) :: r, hw => by
    simp only [tblWfFrom_cons, Bool.and_eq_true, decide_eq_true_eq] at hw ⊢
    exact ⟨⟨by omega, hw.1.2⟩, hw.2⟩

theorem tblWfFrom_none (d : α) {lo : Option Nat} : ∀ {t : Tbl α}, tblWfFrom d lo t = true → tblWfFrom d none t = true
  | [], _ => rfl
  | (k', v) :: r, hw => by
    simp only [tblWfFrom_cons, Bool.and_eq_true, decide_eq_true_eq] at hw ⊢
    exact ⟨⟨trivial, hw.1.2⟩, hw.2⟩

/-- A key at or below the bound of a canonical table reads as the default. -/
theorem tblGet_low (d : α) {b : Nat} : ∀ {lo : Nat} {t : Tbl α}, tblWfFrom d (some lo) t = true → b ≤ lo → tblGet d t b = d
  | _, [], _, _ => rfl
  | lo, (k, v) :: r, hw, hb => by
    simp only [tblWfFrom_cons, Bool.and_eq_true, decide_eq_true_eq] at hw
    have hk : k ≠ b := by omega
    simp only [tblGet, hk, if_false]
    exact tblGet_low d hw.2 (by omega)

theorem tblGet_erase_same (d : α) (a : Nat) : ∀ {lo : Option Nat} {t : Tbl α}, tblWfFrom d lo t = true → tblGet d (tblErase t a) a = d
  | _, [], _ => rfl
  | lo, (k, v) :: r, hw => by
    simp only [tblWfFrom_cons, Bool.and_eq_true, decide_eq_true_eq] at hw
    by_cases hk : k = a
    · subst hk
      simp only [tblErase, if_true]
      exact tblGet_low d hw.2 (Nat.le_refl _)
    · simp only [tblErase, hk, if_false, tblGet]
      exact tblGet_erase_same d a hw.2

/-- A write reads back, and leaves every other key as it was. -/
theorem tblGet_put (d : α) {t : Tbl α} (h : tblWf d t = true) (a b : Nat) (x : α) :
    tblGet d (tblPut d t a x) b = if b = a then x else tblGet d t b := by
  unfold tblPut
  split
  · rename_i hx
    by_cases hb : b = a
    · subst hb; simp [hx, tblGet_erase_same d b h]
    · simp [hb, tblGet_erase_ne d hb]
  · exact tblGet_insert d t a b x

/-- A write leaves every other key as it was, canonical or not. -/
theorem tblGet_put_ne (d : α) (t : Tbl α) {a b : Nat} (h : b ≠ a) (x : α) : tblGet d (tblPut d t a x) b = tblGet d t b := by
  unfold tblPut
  split
  · exact tblGet_erase_ne d h t
  · rw [tblGet_insert]; simp [h]

/-! ### The canonical form -/

theorem tblErase_wf (d : α) (a : Nat) : ∀ {lo : Option Nat} {t : Tbl α}, tblWfFrom d lo t = true → tblWfFrom d lo (tblErase t a) = true
  | _, [], _ => rfl
  | lo, (k, v) :: r, hw => by
    simp only [tblWfFrom_cons, Bool.and_eq_true, decide_eq_true_eq] at hw
    by_cases hk : k = a
    · subst hk
      simp only [tblErase, if_true]
      cases lo with
      | none => exact tblWfFrom_none d hw.2
      | some b =>
        have : b < k := by simpa using hw.1.1
        exact tblWfFrom_weaken d this hw.2
    · simp only [tblErase, hk, if_false, tblWfFrom_cons, Bool.and_eq_true, decide_eq_true_eq]
      exact ⟨hw.1, tblErase_wf d a hw.2⟩

/-- The bound of a canonical table, met by a key. -/
theorem tblWfFrom_cons' (d : α) (lo : Option Nat) (k : Nat) (v : α) (r : Tbl α) :
    tblWfFrom d lo ((k, v) :: r) = true ↔ (∀ b, lo = some b → b < k) ∧ v ≠ d ∧ tblWfFrom d (some k) r = true := by
  cases lo <;> simp [tblWfFrom_cons, and_assoc]

theorem tblInsert_wf (d : α) {a : Nat} {x : α} (hx : x ≠ d) :
    ∀ {lo : Option Nat} {t : Tbl α}, tblWfFrom d lo t = true → (∀ b, lo = some b → b < a) → tblWfFrom d lo (tblInsert t a x) = true
  | lo, [], _, hlo => (tblWfFrom_cons' ..).2 ⟨hlo, hx, rfl⟩
  | lo, (k, v) :: r, hw, hlo => by
    have h := (tblWfFrom_cons' ..).1 hw
    simp only [tblInsert]
    split
    · exact (tblWfFrom_cons' ..).2 ⟨hlo, hx, (tblWfFrom_cons' ..).2 ⟨by rintro b ⟨⟩; assumption, h.2⟩⟩
    · split
      · rename_i heq; subst heq
        exact (tblWfFrom_cons' ..).2 ⟨hlo, hx, h.2.2⟩
      · exact (tblWfFrom_cons' ..).2 ⟨h.1, h.2.1, tblInsert_wf d hx h.2.2 (by rintro b ⟨⟩; omega)⟩

/-- Every write keeps the canonical form. -/
theorem tblPut_wf (d : α) {t : Tbl α} (h : tblWf d t = true) (a : Nat) (x : α) : tblWf d (tblPut d t a x) = true := by
  unfold tblPut
  split
  · exact tblErase_wf d a h
  · rename_i hx
    exact tblInsert_wf d hx h (by simp)

theorem tblFilter_wf (d : α) (p : Nat × α → Bool) : ∀ {lo : Option Nat} {t : Tbl α}, tblWfFrom d lo t = true → tblWfFrom d lo (t.filter p) = true
  | _, [], _ => rfl
  | lo, (k, v) :: r, hw => by
    simp only [tblWfFrom_cons, Bool.and_eq_true, decide_eq_true_eq] at hw
    have ih := tblFilter_wf d p hw.2
    by_cases hp : p (k, v) = true
    · rw [List.filter_cons_of_pos hp]
      simp only [tblWfFrom_cons, Bool.and_eq_true, decide_eq_true_eq]
      exact ⟨hw.1, ih⟩
    · rw [List.filter_cons_of_neg hp]
      cases lo with
      | none => exact tblWfFrom_none d ih
      | some b =>
        have : b < k := by simpa using hw.1.1
        exact tblWfFrom_weaken d this ih

/-- Clearing a range keeps the canonical form. -/
theorem tblClear_wf (d : α) {t : Tbl α} (h : tblWf d t = true) (a n : Nat) : tblWf d (tblClear t a n) = true := tblFilter_wf d _ h

omit [DecidableEq α] in
theorem tblGet_filter (d : α) (p : Nat → Bool) : ∀ (t : Tbl α) (b : Nat), p b = true → tblGet d (t.filter (fun e => p e.1)) b = tblGet d t b
  | [], _, _ => rfl
  | (k, v) :: r, b, hb => by
    by_cases hp : p k = true
    · rw [List.filter_cons_of_pos (by simpa using hp)]
      simp only [tblGet, tblGet_filter d p r b hb]
    · rw [List.filter_cons_of_neg (by simpa using hp)]
      have hk : k ≠ b := fun h => hp (h ▸ hb)
      simp only [tblGet, hk, if_false, tblGet_filter d p r b hb]

omit [DecidableEq α] in
/-- Clearing a range leaves every key outside it. -/
theorem tblGet_clear_out (d : α) (t : Tbl α) {a n b : Nat} (h : b < a ∨ a + n ≤ b) : tblGet d (tblClear t a n) b = tblGet d t b := by
  refine tblGet_filter d (fun k => !(decide (a ≤ k) && decide (k < a + n))) t b ?_
  simp only [Bool.not_eq_true', Bool.and_eq_false_iff, decide_eq_false_iff_not]
  omega

omit [DecidableEq α] in
theorem tblGet_filter_none (d : α) (p : Nat → Bool) : ∀ (t : Tbl α) (b : Nat), p b = false → tblGet d (t.filter (fun e => p e.1)) b = d
  | [], _, _ => rfl
  | (k, v) :: r, b, hb => by
    by_cases hp : p k = true
    · rw [List.filter_cons_of_pos (by simpa using hp)]
      have hk : k ≠ b := fun h => by rw [h, hb] at hp; cases hp
      simp only [tblGet, hk, if_false, tblGet_filter_none d p r b hb]
    · rw [List.filter_cons_of_neg (by simpa using hp)]
      exact tblGet_filter_none d p r b hb

omit [DecidableEq α] in
/-- A cleared range reads as the default. -/
theorem tblGet_clear_in (d : α) (t : Tbl α) {a n b : Nat} (h1 : a ≤ b) (h2 : b < a + n) : tblGet d (tblClear t a n) b = d := by
  refine tblGet_filter_none d (fun k => !(decide (a ≤ k) && decide (k < a + n))) t b ?_
  simp [h1, h2]

/-! ### Memory -/

/-- Writing bytes keeps the canonical form. -/
theorem memWrite_wf (d : Byte) : ∀ (bs : List Byte) {m : Memory} (a : Nat), Memory.wf d m = true → Memory.wf d (memWrite d m a bs) = true
  | [], _, _, h => h
  | b :: bs, m, a, h => memWrite_wf d bs (a + 1) (tblPut_wf d h a b)

/-- Writing bytes leaves every byte outside them. -/
theorem memWrite_out (d : Byte) : ∀ (bs : List Byte) (m : Memory) {a k : Nat}, (k < a ∨ a + bs.length ≤ k) →
    tblGet d (memWrite d m a bs) k = tblGet d m k
  | [], _, _, _, _ => rfl
  | b :: bs, m, a, k, h => by
    simp only [List.length_cons] at h
    rw [memWrite, memWrite_out d bs _ (by omega), tblGet_put_ne d m (by omega)]

/-- Bytes written read back. -/
theorem memWrite_in (d : Byte) : ∀ (bs : List Byte) {m : Memory} (a : Nat), Memory.wf d m = true → ∀ i, (h : i < bs.length) →
    tblGet d (memWrite d m a bs) (a + i) = bs[i]
  | [], _, _, _, i, hi => absurd hi (by simp)
  | b :: bs, m, a, h, i, hi => by
    rw [memWrite]
    cases i with
    | zero => rw [memWrite_out d bs _ (by omega)]; simp [tblGet_put d h]
    | succ j =>
      have := memWrite_in d bs (a + 1) (tblPut_wf d h a b) j (by simpa using hi)
      simpa [Nat.add_assoc, Nat.add_comm 1 j] using this

/-- A read of exactly the bytes written gives them. -/
theorem memRead_memWrite (d : Byte) (bs : List Byte) {m : Memory} (a : Nat) (h : Memory.wf d m = true) :
    memRead d (memWrite d m a bs) a bs.length = bs := by
  apply List.ext_getElem
  · simp [memRead]
  · intro i h1 h2
    simp [memRead, memWrite_in d bs a h i h2]

/-! ### Units by index -/

theorem tile_updTile (c : Chip) (h : tblWf Tile.init c.tiles = true) (t u : Nat) (f : Tile → Tile) :
    (c.updTile t f).tile u = if u = t then f (c.tile t) else c.tile u := tblGet_put Tile.init h t u _
theorem tile_updTile_ne (c : Chip) {t u : Nat} (h : u ≠ t) (f : Tile → Tile) : (c.updTile t f).tile u = c.tile u := tblGet_put_ne _ _ h _
theorem ctx_updCtx (c : Chip) (h : tblWf Ctx.init c.ctxs = true) (n m : Nat) (f : Ctx → Ctx) :
    (c.updCtx n f).ctx m = if m = n then f (c.ctx n) else c.ctx m := tblGet_put Ctx.init h n m _
theorem ctx_updCtx_ne (c : Chip) {n m : Nat} (h : m ≠ n) (f : Ctx → Ctx) : (c.updCtx n f).ctx m = c.ctx m := tblGet_put_ne _ _ h _
theorem chan_updChan (c : Chip) (h : tblWf Chan.init c.chans = true) (n m : Nat) (f : Chan → Chan) :
    (c.updChan n f).chan m = if m = n then f (c.chan n) else c.chan m := tblGet_put Chan.init h n m _
@[simp] theorem str_updStr_same (c : Chip) (st : Strait) (f : Str → Str) : (c.updStr st f).str st = f (c.str st) := by cases st <;> rfl
theorem str_updStr_ne (c : Chip) {st su : Strait} (h : su ≠ st) (f : Str → Str) : (c.updStr st f).str su = c.str su := by
  cases st <;> cases su <;> first | rfl | exact absurd rfl h

end Sys2Proof.Machine
end

