-- ==== Sys2Proof/Laws/Ops.lean ====
section
/-! SUPPORT. Once for each shared operation: everything it can do. An equation that names the fields an operation may write says that it
leaves every other field of the module. -/
namespace Sys2Proof.Machine

/-! ### Running a meaning on the module -/

theorem onChip_live {s : State} (h : s.live = true) (f : Chip → Chip) : onChip f s = .next { s with chip := f s.chip } := by
  simp [onChip, h]
theorem onChip_dark {s : State} (h : s.live = false) (f : Chip → Chip) : onChip f s = .next s := by simp [onChip, h]
theorem onChipJ_live {s : State} (h : s.live = true) (f : Jtag → Chip → Chip) : onChipJ f s = .next { s with chip := f s.jtag s.chip } := by
  simp [onChipJ, h]
theorem onChipJ_dark {s : State} (h : s.live = false) (f : Jtag → Chip → Chip) : onChipJ f s = .next s := by simp [onChipJ, h]

/-- A meaning behind the front end answers a next state, and touches nothing but the module. -/
theorem onChip_next {f : Chip → Chip} {s t : State} (h : onChip f s = .next t) : t = { s with chip := t.chip } := by
  unfold onChip at h
  cases h
  split <;> rfl
theorem onChipJ_next {f : Jtag → Chip → Chip} {s t : State} (h : onChipJ f s = .next t) : t = { s with chip := t.chip } := by
  unfold onChipJ at h
  cases h
  split <;> rfl

@[simp] theorem when_true (f : Chip → Chip) (c : Chip) : Chip.when true f c = f c := rfl
@[simp] theorem when_false (f : Chip → Chip) (c : Chip) : Chip.when false f c = c := rfl
theorem when_of {b : Bool} (h : b = true) (f : Chip → Chip) (c : Chip) : Chip.when b f c = f c := by simp [h]

/-- A request that is executed. -/
theorem onReq_run {n op : Nat} {k : Req → Bool} {f : Req → Chip → Chip} {c : Chip} {q : Req} (hq : (c.ctx n).cur = some q)
    (hs : c.serves n = true) (ho : q.opcode.toNat = op) (hk : k q = true) : Chip.onReq n op k f c = f q c := by
  simp [Chip.onReq, hq, hs, ho, hk]

/-! ### Events (R455 to R457) -/

theorem putEv_eq (c : Chip) (n : Nat) (e : Ev) : ∃ x o, c.putEv n e = { c with ctxs := x, ext := o } := by
  unfold Chip.putEv
  dsimp only
  split
  · exact ⟨_, _, rfl⟩
  · exact ⟨_, c.ext, rfl⟩

theorem deliver_eq (c : Chip) (n : Nat) (e : Ev) : ∃ x o, c.deliver n e = { c with ctxs := x, ext := o } := by
  have step1 : ∃ x o, (if decide (0 < (c.ctx n).gap) && !(c.ctx n).evtFull then
      (c.putEv n { code := 0x0707, kind := 0, id := 0, stamp := c.tide.count, d0 := BitVec.ofNat 64 (c.ctx n).gap, d1 := 0 }).updCtx n
        (fun x => { x with gap := 0 }) else c) = { c with ctxs := x, ext := o } := by
    split
    · obtain ⟨x, o, h⟩ := putEv_eq c n { code := 0x0707, kind := 0, id := 0, stamp := c.tide.count, d0 := BitVec.ofNat 64 (c.ctx n).gap, d1 := 0 }
      rw [h]; exact ⟨_, o, rfl⟩
    · exact ⟨c.ctxs, c.ext, rfl⟩
  obtain ⟨x, o, h⟩ := step1
  unfold Chip.deliver
  dsimp only
  rw [h]
  split
  · exact ⟨_, o, rfl⟩
  · obtain ⟨y, p, g⟩ := putEv_eq { c with ctxs := x, ext := o } n e
    rw [g]; exact ⟨y, p, rfl⟩

theorem raiseTo_eq (c : Chip) (tgt : Nat) (e : Ev) : ∃ k x o, c.raiseTo tgt e = { c with keeper := k, ctxs := x, ext := o } := by
  unfold Chip.raiseTo
  dsimp only
  split
  · split
    · obtain ⟨x, o, h⟩ := deliver_eq { c with keeper := { c.keeper with evtRaised := c.keeper.evtRaised + 1 } } tgt e
      rw [h]
      obtain ⟨y, p, g⟩ := deliver_eq { c with keeper := { c.keeper with evtRaised := c.keeper.evtRaised + 1 }, ctxs := x, ext := o } 16 e
      rw [g]; exact ⟨_, y, p, rfl⟩
    · obtain ⟨y, p, g⟩ := deliver_eq { c with keeper := { c.keeper with evtRaised := c.keeper.evtRaised + 1 } } 16 e
      rw [g]; exact ⟨_, y, p, rfl⟩
  · exact ⟨_, c.ctxs, c.ext, rfl⟩

theorem traceRaw_eq (c : Chip) (kind idx : Nat) (r : TRec) : ∃ p, (c.traceRaw kind idx r).1 = { c with pan := p } := by
  unfold Chip.traceRaw
  dsimp only
  split <;> exact ⟨_, rfl⟩

theorem panLoss_eq (c : Chip) (b : Bool) (kind idx : Nat) : ∃ k x o, c.panLoss b kind idx = { c with keeper := k, ctxs := x, ext := o } := by
  unfold Chip.panLoss
  split
  · exact raiseTo_eq c _ _
  · exact ⟨c.keeper, c.ctxs, c.ext, rfl⟩

/-- Raising an event writes the Keeper's counts, the mailboxes, what is sent, and the pan. -/
theorem raise_eq (c : Chip) (tgt : Nat) (code : W16) (kind : BitVec 4) (id : Nat) (d0 d1 : W64) :
    ∃ k x o p, c.raise tgt code kind id d0 d1 = { c with keeper := k, ctxs := x, ext := o, pan := p } := by
  unfold Chip.raise
  dsimp only
  obtain ⟨k, x, o, h⟩ := raiseTo_eq c tgt { code := code, kind := kind, id := BitVec.ofNat 12 id, stamp := c.tide.count, d0 := d0, d1 := d1 }
  rw [h]
  split
  · rename_i h2
    obtain ⟨p, g⟩ := traceRaw_eq { c with keeper := k, ctxs := x, ext := o } 8 (BitVec.ofNat 12 id).toNat
      (traceRec { c with keeper := k, ctxs := x, ext := o } 8 0 false 0 0 0 8 (BitVec.ofNat 12 id).toNat (BitVec.ofNat 64 code.toNat) d0)
    rw [g]
    obtain ⟨k', x', o', g'⟩ := panLoss_eq { c with keeper := k, ctxs := x, ext := o, pan := p } _ 8 (BitVec.ofNat 12 id).toNat
    rw [g']; exact ⟨k', x', o', p, rfl⟩
  · exact ⟨k, x, o, c.pan, rfl⟩

theorem evMod_eq (c : Chip) (code : W16) (d0 d1 : W64) :
    ∃ k x o p, c.evMod code d0 d1 = { c with keeper := k, ctxs := x, ext := o, pan := p } := raise_eq ..
theorem evRun_eq (c : Chip) (code : W16) (d0 d1 : W64) :
    ∃ k x o p, c.evRun code d0 d1 = { c with keeper := k, ctxs := x, ext := o, pan := p } := raise_eq ..
theorem evTile_eq (c : Chip) (t : Nat) (code : W16) (d0 d1 : W64) :
    ∃ k x o p, c.evTile t code d0 d1 = { c with keeper := k, ctxs := x, ext := o, pan := p } := raise_eq ..
theorem evStr_eq (c : Chip) (st : Strait) (code : W16) (d0 d1 : W64) :
    ∃ k x o p, c.evStr st code d0 d1 = { c with keeper := k, ctxs := x, ext := o, pan := p } := raise_eq ..
theorem evChan_eq (c : Chip) (ch : Nat) (code : W16) (d0 d1 : W64) :
    ∃ k x o p, c.evChan ch code d0 d1 = { c with keeper := k, ctxs := x, ext := o, pan := p } := raise_eq ..

/-- A trace record writes the pan and, for a first loss, an event. -/
theorem traceTile_eq (c : Chip) (kind t ev sub : Nat) (pz : Bool) (w0 w1 a0 a1 : W64) :
    ∃ k x o p, c.traceTile kind t ev sub pz w0 w1 a0 a1 = { c with keeper := k, ctxs := x, ext := o, pan := p } := by
  unfold Chip.traceTile
  split
  · obtain ⟨p, g⟩ := traceRaw_eq c kind t (traceRec c ev sub pz (fld w0 47 32) (fld w1 31 16) (fld w1 15 0) kind t a0 a1)
    dsimp only
    rw [g]
    obtain ⟨k, x, o, h⟩ := panLoss_eq { c with pan := p } _ kind t
    rw [h]; exact ⟨k, x, o, p, rfl⟩
  · exact ⟨c.keeper, c.ctxs, c.ext, c.pan, rfl⟩
theorem traceCmd_eq (c : Chip) (kind idx ev sub id layer oper : Nat) (a0 a1 : W64) :
    ∃ k x o p, c.traceCmd kind idx ev sub id layer oper a0 a1 = { c with keeper := k, ctxs := x, ext := o, pan := p } := by
  unfold Chip.traceCmd
  split
  · obtain ⟨p, g⟩ := traceRaw_eq c kind idx (traceRec c ev sub false id layer oper kind idx a0 a1)
    dsimp only
    rw [g]
    obtain ⟨k, x, o, h⟩ := panLoss_eq { c with pan := p } _ kind idx
    rw [h]; exact ⟨k, x, o, p, rfl⟩
  · exact ⟨c.keeper, c.ctxs, c.ext, c.pan, rfl⟩

/-! ### Responses (R435, R437) -/

theorem flushRsps_eq (n : Nat) : ∀ (k : Nat) (c : Chip), ∃ x o, flushRsps n k c = { c with ctxs := x, ext := o }
  | 0, c => ⟨c.ctxs, c.ext, rfl⟩
  | k + 1, c => by
    unfold flushRsps
    dsimp only
    split
    · exact ⟨c.ctxs, c.ext, rfl⟩
    · split
      · split
        · obtain ⟨x, o, h⟩ := flushRsps_eq n k _
          rw [h]; exact ⟨x, o, rfl⟩
        · obtain ⟨x, o, h⟩ := flushRsps_eq n k _
          rw [h]; exact ⟨x, o, rfl⟩
      · exact ⟨c.ctxs, c.ext, rfl⟩

/-- Completing a request writes mailboxes and what is sent. -/
theorem respond_eq (c : Chip) (n : Nat) (q : Req) (st : W16) (p : List Byte) (e : W16) (r : Nat) :
    ∃ x o, c.respond n q st p e r = { c with ctxs := x, ext := o } := by
  unfold Chip.respond
  obtain ⟨x, o, h⟩ := flushRsps_eq n _ (c.updCtx n (fun x => { x with rsps := x.rsps ++ [_] }))
  exact ⟨x, o, h⟩
theorem answer_eq (c : Chip) (n : Nat) (q : Req) (st : W16) (p : List Byte) (e : W16) :
    ∃ x o, c.answer n q st p e = { c with ctxs := x, ext := o } := by
  obtain ⟨x, o, h⟩ := respond_eq (c.updCtx n (fun x => { x with cur := none })) n q st p e 0
  exact ⟨x, o, h⟩
theorem answerRef_eq (c : Chip) (n : Nat) (q : Req) (st : W16) (p : List Byte) (r : Nat) :
    ∃ x o, c.answerRef n q st p r = { c with ctxs := x, ext := o } := by
  obtain ⟨x, o, h⟩ := respond_eq (c.updCtx n (fun x => { x with cur := none })) n q st p 0xFFFF r
  exact ⟨x, o, h⟩
theorem refuse_eq (c : Chip) (n : Nat) (q : Req) (st : W16) : ∃ x o, c.refuse n q st = { c with ctxs := x, ext := o } := answer_eq ..
theorem okay_eq (c : Chip) (n : Nat) (q : Req) (ws : List W64) : ∃ x o, c.okay n q ws = { c with ctxs := x, ext := o } := answer_eq ..
theorem endBg_eq (c : Chip) (b : Bg) (st : W16) (p : List Byte) (e : W16) (r : Nat) :
    ∃ x o, c.endBg b st p e r = { c with keeper := { c.keeper with bgs := c.keeper.bgs.filter (fun y => y != b) }, ctxs := x, ext := o } :=
  respond_eq ..

/-! ### Freezing (R126, R338) -/

/-- A tile that freezes: the tile, and the harvest that the Keeper is asked for. -/
theorem freezeTile_eq (c : Chip) (t : Nat) (cause : Byte) (id : W16) (op : Byte) (desc : Bool) :
    ∃ ts hq, c.freezeTile t cause id op desc = { c with tiles := ts, harvQ := hq } := by
  unfold Chip.freezeTile
  split
  · exact ⟨c.tiles, c.harvQ, rfl⟩
  · exact ⟨_, _, rfl⟩

/-- A violation by a tile: the freeze and its event. -/
theorem tileViolation_eq (c : Chip) (t : Nat) (cause : Byte) (id : W16) (op : Byte) (addr : Nat) :
    ∃ ts hq k x o p, c.tileViolation t cause id op addr = { c with tiles := ts, harvQ := hq, keeper := k, ctxs := x, ext := o, pan := p } := by
  unfold Chip.tileViolation
  split
  · exact ⟨c.tiles, c.harvQ, c.keeper, c.ctxs, c.ext, c.pan, rfl⟩
  · obtain ⟨ts, hq, h⟩ := freezeTile_eq c t cause id op true
    rw [h]
    obtain ⟨k, x, o, p, g⟩ := evTile_eq { c with tiles := ts, harvQ := hq } t 0x0201
      (mkWord [(56, 8, cause.toNat), (48, 8, op.toNat), (32, 16, id.toNat)]) (BitVec.ofNat 64 addr)
    rw [g]; exact ⟨ts, hq, k, x, o, p, rfl⟩

/-! ### Memory writes (R259, R260) -/

/-- Updates of channels one after another leave everything else. -/
theorem foldl_updChan {β : Type} (k : β → Nat) (f : β → Chan → Chan) : ∀ (gs : List β) (c : Chip),
    ∃ x, gs.foldl (fun c g => c.updChan (k g) (f g)) c = { c with chans := x }
  | [], c => ⟨c.chans, rfl⟩
  | g :: gs, c => by
    obtain ⟨x, h⟩ := foldl_updChan k f gs (c.updChan (k g) (f g))
    exact ⟨x, by rw [List.foldl_cons, h]; rfl⟩

/-- One granule of undefined contents settles. -/
def Chip.settleOne (c : Chip) (g : Nat) : Chip :=
  { c with lpMem := memWrite 0 c.lpMem (g * 64) ((List.range 64).map (fun i => c.lpByte (g * 64 + i))), defined := setAdd c.defined g }

theorem contains_setAdd (s : NatSet) (a b : Nat) : (setAdd s a).contains b = (b == a || s.contains b) := by
  induction s with
  | nil => rfl
  | cons k r ih =>
    unfold setAdd
    split
    · rfl
    · split
      · rename_i h; subst h; rw [List.contains_cons, ← Bool.or_assoc, Bool.or_self]
      · rw [List.contains_cons, ih, List.contains_cons, Bool.or_left_comm]

theorem tagsAt_congr {c d : Chip} (h : c.regions = d.regions) (k : Nat) : c.tagsAt k = d.tagsAt k := by unfold Chip.tagsAt; rw [h]

/-- A granule that settles reads as before, outside the tags of sealed regions. -/
theorem settleOne_lpByte (c : Chip) (g k : Nat) (hw : Memory.wf 0 c.lpMem = true) (hk : c.tagsAt k = none) :
    (c.settleOne g).lpByte k = c.lpByte k := by
  have ht : (c.settleOne g).tagsAt k = none := hk
  by_cases hg : k / 64 = g
  · have hu : (c.settleOne g).undefAt (k / 64) = none := by
      unfold Chip.undefAt Chip.settleOne
      rw [contains_setAdd, hg]; simp
    have hi : k % 64 < ((List.range 64).map (fun i => c.lpByte (g * 64 + i))).length := by simp; omega
    have key := memWrite_in 0 ((List.range 64).map (fun i => c.lpByte (g * 64 + i))) (m := c.lpMem) (g * 64) hw (k % 64) hi
    have e : g * 64 + k % 64 = k := by omega
    rw [e] at key
    conv => lhs; unfold Chip.lpByte
    rw [ht, hu]
    show tblGet 0 (memWrite 0 c.lpMem (g * 64) _) k = _
    rw [key]
    simp [e]
  · have hu : (c.settleOne g).undefAt (k / 64) = c.undefAt (k / 64) := by
      unfold Chip.undefAt Chip.settleOne
      rw [contains_setAdd]; simp [hg]
    have hm : tblGet 0 (c.settleOne g).lpMem k = tblGet 0 c.lpMem k := memWrite_out 0 _ _ (by simp; omega)
    unfold Chip.lpByte
    rw [ht, hk, hu, hm]

/-- Settling writes LPDDR5X and what of it is defined, keeps its canonical form, and changes no byte that is read outside tags. -/
theorem settleAll_eq : ∀ (gs : List Nat) (c : Chip), ∃ m df, gs.foldl Chip.settleOne c = { c with lpMem := m, defined := df } ∧
    (Memory.wf 0 c.lpMem = true → Memory.wf 0 m = true ∧
      ∀ k, c.tagsAt k = none → ({ c with lpMem := m, defined := df } : Chip).lpByte k = c.lpByte k)
  | [], c => ⟨c.lpMem, c.defined, rfl, fun h => ⟨h, fun _ _ => rfl⟩⟩
  | g :: gs, c => by
    obtain ⟨m, df, h, k⟩ := settleAll_eq gs (c.settleOne g)
    refine ⟨m, df, h, fun hw => ?_⟩
    obtain ⟨h1, h2⟩ := k (memWrite_wf 0 _ _ hw)
    exact ⟨h1, fun a ha => (h2 a ha).trans (settleOne_lpByte c g a hw ha)⟩

theorem settle_eq (c : Chip) (a n : Nat) : ∃ m df, c.settle a n = { c with lpMem := m, defined := df } ∧
    (Memory.wf 0 c.lpMem = true → Memory.wf 0 m = true ∧
      ∀ k, c.tagsAt k = none → ({ c with lpMem := m, defined := df } : Chip).lpByte k = c.lpByte k) := settleAll_eq _ c

/-- Everything a write can do: scratchpad and its marks, or LPDDR5X, its marks and its channels. -/
theorem write_eq (c : Chip) (a : Nat) (bs : List Byte) (pz : Bool) :
    (∃ ps es, inSpd a = true ∧ c.write a bs pz = { c with spdMem := memWrite 0 c.spdMem (a - spdBase) bs, spdPoison := ps, spdErr := es }) ∨
    (∃ m df ps es ms ch, inSpd a = false ∧ c.settle a bs.length = { c with lpMem := m, defined := df } ∧
      c.write a bs pz = { c with lpMem := memWrite 0 m a bs, defined := df, lpPoison := ps, lpErr := es, macBad := ms, chans := ch }) := by
  obtain ⟨m, df, hs, _⟩ := settle_eq c a bs.length
  unfold Chip.write
  by_cases h : inSpd a = true
  · rw [if_pos h]; exact .inl ⟨_, _, h, rfl⟩
  · rw [if_neg h, hs]
    obtain ⟨x, g⟩ := foldl_updChan (fun g => chanOf (g * 64)) (fun g x =>
      { x with rmb := if tblGet 0 x.rmb (chanOff (g * 64) / 64 % 4096) = g + 1
                        then tblErase x.rmb (chanOff (g * 64) / 64 % 4096) else x.rmb,
               fills := tblErase x.fills g,
               wb := setDel x.wb g, wbOrder := x.wbOrder.filter (· != g) }) (unitsOf 64 a bs.length)
      { c with lpMem := memWrite 0 m a bs, defined := df, lpPoison := poisonAfter c.lpPoison 64 a bs.length pz,
               lpErr := c.lpErr.filter (fun e => !(within (e.1 * 64) 64 a bs.length)),
               macBad := c.macBad.filter (fun g => !(within (g * 64) 64 a bs.length)) }
    exact .inr ⟨m, df, _, _, _, x, by simpa using h, rfl, g⟩

/-- A write keeps the canonical form of both memories. -/
theorem write_wf (c : Chip) (a : Nat) (bs : List Byte) (pz : Bool) (h1 : Memory.wf 0 c.spdMem = true) (h2 : Memory.wf 0 c.lpMem = true) :
    Memory.wf 0 (c.write a bs pz).spdMem = true ∧ Memory.wf 0 (c.write a bs pz).lpMem = true := by
  obtain ⟨_, _, _, h⟩ | ⟨m, df, _, _, _, _, _, hs, h⟩ := write_eq c a bs pz <;> rw [h]
  · exact ⟨memWrite_wf 0 bs _ h1, h2⟩
  · obtain ⟨m', df', hs', hw⟩ := settle_eq c a bs.length
    have e : m = m' := by have := congrArg Chip.lpMem (hs.symm.trans hs'); exact this
    exact ⟨h1, memWrite_wf 0 bs _ (e ▸ (hw h2).1)⟩

theorem inSpd_base {a : Nat} (h : inSpd a = true) : spdBase ≤ a := by
  unfold inSpd at h
  exact of_decide_eq_true (Bool.and_eq_true_iff.1 h).1

theorem memRead_one (d : Byte) (m : Memory) (a : Nat) : memRead d m a 1 = [tblGet d m a] := by simp [memRead]
theorem bytes_spd (c : Chip) {k : Nat} (h : inSpd k = true) : c.bytes k 1 = [tblGet 0 c.spdMem (k - spdBase)] := by
  rw [Chip.bytes, if_pos h, memRead_one]
theorem bytes_lp (c : Chip) {k : Nat} (h : inSpd k = false) : c.bytes k 1 = [c.lpByte k] := by
  rw [Chip.bytes, if_neg (by rw [h]; exact Bool.false_ne_true)]; simp

theorem off_out {a k n z : Nat} (h : k < a ∨ a + n ≤ k) (h1 : z ≤ a) (h2 : z ≤ k) : k - z < a - z ∨ (a - z) + n ≤ k - z := by omega

/-- A byte of LPDDR5X that is no tag reads alike in two modules that agree on regions, on it and on what is undefined. -/
theorem lpByte_congr {c d : Chip} {k : Nat} (hr : c.regions = d.regions) (hu : c.undef = d.undef) (hd : c.defined = d.defined)
    (hm : tblGet 0 c.lpMem k = tblGet 0 d.lpMem k) (hk : d.tagsAt k = none) : c.lpByte k = d.lpByte k := by
  have hk' : c.tagsAt k = none := (tagsAt_congr hr k).trans hk
  unfold Chip.lpByte Chip.undefAt
  rw [hk, hk', hu, hd, hm]

/-- A write leaves every byte outside the range written, but for the tags of a sealed region, which follow its granules (R286). -/
theorem write_byte (c : Chip) (a : Nat) (bs : List Byte) (pz : Bool) (k : Nat) (hw : Memory.wf 0 c.lpMem = true) (hk : c.tagsAt k = none)
    (h : k < a ∨ a + bs.length ≤ k) : (c.write a bs pz).bytes k 1 = c.bytes k 1 := by
  obtain ⟨_, _, hs, e⟩ | ⟨m, df, _, _, _, _, hs, hm, e⟩ := write_eq c a bs pz <;> rw [e] <;> cases hi : inSpd k
  · rw [bytes_lp _ hi, bytes_lp _ hi]; rfl
  · rw [bytes_spd _ hi, bytes_spd _ hi, memWrite_out 0 bs _ (off_out h (inSpd_base hs) (inSpd_base hi))]
  · rw [bytes_lp _ hi, bytes_lp _ hi]
    obtain ⟨m', df', hm', hb⟩ := settle_eq c a bs.length
    have e1 : m = m' := congrArg Chip.lpMem (hm.symm.trans hm')
    have e2 : df = df' := congrArg Chip.defined (hm.symm.trans hm')
    subst e1 e2
    rw [← (hb hw).2 k hk]
    exact congrArg (fun x => [x]) (lpByte_congr rfl rfl rfl (memWrite_out 0 bs m h) hk)
  · rw [bytes_spd _ hi, bytes_spd _ hi]

/-- The serial NOR and host memory keep it too. -/
theorem norProg_wf (c : Chip) (a : Nat) (bs : List Byte) (h : Memory.wf 0xFF c.nor = true) : Memory.wf 0xFF (c.norProg a bs).nor = true :=
  memWrite_wf 0xFF bs a h
theorem norErase_wf (c : Chip) (a n : Nat) (h : Memory.wf 0xFF c.nor = true) : Memory.wf 0xFF (c.norErase a n).nor = true :=
  tblClear_wf 0xFF h a n
theorem hostWrite_wf (c : Chip) (a : Nat) (bs : List Byte) (h : Memory.wf 0 c.ext.host = true) : Memory.wf 0 (c.hostWrite a bs).ext.host = true :=
  memWrite_wf 0 bs a h
/-- Zeroing a range of LPDDR5X (R443), and powering scratchpad groups down (R232). -/
theorem zeroLp_wf (c : Chip) (a n : Nat) (h : Memory.wf 0 c.lpMem = true) : Memory.wf 0 (c.zeroLp a n).lpMem = true := tblClear_wf 0 h a n

end Sys2Proof.Machine
end

