-- ==== Sys2Proof/Laws/Commands.lean ====
section
/-! SUPPORT. What the shared frames of commands do: a command that issues, a transaction that has arrived, and a mailbox command that is taken. -/
namespace Sys2Proof.Machine

/-- A command that issues has its row's effect on the state that its issue left. -/
theorem issueRow_run {i : Issue} {ops : Nat → Bool} {t : Nat} {c : Chip} {q : QCmd} (h : Issues i ops t c q) :
    issueRow i ops t c = i.run (c.issued t q) t q := by
  obtain ⟨h1, h2, h3, h4, h5, h6, h7, h8⟩ := h
  unfold issueRow
  rw [h1]
  dsimp only
  rw [if_neg (by simp [h2]), if_neg (by simp [h3]), if_neg (by simp [h4]), h5]
  dsimp only
  rw [if_neg (by simp [h6]), h7]
  dsimp only
  rw [if_neg (by rw [h8]; exact Bool.false_ne_true)]

/-- A head that is not due, or of another opcode while it is neither poisoned nor undefined, leaves a row without effect. -/
theorem issueRow_none {i : Issue} {ops : Nat → Bool} {t : Nat} {c : Chip} (h : c.readyHead t = none) : issueRow i ops t c = c := by
  unfold issueRow; rw [h]
theorem issueRow_other {i : Issue} {ops : Nat → Bool} {t : Nat} {c : Chip} {q : QCmd} (h : c.readyHead t = some q) (hp : q.poisoned = false)
    (hd : opDefined q.op = true) (ho : ops q.op = false) : issueRow i ops t c = c := by
  unfold issueRow
  rw [h]
  dsimp only
  rw [if_neg (by simp [hp]), if_neg (by simp [hd]), if_pos (by simp [ho])]

/-- The oldest transaction of a receive buffer is handled by its row. -/
theorem onRx_arrived {c : Chip} {st : Strait} {vc : BitVec 2} {ty : Nat} {k : Nat → Bool} {r : RxTxn} {f : Chip → RxTxn → Chip}
    (h : Arrived c st vc ty k r) : c.onRx st vc ty k f = f c r := by
  obtain ⟨h1, h2⟩ := h
  unfold Chip.onRx
  rw [h1]
  dsimp only
  rw [if_pos h2]

end Sys2Proof.Machine
end

