-- ==== Sys2Proof/WellFormed.lean ====
section
/-! DEFINITION. Which commands can come from outside: operands that their type does not bound keep the manual's limits. -/
namespace Sys2Proof

/-- A memory write by PCIe (R342): 1 to 512 B that cross no 4 KiB boundary. -/
def pcieWrite (a n : Nat) : Bool := decide (1 ≤ n) && decide (n ≤ 512) && decide (a % 4096 + n ≤ 4096)
/-- A memory read by PCIe (R342): 1 to 4,096 B that cross no 4 KiB boundary. -/
def pcieRead (a n : Nat) : Bool := decide (1 ≤ n) && decide (a % 4096 + n ≤ 4096)
/-- An SMBus block (R563): 1 to 32 B. -/
def blockLen (n : Nat) : Bool := decide (1 ≤ n) && decide (n ≤ 32)
/-- A NOR byte address that NOR_ACCESS takes (R521, R569): a multiple of 8 below 128 MiB. -/
def norAddr (a : W32) : Bool := decide (a.toNat % 8 = 0) && decide (a.toNat < 0x800_0000)

/-- A command whose operands keep their limits: a source code names a source (R34), a flit has 256 B (R386), a sync port word's OP is
its row's (R360), an agreement carries four 32 B entries (R419), VF_FLR names a virtual function (R561). -/
def Instr.wf : Instr → Bool
  | .pllLock => true
  | .refSourceInvalid src => decide (src.toNat < 6)
  | .refSourceValid src => decide (src.toNat < 6)
  | .holdoverTimeout => true
  | .timeExchangeTimer _ => true
  | .timeRequest _ _ => true
  | .timeReply _ _ => true
  | .queueFetch _ => true
  | .wait _ => true
  | .signal _ => true
  | .fence _ => true
  | .matmul _ => true
  | .loadw _ => true
  | .swapw _ => true
  | .gang _ => true
  | .arrayQueueHead _ _ => true
  | .swapwEffect _ _ => true
  | .gangEffect _ => true
  | .loadwPlaneValid _ _ => true
  | .accumRowWrite _ _ _ => true
  | .rampUpDone _ => true
  | .warmIdleTimeout _ => true
  | .rampDownDone _ => true
  | .vecAdd _ => true
  | .vecSub _ => true
  | .vecMul _ => true
  | .vecFma _ => true
  | .vecMax _ => true
  | .vecMin _ => true
  | .vecCvt _ => true
  | .vecExp2 _ => true
  | .vecLog2 _ => true
  | .vecRcp _ => true
  | .vecRsqrt _ => true
  | .vecRsum _ => true
  | .vecRmax _ => true
  | .vecSmstep _ => true
  | .vecNormstat _ => true
  | .vecQuant _ => true
  | .vecDequant _ => true
  | .vecTopk _ => true
  | .vectorComplete _ => true
  | .dma _ => true
  | .dma2d _ => true
  | .ferryPull _ => true
  | .ferryPush _ => true
  | .reservationCheckDone _ _ => true
  | .channelServiceSlot _ => true
  | .egressServiceSlot _ _ => true
  | .ferryInject _ => true
  | .ferrySourceReadDone _ => true
  | .transferComplete _ _ => true
  | .stallLimit _ => true
  | .harvestStored => true
  | .attnQ _ => true
  | .attnAdmit => true
  | .engineBlock _ => true
  | .engineRecord _ => true
  | .attnQComplete _ => true
  | .mark _ => true
  | .dumpInput _ => true
  | .dumpSeal _ => true
  | .sealRecordDone _ => true
  | .refreshWindow => true
  | .maintenancePart _ => true
  | .maintPeriod _ => true
  | .perBankRefresh _ => true
  | .addedRefresh _ => true
  | .refreshRatePoll _ _ _ => true
  | .recheckChunkDone => true
  | .barWrite _ _ _ off data _ => pcieWrite off.toNat data.length
  | .barRead _ _ _ off len => pcieRead off.toNat len
  | .syncPortAdd _ _ _ w => decide (w.toNat / 2 ^ 62 = 0)
  | .syncPortSet _ _ _ w => decide (w.toNat / 2 ^ 62 = 1)
  | .syncPortCount _ _ _ w => decide (2 ≤ w.toNat / 2 ^ 62)
  | .trayWriteArrival _ a data _ => pcieWrite a.toNat data.length
  | .trayReadArrival _ a len => pcieRead a.toNat len
  | .trayReadCompletion _ _ data _ => decide (1 ≤ data.length) && decide (data.length ≤ 4096)
  | .mbxReqTailWrite _ _ => true
  | .mbxRspHeadWrite _ _ => true
  | .mbxEvtHeadWrite _ _ => true
  | .mailboxRequestRead _ => true
  | .devQuery _ => true
  | .devIdentity _ => true
  | .ctxOpen _ => true
  | .ctxClose _ => true
  | .ctxUnfreeze _ => true
  | .memAlloc _ => true
  | .memFree _ => true
  | .memMap _ => true
  | .memUnmap _ => true
  | .memTable _ => true
  | .tableRefsDrained _ => true
  | .tableLoadTimeout _ => true
  | .ringPlan _ _ => true
  | .ringForm _ _ => true
  | .discoverTimeout => true
  | .formationDecision _ => true
  | .measureDone _ _ _ east west => decide (east.length ≤ 64) && decide (west.length ≤ 64)
  | .formationTimeout => true
  | .ringJoin _ _ => true
  | .ringLeave _ => true
  | .ringSlack _ => true
  | .ringResume _ => true
  | .ringOrient _ _ => true
  | .wgtStage _ _ => true
  | .wgtStageDone _ _ _ => true
  | .wgtVerify _ _ => true
  | .wgtVerifyDone _ => true
  | .wgtSwitch _ => true
  | .wgtDrop _ => true
  | .wsetEffect _ => true
  | .runLaunch _ => true
  | .runStatus _ => true
  | .runCancel _ => true
  | .obsCounters _ _ => true
  | .obsTraceConfigure _ => true
  | .obsTraceArm _ => true
  | .obsTraceStop _ => true
  | .obsTraceRead _ _ => true
  | .obsWatch _ => true
  | .watchFire _ => true
  | .watchCopyDone _ _ => true
  | .obsHarvest _ _ => true
  | .secAttest _ _ => true
  | .secUpdate _ _ => true
  | .cfgRead _ => true
  | .cfgWrite _ => true
  | .registerWrite _ a _ => decide (a.toNat % 8 = 0)
  | .tideCtrlWrite _ _ => true
  | .kprTrayWrite _ off _ => decide (off.toNat % 8 = 0)
  | .pwrCtrlWrite _ _ => true
  | .watchdogExpiry => true
  | .keeperRestart => true
  | .cablePresent _ => true
  | .cableRemoved _ => true
  | .detectTimeout _ => true
  | .detectRetry _ => true
  | .detectDone _ _ => true
  | .equaliseDone _ _ => true
  | .equaliseTimeout _ => true
  | .alignDone _ _ => true
  | .alignTimeout _ => true
  | .identifyTimeout _ => true
  | .fecLockLoss _ => true
  | .crcSilenceTimeout _ => true
  | .retrainDone _ _ => true
  | .retrainTimeout _ => true
  | .flitReceive _ bytes _ _ => decide (bytes.length = 256)
  | .creditStallTimeout _ => true
  | .ferry _ => true
  | .ferryWritten _ => true
  | .ferryHoldStall _ => true
  | .rwrite _ => true
  | .rread _ => true
  | .rreadQueueServe _ => true
  | .rreadResponse _ => true
  | .straitSignalAdd _ => true
  | .straitSignalSet _ => true
  | .straitSignalAck _ => true
  | .credit _ => true
  | .probe _ => true
  | .slackRequest _ => true
  | .slackCut _ => true
  | .slackReqPin => true
  | .slackCutMark => true
  | .slackReached => true
  | .stepBoundary => true
  | .berthRelease _ => true
  | .commitShadow _ => true
  | .commitReport => true
  | .commitDeclare _ => true
  | .quiesceTimeout => true
  | .drainDone => true
  | .drainTimeout _ => true
  | .recoveryDecide rs => decide (rs.length ≤ 64)
  | .decisionDeadline rs => decide (rs.length ≤ 64)
  | .recoveryDecision _ => true
  | .replayMark => true
  | .panRecord => true
  | .stampWrap => true
  | .powerOnBoot _ => true
  | .pwrEnRise => true
  | .pwrEnFall => true
  | .inputUndervoltage => true
  | .inputOvervoltage => true
  | .inputRestored => true
  | .inputOvercurrent => true
  | .coreOvercurrent => true
  | .powerSample _ _ _ => true
  | .thermalWarning _ _ => true
  | .thermalShutdown _ => true
  | .perst => true
  | .vfFlr n => decide (n ≠ 0)
  | .pfFlr => true
  | .vfEnableClear => true
  | .d3hot _ => true
  | .smbusSetWindow _ _ => true
  | .smbusDataWrite data _ => blockLen data.length
  | .smbusDataRead len => blockLen len
  | .smbusStatusRead => true
  | .alertResponse => true
  | .tapReset => true
  | .bypass _ => true
  | .idcode _ => true
  | .samplePreload _ _ => true
  | .extest _ => true
  | .extestPulse _ => true
  | .extestTrain _ => true
  | .clamp _ => true
  | .highz _ => true
  | .memtestDq _ => true
  | .memtestCa _ => true
  | .memtestDone _ => true
  | .ctrlAccess _ => true
  | .ctrlAccessDone => true
  | .norAccessRead a => norAddr a
  | .norAccessWrite a _ => norAddr a
  | .norAccessErase a => norAddr a
  | .norAccessDone => true
  | .slackReqRelease => true
  | .restoreDone => true
  | .commitReportArrival _ _ => true
  | .formationAgree r => decide (r.entries.length = 128)
  | .secUpdateDone => true
  | .runLaunchLoaded => true
  | .launchLoadDeadline => true
  | .runCancelDone => true
  | .perstRelease => true
  | .d3hotExit _ => true
  | .runBaseMark => true

end Sys2Proof
end

