-- ==== Sys2Proof/Tests/Slice0.lean ====
section
/-! SUPPORT. The model's own tests, each about one step or one check on a small state, and for every statement with hypotheses a state
that meets them. -/
namespace Sys2Proof.Tests
open Sys2Proof Sys2Proof.Machine
set_option Elab.async false

/-- The module at reset. -/
def chip0 : Chip := State.reset.chip
/-- A module that runs, with a chip of our choice. -/
def on (c : Chip) : State := { State.reset with chip := c }
/-- With a time base. -/
def withTide (t : Tide) : State := on { chip0 with tide := t }
/-- With one strait and a time base. -/
def withStr (st : Strait) (x : Str) (t : Tide) : State := on { chip0 with tide := t, strs := chip0.strs.set st x }
/-- With one transaction whole in a receive buffer of a strait that is up. -/
def withRx (st : Strait) (vc : BitVec 2) (bs : List Byte) (t : Tide) : State :=
  withStr st (({ Str.init with train := .up, pver := 1 }).setRx vc
    [{ txn := ⟨bs, []⟩, flits := 1, good := true, atTk := 0, held := false, ready := false, stalled := false }]) t

/-- A run whose base mark has passed, on tile 0, with nothing planned. -/
def run0 : Run :=
  { num := 1, ctx := 1, image := lpBase, size := 0x1000, base := 10, first := 0, seed := 0, det := false, compat := 0, grid := false, role := 0,
    line := false, brk := 0, tilesOff := 0, steps := [0], commits := [], endOff := 1000, berths := [], exports := [], wins := [],
    budget := [], tiles := [0], set := none, digest := [], state := .running, reached := 1, committed := 0, reported := 0, baseSeen := true,
    cancelling := false }
/-- The tide count 100 in an aligned ring. -/
def tide100 : Tide := { Tide.init with st := .aligned, count := 100, acs := 800 }
/-- A tile that runs with some commands queued. -/
def tileQ (qs : List QCmd) : Tile := { Tile.init with st := .running, queue := qs, streamLen := 100, fetched := qs.length }
/-- A command of an opcode, with its words from the second up. -/
def cmd (op : Nat) (ws : List W64) : QCmd := ⟨mkWord [(56, 8, op)] :: ws, 0, false, false⟩
/-- A module whose run is on tile 0, with that tile as given. -/
def chipT (x : Tile) : Chip := { chip0 with tide := tide100, runs := [run0], tiles := [(0, x)] }
/-- Its state. -/
def tileOn (qs : List QCmd) : State := on (chipT (tileQ qs))
theorem on_live (c : Chip) : (on c).live = true := rfl

/-! ### Ill-formed commands: one for each check -/

/-- n zero bytes. -/
def zeros (n : Nat) : List Byte := List.replicate n 0
theorem test_illformed_clock : [Instr.refSourceInvalid 6, .refSourceValid 7, .measureDone 0 0 true [] (List.replicate 65 0)].map Instr.wf = [false, false, false] := by decide +kernel
theorem test_illformed_host : [Instr.barWrite 0 0 .bar2 0xFFF (zeros 2) false, .barWrite 0 0 .bar2 0 [] false, .barRead 0 0 .bar2 0 0, .barRead 0 0 .bar2 8 4096, .trayWriteArrival 0 0xFFF (zeros 2) false, .trayReadArrival 0 0 0,
    .trayReadCompletion 0 0 [] false].map Instr.wf = [false, false, false, false, false, false, false] := by decide +kernel
theorem test_illformed_ports : [Instr.syncPortAdd (.host 0) 0 0 (1 <<< 62), .syncPortSet (.host 0) 0 0 0, .syncPortCount (.host 0) 0 0 (1 <<< 62)].map Instr.wf = [false, false, false] := by decide +kernel
theorem test_illformed_registers : [Instr.registerWrite (.ctx 0) 4 0, .kprTrayWrite (.ctx 0) 4 0].map Instr.wf = [false, false] := by decide +kernel
theorem test_illformed_link : [Instr.flitReceive .e (zeros 255) 0 false, .recoveryDecide (List.replicate 65 ⟨0, false, false, 0, false, false, false, false, false, true⟩), .decisionDeadline (List.replicate 65 ⟨0, false, false, 0, false, false, false, false, false, true⟩),
    .formationAgree ⟨0, 0, 0, 0, zeros 127⟩].map Instr.wf = [false, false, false, false] := by decide +kernel
theorem test_illformed_board : [Instr.vfFlr 0, .smbusDataWrite (zeros 33) true, .smbusDataRead 0, .norAccessRead 4, .norAccessWrite 0x800_0000 0, .norAccessErase 4].map Instr.wf = [false, false, false, false, false, false] := by decide +kernel
theorem test_wellformed : [Instr.refSourceValid 5, .barWrite 0 0 .bar2 0xE00 (zeros 512) false, .vfFlr 1, .smbusDataRead 32, .norAccessRead 8, .flitReceive .e (zeros 256) 0 false].map Instr.wf = [true, true, true, true, true, true] := by decide +kernel

/-! ### ReferenceSourcesLockFailOverAndExpire -/

/-- The sources of a module that has LOCAL and W valid, W locked. -/
def tideW : Tide := { Tide.init with refPri := 3, refSec := 0, srcOk := 9, refActive := 3, pllLock := true, st := .aligned }
theorem test_pll_locks_primary : (on chip0).live = true ∧ (on chip0).chip.tide.st = .locking ∧ (on chip0).chip.tide.valid 0 = true := by decide
theorem test_pll_locks_secondary : (withTide { Tide.init with refPri := 3, refSec := 0 }).chip.tide.valid 3 = false ∧
    (withTide { Tide.init with refPri := 3, refSec := 0 }).chip.tide.valid 0 = true := by decide
theorem test_ref_fails_over : tideW.pllLock = true ∧ ({ tideW with srcOk := tideW.srcOk &&& ~~~(BitVec.ofNat 6 8) } : Tide).pick = some 0 := by decide
theorem test_ref_holdover : ({ tideW with srcOk := 8 &&& ~~~(BitVec.ofNat 6 8) } : Tide).pick = none ∧ tideW.st = .aligned := by decide
theorem test_ref_other_lost : tideW.refActive ≠ 0 := by decide
theorem test_holdover_over : (Chip.up { chip0 with tide := { tideW with st := .holdover, acs := 8 * 2350000, holdSince := 0 } }) = 2350000 := by decide

/-! ### TimeExchangeMeasuresAHop -/

/-- The example of chapter 02: 15.4 ns and 8.6 ns are 927 and 517 fractions, the offset 205 and the delay 722. -/
theorem test_time_example : halfOf (exchange2 60163 61090 61390 61907).1 1 = 205 ∧ halfOf (exchange2 60163 61090 61390 61907).2 1 = 722 := by decide
theorem test_time_hop_due : Chip.hopRuns (withStr .x0 { Str.init with train := .up } { Tide.init with st := .aligned }).chip .x0 = true ∧
    ((withStr .x0 { Str.init with train := .up } { Tide.init with st := .aligned }).chip.tide.xch.get .x0).due ≤ 0 := by decide
/-- R47: with no ring of two or more a main strait makes no exchange, up as it may be. -/
theorem test_time_hop_alone : Chip.hopRuns (withStr .w { Str.init with train := .up } { Tide.init with st := .aligned }).chip .w = false := by decide
/-- R42: an offset that moves by 1,000 fractions in 10,000,000,000 is 0.1 ppm, which is allowed; half a fraction more is not. -/
theorem test_frequency : (freqExceeds 2001 10000000000, freqExceeds (-2001) 10000000000, freqExceeds 2000 10000000000) = (true, true, false) := by decide
/-- A TIME transaction in the VC-M buffer of strait W. -/
def timeIn (reply : Bool) (seq : W16) : State :=
  withRx .w 3 (timeBytes 1 reply seq 100 200 300) { Tide.init with st := .aligned, xch := (Tide.init.xch.set .w ⟨5, true, 0, 0, 0, 0, 0, 0, 0, false⟩) }
theorem test_time_request_arrives : (timeIn false 5).live = true ∧ ((timeIn false 5).chip.headRx .w 3 7 (fun k => decide (k % 2 = 0))).isSome = true ∧
    (((timeIn false 5).chip.str .w).rxM.all (fun r => txnBodyOk r.txn.bytes)) = true := by decide
theorem test_time_reply_arrives : ((timeIn true 5).chip.headRx .w 3 7 (fun k => decide (k % 2 = 1))).isSome = true ∧
    ((timeIn true 5).chip.tide.xch.get .w).waiting = true ∧ fld (wordAt (timeBytes 1 true 5 100 200 300) 8) 63 48 = 5 := by decide

/-! ### WaitFenceAndSignalIssue -/

theorem test_wait_issues : Issues waitIssue (· == 0x01) 0 (chipT (tileQ [cmd 1 [0, 3]])) (cmd 1 [0, 3]) := by unfold Issues; decide
theorem test_wait_held : (chipT (tileQ [cmd 1 [0, 0x500000003]])).readyHead 0 = some (cmd 1 [0, 0x500000003]) ∧
    (waitChecks (chipT (tileQ [])) 0 (cmd 1 [0, 0x500000003])).first (tileQ []) (cmd 1 [0, 0x500000003]) = none ∧
    waitMet (tileQ []) 800 (cmd 1 [0, 0x500000003]) = false := by decide
theorem test_fence_issues : Issues fenceIssue (· == 0x03) 0 (chipT (tileQ [cmd 3 [0, 0xF]])) (cmd 3 [0, 0xF]) := by unfold Issues; decide
theorem test_signal_add_issues : Issues signalIssue (· == 0x02) 0 (chipT (tileQ [cmd 2 [0, 5, 7]])) (cmd 2 [0, 5, 7]) := by unfold Issues; decide
theorem test_signal_set_issues : Issues signalIssue (· == 0x02) 0 (chipT (tileQ [cmd 2 [0, 0x40000005, 7]])) (cmd 2 [0, 0x40000005, 7]) := by
  unfold Issues; decide
theorem test_signal_tray_issues : Issues signalIssue (· == 0x02) 0 ({ chipT (tileQ [cmd 2 [0, 0x2003000000000005, 7]]) with
    tray := { TrayRegs.init with enable := true, valid := 8 } }) (cmd 2 [0, 0x2003000000000005, 7]) := by unfold Issues; decide
theorem test_signal_strait_issues : Issues signalIssue (· == 0x02) 0 (chipT (tileQ [cmd 2 [0, 0x8000000000000005, 7]]))
    (cmd 2 [0, 0x8000000000000005, 7]) := by unfold Issues; decide
theorem test_signal_adds : ((chipT (tileQ [])).syncLocal 0 0 2 0 5 (.add 7) 0).tiles.map (fun e => (e.2.sync 5).count) = [7] := by decide

/-! ### QueueFetchTakesTheNextCommand -/

theorem test_fetch_may : (chipT (tileQ [])).runsOn 0 = true ∧ (tileQ []).fetched < (tileQ []).streamLen ∧ (tileQ []).queue.length < 1024 := by decide
theorem test_fetch_full : 1024 ≤ (tileQ (List.replicate 1024 (cmd 1 []))).queue.length := by
  show 1024 ≤ (List.replicate 1024 (cmd 1 [])).length
  simp only [List.length_replicate]; exact Nat.le_refl _

theorem test_fetch_granted : ({ tileQ [] with fetchGot := true } : Tile).fetchGot = true ∧ (tileQ []).fetchGot = false ∧ ({ tileQ [] with fetchGot := true } : Tile).st = .running := by decide

/-! ### MatrixCommandsEnterTheArrayQueues -/

/-- Handle 0: a linear scratchpad buffer of 64 KiB. -/
def hnd0 : Tbl (W64 × W64) := [(0, (0x4000000000000000, 0x10000))]
/-- One FP8 vector for array 0; and 16 weight rows for array 0. -/
def mm1 : QCmd := cmd 0x10 [0, 0x0000001000000000, 0x0000010100000000, 0]
def lw1 : QCmd := cmd 0x11 [0, 0x0000001000000000, 0x0000000100000000, 0]
theorem test_matmul_issues : Issues matmulIssue (· == 0x10) 0 (chipT { tileQ [mm1] with handles := hnd0 }) mm1 := by unfold Issues; decide
theorem test_loadw_issues : Issues loadwIssue (· == 0x11) 0 (chipT { tileQ [lw1] with handles := hnd0 }) lw1 := by unfold Issues; decide
theorem test_swapw_issues : Issues swapwIssue (· == 0x12) 0 (chipT (tileQ [cmd 0x12 [0, 1]])) (cmd 0x12 [0, 1]) := by unfold Issues; decide
theorem test_gang_issues : Issues gangIssue (· == 0x13) 0 (chipT (tileQ [cmd 0x13 [0, 0x101]])) (cmd 0x13 [0, 0x101]) := by unfold Issues; decide
/-- FP8 with INT8 is no pair of R128: cause 0x04. -/
theorem test_matmul_bad_pair : (matmulChecks (chipT { tileQ [] with handles := hnd0 }) 0 (cmd 0x10 [0, 0x0000001000000000, 0x0000010100000000, 5])).first
    (tileQ []) (cmd 0x10 [0, 0x0000001000000000, 0x0000010100000000, 5]) = some 0x04 := by decide

/-! ### ArrayQueueHeadsBeginAndTakeEffect -/

/-- A MATMUL and a SWAPW at the head of array 0's queue, a plane that is valid, and a GANG in all four. -/
def mc (q : QCmd) (b : Bool) : MCmd := { newMCmd q 1 0 0 with begun := b }
def validPlane : Plane := { Plane.init with valid := true }
def tileM (q : QCmd) (b : Bool) (p : Plane) : Tile := { tileQ [] with a0 := { Arr.init with p0 := p, queue := [mc q b] } }
theorem test_matmul_heads : queueNext 800 [] ((tileM mm1 false validPlane).arr 0).queue = some (mc mm1 false) ∧ (mc mm1 false).cmd.op = 0x10 ∧
    (mc mm1 false).together 0 = [0] ∧ (tileM mm1 false validPlane).planeCause (mc mm1 false) 0 = none := by decide
theorem test_matmul_plane_invalid : ((tileM mm1 false Plane.init).arr 0).queue.length = 1 ∧
    (((tileM mm1 false Plane.init).arr 0).plane ((tileM mm1 false Plane.init).arr 0).active).valid = false := by decide
theorem test_swapw_effective : ((tileM (cmd 0x12 [0, 1]) true validPlane).arr 0).queue.find? (fun y => y.cmd.op = 0x12) = some (mc (cmd 0x12 [0, 1]) true) := by decide
theorem test_gang_effective : ∀ qs ∈ ((tileQ []).enqueue (cmd 0x13 [0, 0x103]) 15 0).queues, qs.head?.map (fun y => y.cmd.op) = some 0x13 := by decide
theorem test_gang_bits : bit ((cmd 0x13 [0, 0x103]).w 2) 8 = true ∧ bit ((cmd 0x13 [0, 0x3]).w 2) 8 = false ∧ fld ((cmd 0x13 [0, 0x103]).w 2) 2 0 = 3 := by decide
theorem test_loadw_due : lw1.lwMode = 0 ∧ lw1.lwFmt ≠ 6 ∧ lw1.lwReads = 16 ∧
    ((tileM lw1 true Plane.init).arr 0).queue.find? (fun y => y.cmd.op = 0x11) = some (mc lw1 true) ∧ (chipT (tileQ [])).nowAc = 800 := by decide

/-! ### OutputRowsAreWrittenAndChecked -/

/-- A MATMUL of two FP8 vectors with one vector of ones read, and a plane of zero weights. -/
def mm2 : QCmd := cmd 0x10 [0, 0x0000001000000000, 0x0000010200000000, 0]
def mcFed : MCmd := { newMCmd mm2 1 0 0 with begun := true, fed := 1, feeds := [⟨700, List.replicate 16 0x38, 0, false⟩] }
def tileFed : Tile := { tileQ [] with a0 := { Arr.init with p0 := { validPlane with wts := List.replicate 16 (List.replicate 16 0x38) }, queue := [mcFed] } }
theorem test_row_due : (tileFed.arr 0).queue.find? (fun y => y.cmd.op = 0x10 && !y.feeds.isEmpty) = some mcFed ∧ mcFed.together 0 = [0] ∧
    ((tileFed.arr 0).plane mcFed.plane).fmt.toNat = mm2.mmWfmt ∧ mcFed.done + 1 < mm2.mmLen ∧ 700 + modeLatency 0 ≤ (chipT tileFed).nowAc := by decide
/-- Sixteen products of ones sum to 16.0, and the check passes. -/
theorem test_row_value : ((vectorOut tileFed mcFed 0 ⟨700, List.replicate 16 0x38, 0, false⟩ .clean).bufs.map (fun o => (o.buf, (o.vals.map to32).headD 0))) = [(0, 0x41800000)] := by decide
theorem test_row_check_passes : (vectorOut tileFed mcFed 0 ⟨700, List.replicate 16 0x38, 0, false⟩ .clean).bufs.map (fun o => o.bad) = [none] ∧
    (vectorOut tileFed mcFed 0 ⟨700, List.replicate 16 0x38, 0, false⟩ .clean).skips = 0 := by decide
/-- A column sum of 20.0 in place of 16.0 fails it. -/
theorem test_row_check_fails : (vectorOut tileFed mcFed 0 ⟨700, List.replicate 16 0x38, 0, false⟩ (.column 3 0x41A00000)).bufs.map (fun o => o.bad) = [some 0] := by decide

/-! ### CurrentControlRampsInOrder -/

/-- R142: a vector that would reach buffer 1 in an ac in which VEC.CVT reads its operand there enters one ac later. -/
def bubbleTile : Tile :=
  let v : QCmd := ⟨[mkWord [(56, 8, 0x26)], 0, mkWord [(30, 2, 1), (20, 6, 1)], 0, 0, mkWord [(0, 18, 64)], 0, 0], 0, false, false⟩
  let q : QCmd := ⟨[mkWord [(56, 8, 0x10)], 0, 0, mkWord [(40, 4, 2), (32, 8, 5)], 0, 0, 0, 0], 1, false, false⟩
  let m : MCmd := { newMCmd q 2 0 0 with begun := true, feeds := [⟨95, [], 0, false⟩], dueAc := 91, lastAc := 90, fed := 2 }
  { Tile.init with warm := .warm, a1 := { Arr.init with queue := [m] }, vec := some ⟨v, 113, [], []⟩ }
theorem test_port_bubble : (bubbleTile.enterAc 1 95).cnt.bubble = 1 ∧
    (bubbleTile.enterAc 1 95).a1.queue.map (fun m => m.feeds.map (fun f => f.at_)) = [[96]] ∧
    (bubbleTile.enterAc 1 94).cnt.bubble = 0 := by decide

theorem test_ramp_up : ({ tileQ [] with warm := .rampUp, warmAc := 700 } : Tile).rampEnd = 732 ∧ (chipT (tileQ [])).nowAc = 800 := by decide
theorem test_ramp_down : ({ tileQ [] with warm := .rampDown, warmAc := 700 } : Tile).levelNow 728 = 0 ∧
    ({ tileQ [] with warm := .warm, lastUse := 700 } : Tile).queues.all (fun q => q.isEmpty) = true := by decide

/-! ### VectorCommandsTakeTheUnitForTheirCycles -/

/-- A vector command: flags, A, B, D, AUX, LENGTH and S as words. -/
def vcmd (op flags a b d aux len s : Nat) : QCmd := ⟨[mkWord [(56, 8, op), (48, 4, flags)], 0, BitVec.ofNat 64 a, BitVec.ofNat 64 b, BitVec.ofNat 64 d,
  mkWord [(24, 8, aux), (0, 18, len)], BitVec.ofNat 64 s, 0], 0, false, false⟩
/-- FP32 operands at offset 0, 4,096 and 8,192 of handle 0; an unused operand. -/
def vA : Nat := 0x1C000000
def vB : Nat := 0x1C001000
def vD : Nat := 0x1C002000
def vNo : Nat := 0x80000000
def chipV (q : QCmd) : Chip := chipT { tileQ [q] with handles := hnd0 }
theorem test_vec_two : ∀ p ∈ ([(0x20, vecZip fadd), (0x21, vecZip fsub), (0x22, vecZip fmul), (0x23, vecFmaOut), (0x24, vecZip fmax), (0x25, vecZip fmin)] :
    List (Nat × (Chip → Nat → QCmd → Chip × List VOut))), Issues (vecIssue p.2) (· == p.1) 0 (chipV (vcmd p.1 0 vA vB vD 0 2 vNo)) (vcmd p.1 0 vA vB vD 0 2 vNo) := by
  unfold Issues; decide
theorem test_vec_one : ∀ p ∈ ([(0x26, vecMap id), (0x28, vecMap exp2), (0x29, vecMap log2), (0x2A, vecMap rcp), (0x2B, vecMap rsqrt), (0x30, vecReduce rsum),
    (0x31, vecReduce rmax), (0x33, vecNormstatOut)] : List (Nat × (Chip → Nat → QCmd → Chip × List VOut))),
    Issues (vecIssue p.2) (· == p.1) 0 (chipV (vcmd p.1 0 vA vNo vD 0 2 vNo)) (vcmd p.1 0 vA vNo vD 0 2 vNo) := by
  unfold Issues; decide
theorem test_vec_smstep : Issues (vecIssue vecSmstepOut) (· == 0x32) 0 (chipV (vcmd 0x32 0 vA vB vD 0 2 vNo)) (vcmd 0x32 0 vA vB vD 0 2 vNo) := by unfold Issues; decide
theorem test_vec_quant : Issues (vecIssue vecQuantOut) (· == 0x34) 0 (chipV (vcmd 0x34 0 vA vNo 0x00002000 1 32 0x3000)) (vcmd 0x34 0 vA vNo 0x00002000 1 32 0x3000) := by
  unfold Issues; decide
theorem test_vec_dequant : Issues (vecIssue vecDequantOut) (· == 0x35) 0 (chipV (vcmd 0x35 0 0 vNo vD 1 32 0x3000)) (vcmd 0x35 0 0 vNo vD 1 32 0x3000) := by
  unfold Issues; decide
theorem test_vec_topk : Issues (vecIssue vecTopkOut) (· == 0x36) 0 (chipV (vcmd 0x36 0 vA 0x20001000 vD 1 2 vNo)) (vcmd 0x36 0 vA 0x20001000 vD 1 2 vNo) := by
  unfold Issues; decide
theorem test_vec_undefined : (chipV (cmd 0x27 [])).readyHead 0 = some (cmd 0x27 []) := by decide
/-- 1.0 + 2.0 = 3.0; −0 + +0 = +0; max(+0, −0) = +0; 2^3 = 8.0; log2 8.0 = 3.0. -/
theorem test_vec_values : [fadd (of32 0x3F800000) (of32 0x40000000), fadd (of32 0x80000000) (of32 0), fmax (of32 0) (of32 0x80000000), exp2 (of32 0x40400000),
    log2 (of32 0x41000000)].map to32 = [0x40400000, 0, 0, 0x41000000, 0x40400000] := by decide
/-- 1.0 in a block with amax 1.0 to E4M3: the scale byte 119 (2^−8), the element 256. -/
theorem test_vec_quant_block : ((quantBlock false 0 [of32 0x3F800000]).1.map to32, (quantBlock false 0 [of32 0x3F800000]).2) = ([0x43800000], 119) := by decide
/-- The largest first, the lower index first among equals, NaN last. -/
theorem test_vec_topk_order : topk 4 [of32 0x3F800000, .nan, of32 0x40000000, of32 0x3F800000] = [2, 0, 3, 1] := by decide

/-! ### TransfersIssueIntoTheirStreams -/

/-- A DMA of one granule within handle 0, opening stream 0; a DMA2D of one row; and a FERRY_PULL of a live berth. -/
def dma1 : QCmd := ⟨[mkWord [(56, 8, 0x40), (48, 1, 1)], 0, 0, 0x1000, 2, 0x3F03F, 0, 0], 0, false, false⟩
def dma2d1 : QCmd := ⟨[mkWord [(56, 8, 0x41), (48, 1, 1)], 0, 0, 0x1000, 2, 0x3F03F, 0x4000000040, 1], 0, false, false⟩
def pull1 : QCmd := ⟨[mkWord [(56, 8, 0x42), (48, 1, 1)], 0, 0x8000000000000000, 0x1000, 2, 0x3F03F, 0, 0], 0, false, false⟩
def berth1 : Berth := { west := false, own := false, base := lpBase + 0x2000, size := 0x40, stride := 0x40, first := 0, flen := 1, count := 1, cur := 0, st := .live, got := [0], reads := [] }
def chipD (q : QCmd) (k : Stream) : Chip :=
  { chip0 with tide := tide100, runs := [{ run0 with berths := [berth1] }], tiles := [(0, { tileQ [q] with handles := hnd0, streams := [(0, k)] })] }
def heldX : Xfer := { (chipT (tileQ [])).newXfer { dma1 with idx := 9 } with moved := 0 }
theorem test_dma_issues : Issues xferIssue (· == 0x40) 0 (chipD dma1 Stream.init) dma1 := by unfold Issues; decide
theorem test_dma2d_issues : Issues xferIssue (· == 0x41) 0 (chipD dma2d1 Stream.init) dma2d1 := by unfold Issues; decide
theorem test_pull_issues : Issues xferIssue (· == 0x42) 0 (chipD pull1 Stream.init) pull1 := by unfold Issues; decide
/-- The next granule merges into the transfer held; another destination waits. -/
def dmaNext (o : Nat) : QCmd := ⟨[mkWord [(56, 8, 0x40)], 0, 0x40, BitVec.ofNat 64 o, 2, 0x3F03F, 0, 0], 1, false, false⟩
theorem test_dma_merges : mergeOk heldX (dmaNext 0x1040) none 1 = true ∧ mergeOk heldX (dmaNext 0x1080) none 1 = false := by decide
theorem test_dma_behind : Issues xferIssue (· == 0x40) 0 (chipD (dmaNext 0x1040) { Stream.init with opened := true, active := some heldX }) (dmaNext 0x1040) := by
  unfold Issues; decide

/-! ### TransfersAreCheckedServedAndCompleted -/

def xferOn (x : Xfer) (k : Bool) : Chip :=
  chipD (cmd 0 []) { Stream.init with opened := true, active := some x, space := some (spdBase + 0x1000, 64), checking := k }
def lpX : Xfer := { heldX with cmd := { dma1 with words := [mkWord [(56, 8, 0x40)], 0, 0x20000000000, 0x1000, 2, 0x3F03F, 0, 0] }, activeAc := 700, readyAc := 700 }
theorem test_check_clear : (xferOn heldX true).spaceClash 0 0 (spdBase + 0x1000) 64 false 800 = false ∧ heldX.readyAc = 800 ∧ (xferOn heldX true).nowAc = 800 := by decide
theorem test_check_clash : (xferOn heldX true).spaceClash 0 0 (lpBase + 0x2000) 64 false 800 = true := by decide
/-- A transfer from LPDDR5X to scratchpad is served by its channel, and nothing else is asked for there. -/
def chipL : Chip := { chipD (cmd 0 []) { Stream.init with opened := true, active := some lpX } with
  tiles := [(0, { tileQ [] with handles := [(0, (0x4000000000000000, 0x10000)), (1, (BitVec.ofNat 64 (2 ^ 63 + lpBase), 0x10000))], streams := [(0, { Stream.init with opened := true, active := some lpX })] })] }
theorem test_slot_serves : chipL.shut 0 = false ∧ (arbitrate (chipL.chanReqs 0) 0).1.isSome = true := by decide

/-! ### FerriesQueueInjectAndReadTheirSource -/

/-- A push of one granule of handle 0 eastwards at launch offset 90, no gate. -/
def push1 : QCmd := ⟨[mkWord [(56, 8, 0x43)], 0, 0, 0, 2, 0x3F03F, 1, mkWord [(32, 32, 90), (12, 6, 63), (0, 6, 63)]], 0, false, false⟩
def upStr : Str := { Str.init with train := .up, pver := 1, credit := ⟨64, 64, 64, 8⟩ }
def chipP (n : Nat) : Chip := { chipT { tileQ [push1] with handles := hnd0 } with
  pushes := chip0.pushes.set .e [⟨0, 0, { push1 with words := push1.words.take 7 ++ [mkWord [(32, 32, n), (12, 6, 63), (0, 6, 63)]] }, 0, false, false, false, false, [], []⟩],
  strs := chip0.strs.set .e upStr }
theorem test_push_issues : Issues pushIssue (· == 0x43) 0 (chipT { tileQ [push1] with handles := hnd0 }) push1 := by unfold Issues; decide
theorem test_inject_due : ((chipP 90).pushQ .e).length = 1 ∧ (chipP 90).mark 90 = 100 ∧ (chipP 90).now = 100 ∧ (chipP 90).cutHolds 100 = false ∧
    (((chipP 90).pushQ .e).all (fun p => (chipP 90).gateOpen p && (chipP 90).pushReady p)) = true ∧ ((chipP 90).str .e).mayStart = true ∧
    ((chipP 90).str .e).egrF = [] ∧ flitsOf (32 + push1.lenG * 32) = 1 := by decide
theorem test_inject_early : (chipP 91).now < (chipP 91).mark 91 := by decide
theorem test_inject_order : (pushInsert ⟨1, 0, push1, 0, false, false, false, false, [], []⟩ ((chipP 91).pushQ .e)).map (fun p => p.num) = [1, 0] := by decide
theorem test_source_read : ((chipP 90).pushQ .e).all (fun p => !p.read && (chipP 90).pushReady p && !p.cmd.tee && p.cmd.doneSyncNo == 63) = true := by decide

/-! ### EgressSendsRepeatsNullsThenTheBestHead -/

/-- A FERRY of one granule at the head of VC-F, with and without credits; nothing else. -/
def fTxn (d : Option Nat) : TxTxn := ⟨⟨List.replicate 96 0, []⟩, d, .plain, 0, 0⟩
theorem test_pick : ({ upStr with egrF := [fTxn none] } : Str).pickVc (fun _ => 0) = (some (0, fTxn none), 0) ∧ upStr.pickVc (fun _ => 0) = (none, 0) ∧
    ({ upStr with egrF := [fTxn none], egrW := [fTxn (some 9)], schedRun := 3 } : Str).pickVc (fun _ => 0) = (some (1, fTxn (some 9)), 4) ∧
    ({ upStr with egrF := [fTxn none], egrW := [fTxn (some 9)], schedRun := 15 } : Str).pickVc (fun _ => 0) = (some (0, fTxn none), 0) := by decide
theorem test_ready_m : ({ upStr with egrM := [fTxn none], slotNo := 0 } : Str).readyM = some (fTxn none) ∧ upStr.readyM = none ∧ upStr.resend = [] ∧
    upStr.nullNo < 1984 := by decide

/-- A strait in ALIGN sends a null flit in its slot, and one that is up in the slot after 15 scheduled heads the unscheduled one. -/
def alignStr : Str := { Str.init with train := .align, slotNo := 5 }
theorem test_egress_states : (alignStr.train = .align ∧ alignStr.resend = [] ∧ alignStr.replay.length < 64 ∧ alignStr.slotNo ≠ 0) ∧ (upStr.train = .up ∧ upStr.readyM = none) ∧
    ((egressServiceSlot .e 0 { chip0 with strs := chip0.strs.set .e alignStr }).str .e).slotNo = 4 := by decide +kernel
theorem test_egress_forms : ((({ chip0 with strs := chip0.strs.set .e { upStr with slotNo := 5, egrF := [fTxn none] } } : Chip).formRwrite .e).str .e).pickVc
    ((({ chip0 with strs := chip0.strs.set .e { upStr with slotNo := 5, egrF := [fTxn none] } } : Chip).formRwrite .e).txTile .e) = (some (0, fTxn none), 0) := by decide +kernel

/-! ### AttentionRequestsRunToTheirRecords -/

/-- One BF16 query head over one page, with every operand in handle 0; its list entry names 5 tokens of the page at lpBase. -/
def attn1 : QCmd := ⟨[mkWord [(56, 8, 0x50)], 0, 0, 0x1000, 0x3F800000, 0x3F03F, 0x2000, 0], 0, false, false⟩
def ent1 : W64 := mkWord [(54, 5, 4), (16, 32, lpBase / 0x1_0000)]
theorem test_attn_issues : Issues attnIssue (· == 0x50) 0 (chipT { tileQ [attn1] with handles := hnd0 }) attn1 := by unfold Issues; decide
def areq : AttnReq := { num := 0, tile := 0, cmdId := 0, cmd := some attn1, from_ := none, slot := 0, params := attn1.w 4, dstSync := 63, dst := 0, deadline := none, born := 0, admitted := false, query := [], qPoison := [], chans := [], recs := [], landed := 0 }
def sub1 : SubReq := ⟨0, none, [ent1], 0, 0, [], 0, [headInit], false, true⟩
def chipA : Chip := { chipT { tileQ [] with handles := hnd0, attns := [⟨attn1, 0, 100, none, some 1, 1⟩] } with disp := { chip0.disp with reqs := [areq], nextNum := 1 } }
theorem test_admit_first : (firstReq (chipA.disp.reqs.filter chipA.canAdmit)).map (fun r => r.num) = some 0 ∧ areq.away = none ∧ entBad 0 ent1 = false ∧
    entBad 0 (ent1 + 1) = true ∧ listChans [ent1] = [chanOf lpBase] := by decide
theorem test_admit_page : chipA.pageOk ent1 = false ∧
    ({ chipA with ctxs := [(run0.ctx, { chipA.ctx run0.ctx with maps := [(lpBase, 0x1_0000)] })] } : Chip).pageOk ent1 = true := by decide
theorem test_block_due : (({ chipA with engines := [(0, { (chipA.engine 0) with subs := [sub1] })] } : Chip).engineHead 0).map (fun p => p.1.entries) = some [ent1] ∧
    chipA.shut 0 = false ∧ min 16 (entTokens ent1 - 0) = 5 ∧ entCoded ent1 = 0 := by decide
theorem test_attn_complete : (chipA.tile 0).attns.any (fun a => a.want == some a.recs) = true := by decide
/-- One key equal to the query's head of ones, ALPHA 1: the score is 128 and the sum 1. -/
theorem test_attn_block : (let h := headBlock (.fin false 1 0) (List.replicate 128 (.fin false 1 0)) [List.replicate 128 (.fin false 1 0)] [List.replicate 128 (.fin false 3 0)] headInit
    (h.m, h.l, h.o.headD 0)) = (0x43000000, 0x3F800000, 0x40400000) := by decide

/-! ### MarksDumpsAndSealsRecordWhatTheySay -/

def mark1 : QCmd := cmd 0x58 [0, 7]
/-- A DUMP of 64 B of handle 0 as INPUT, and as a SEAL whose record goes to module memory. -/
def dumpQ (k : Nat) : QCmd := ⟨[mkWord [(56, 8, 0x59)], 0, 0, 64, mkWord [(62, 2, k), (41, 6, k)], 63, 0, 0], 0, false, false⟩
def hnd01 : Tbl (W64 × W64) := [(0, (0x4000000000000000, 0x10000)), (1, (BitVec.ofNat 64 (2 ^ 63 + lpBase), 0x10000))]
def powered (x : Tile) : Tile := { x with spd := { x.spd with powered := 0xFF } }
theorem test_mark_issues : Issues markIssue (· == 0x58) 0 (chipT (tileQ [mark1])) mark1 := by unfold Issues; decide
theorem test_dump_input : Issues dumpIssue (· == 0x59) 0 (chipT (powered { tileQ [dumpQ 0] with handles := hnd01 })) (dumpQ 0) ∧ (dumpQ 0).dumpKind = 0 := by
  unfold Issues; decide
theorem test_dump_seal : Issues dumpIssue (· == 0x59) 0 (chipT (powered { tileQ [dumpQ 1] with handles := hnd01 })) (dumpQ 1) ∧ (dumpQ 1).dumpKind = 1 ∧
    ((chipT (powered { tileQ [dumpQ 1] with handles := hnd01 })).recGrans 0 (dumpQ 1)).isEmpty = true := by unfold Issues; decide
theorem test_dump_reads : (chipT (powered { tileQ [] with handles := hnd01 })).reachable (lpBase + 64) 576 = true ∧
    (chipT (powered { tileQ [] with handles := hnd01 })).reachable spdBase 64 = true := by decide
/-- A WAIT that is due since count 100 has passed its limit 235,000 tk later, and not before. -/
def chipW (n : Nat) : Chip := { chipT (tileQ [cmd 1 [0, 0x500000003]]) with tide := { tide100 with count := BitVec.ofNat 64 (10 + n), acs := 8 * n } }
theorem test_stall : (chipW 235000).stallOf 0 = some (5, cmd 1 [0, 0x500000003], 10) ∧ (chipW 1000).stallOf 0 = none := by decide

/-! ### WatchesFireAndHarvestsAreStored -/

theorem test_harvest_slot : chip0.harvestSlot = some 0 ∧
    ({ chip0 with harvests := (List.range 16).map (fun n => (n, ⟨0, 0, 0, [], false⟩)) } : Chip).harvestSlot = none ∧
    ({ chip0 with harvests := (List.range 16).map (fun n => (n, ⟨0, 0, BitVec.ofNat 64 (20 - n), [], n == 3 || n == 5⟩)) } : Chip).harvestSlot = some 5 := by decide
theorem test_watch_done : (chipT { tileQ [] with idx := 3 }).runsOn 0 = true ∧ ({ tileQ [] with idx := 3 } : Tile).cmdDone 2 [] = true ∧
    ({ tileQ [] with idx := 3 } : Tile).cmdDone 3 [] = false := by decide

/-! ### PanRecordsTriggersAndWraps -/

def panOn (m : BitVec 2) : Chip := { chip0 with tide := tide100, pan := { chip0.pan with st := .armed, mode := m } }
theorem test_pan_live : (panOn 1).pan.live = true ∧ chip0.pan.live = false := by decide
theorem test_pan_accepts : (let r : TRec := ⟨1, 2, 3, 4⟩
    (({ panOn 1 with pan := { (panOn 1).pan with bufs := [⟨0, [r, r, r], 0, 0⟩] } } : Chip).panAccept.panAccept).pan.recs.length) = 2 := by decide

/-! ### RefreshGoesByTheGridOrByBank -/

def gridChip (n : Nat) : Chip := { chip0 with tide := { tide100 with count := BitVec.ofNat 64 n, acs := 8 * n }, boot := { chip0.boot with set := { chip0.boot.set with refreshAlign := true } } }
theorem test_grid : (gridChip 7328).onGrid = true ∧ (gridChip 7328).gridNow % ((gridChip 7328).gridP : Int) = 0 ∧ (gridChip 100).gridNow % ((gridChip 100).gridP : Int) ≠ 0 := by decide
def chanOn (x : Chan) : Chip := { chip0 with chans := tblPut Chan.init chip0.chans 5 { x with st := 2 } }
theorem test_off_grid : (chanOn Chan.init).onGrid = false ∧ ((chanOn Chan.init).chan 5).st = 2 ∧ ((chanOn Chan.init).chanReqs 5).any (fun r => r.ddl.isSome) = false := by decide
theorem test_added : ({ gridChip 100 with chans := (chanOn { Chan.init with hotAt := some 3 }).chans } : Chip).shut 5 = false ∧
    (({ gridChip 100 with chans := (chanOn { Chan.init with hotAt := some 3 }).chans } : Chip).chan 5).hotAt.isSome = true := by decide

theorem test_rfm : ((refreshRatePoll 5 3 (.rfm true) (chanOn Chan.init)).chan 5).rfm = some true ∧ ((refreshWindow (refreshRatePoll 5 3 (.rfm true) (gridChip 0))).chan 5).rfm = none ∧
    ((refreshRatePoll 5 3 .twice (chanOn { Chan.init with polledAt := some 0 })).chan 5).derate = false := by decide +kernel

/-! ### MaintenanceWritesBackScrubsAndRechecks -/

theorem test_window_due : (let x := { Chan.init with inWindow := true, windowAt := 10 }
    x.inWindow && !x.maintDone && decide (x.windowAt + 384 ≤ 400) && decide (400 < x.windowAt + 448)) = true := by decide
theorem test_period_due : (chanOn Chan.init).onGrid = false ∧ (chanOn Chan.init).now % 3664 = 0 := by decide

/-! ### SyncObjectsActByTheTable -/

theorem test_sync_modes : [syncNext 1 5 (.count 64 1), syncNext 2 5 (.count 64 1), syncNext 0 5 (.count 64 1), syncNext 3 5 (.add 9), syncNext 0 0xFFFFFFFF (.add 2), syncNext 0 5 (.set 9),
    syncNext 1 5 (.add 1), syncNext 3 5 (.set 9)] = [some 69, some 6, none, some 6, some 1, some 9, none, none] := by decide
/-- R359: a tray word and a tile's own ADD in one ac, in either order of arrival, end with the tray's SET, and a WAIT sees the value before them. -/
theorem test_sync_rank : (let a : SyncArr := ⟨0, .add 7, 0, 0⟩
    let b : SyncArr := ⟨rankOuter, .set 3, 2, 2⟩
    let x : Sync := Sync.of 0 5
    (((x.take 8 a).take 8 b).count, ((x.take 8 b).take 8 a).count, (((x.take 8 b).take 8 a).seen 8).1, (((x.take 8 b).take 8 a).seen 9).1)) = (3, 3, 5, 3) := by decide
/-- The example of R357. -/
theorem test_reached : reached 0x00000010 0xFFFFFFF0 = true ∧ reached 0xFFFFFFEF 0xFFFFFFF0 = false := by decide
theorem test_port_words : [portUpd 5, portUpd 0x4000000000000005, portUpd 0x8000000300000005, portUpd 0xC000000000000005, portUpd 0x0000000300000005, portUpd 0x0001000000000005] =
    [some (.add 5), some (.set 5), some (.count 5 3), none, none, none] := by decide

/-! ### SyncPortWritesUpdateOrViolate -/

theorem test_port_host : (chipT (tileQ [])).runsOn 0 = true ∧ (chipT (tileQ [])).runCtx = 1 ∧ ((chipT (tileQ [])).ctx 1).frozen = false ∧
    ((chipT (tileQ [])).syncApply rankOuter 0 5 (.add 7) 2 2).isSome = true ∧ (chipT (tileQ [])).runsOn 1 = false := by decide
def chipX : Chip := { chipT (tileQ []) with runs := [{ run0 with exports := [{ tray := true, x1 := false, x0 := false, w := false, e := false, attn := false, accum := false, write := true, read := false, base := 0x6000_0000, size := 0x200}] }] }
theorem test_port_tray : chipX.maySync (fun x => x.tray) 0 5 (.add 7) = true ∧ chipX.tray.frozen.getLsbD 3 = false := by decide

theorem test_port_completes : (((chipT (tileQ [])).tile 0).sync 5).mode = 0 ∧ (chipX.run.map (fun r => r.tiles)) = some [0] ∧ chipX.tray.valid.getLsbD 3 = false ∧
    ((portWrite (.host 1) 0 5 7 (chipT (tileQ []))).tile 0).sync 5 = (Sync.init.take 800 ⟨rankOuter, .add 7, 2, 2⟩) := by decide

/-! ### HostAndTrayAccessesLandOrViolate -/

/-- A host link in service and a booted module in which ctx 1 has a region at lpBase. -/
def chipH : Chip := { chipT (tileQ []) with keeper := { chip0.keeper with state := .running }, regions := [⟨0, 1, lpBase, 0x40_0000, false, 0, 0⟩] }
def linkUp : Pcie := { State.reset.pcie with barsSet := true, perst := false, vfEnable := true }
def hostOn (c : Chip) : State := { on c with pcie := linkUp }
theorem test_host_link : (hostOn chipH).live = true ∧ linkUp.carries 1 = true ∧ linkUp.d3.getLsbD 1 = false ∧ chipH.trayRid 1 0x0100 = none ∧ chipH.booted = true ∧
    (chipH.ctx 1).frozen = false := by decide
theorem test_host_reach : chipH.hostReach 1 (lpBase + 0x10_0000) 64 = true ∧ chipH.hitsImage (lpBase + 0x10_0000) 64 = false ∧ chipH.hitsImage lpBase 64 = true ∧
    chipH.hostReach 1 (lpBase + 0x40_0000) 64 = false ∧ inPorts (lpBase + 64) = false := by decide
def chipTr : Chip := { chipX with keeper := chipH.keeper, tray := { TrayRegs.init with enable := true, valid := 8 }, runs := [{ run0 with exports := [{ tray := true, x1 := false, x0 := false, w := false, e := false, attn := false, accum := false, write := true, read := true, base := lpBase + 0x10_0000, size := 0x1_0000}] }] }
theorem test_tray_export : chipTr.booted = true ∧ chipTr.tray.valid.getLsbD 3 = true ∧ chipTr.run.isSome = true ∧
    (chipTr.run.all (fun r => r.mayWrite (fun x => x.tray) false (lpBase + 0x10_0000) 64 && !r.mayWrite (fun x => x.tray) false lpBase 64)) = true := by decide

/-! ### MailboxIndexWritesAreCheckedAndRequestsRead -/

/-- A mailbox of ctx 0 whose ring holds one dev.query with LENGTH n, the Keeper running. -/
def mbx (n : Nat) (fr : Bool) : Chip := { chip0 with keeper := { chip0.keeper with state := .running }, ctxs := [(0, { Ctx.init with reqTail := 1, frozen := fr, opened := fr, page := [(2, BitVec.ofNat 8 n), (3, BitVec.ofNat 8 (n / 256)), (7, 1)] })] }
theorem test_index_bounds : ((64 : W32) - ((mbx 0 false).ctx 0).reqHead).toNat ≤ 64 ∧ (mbx 0 false).pageOpen 0 = true ∧ chip0.pageOpen 0 = false ∧ chip0.pageOpen 16 = true := by decide
theorem test_request_read : (mbx 0 false).canRead 0 = true ∧ (mbx 0 false).inTurn 0 = true ∧ (mbx 0 false).canRead 1 = false ∧
    ((mbx 0 false).nextReq 0).1.opcode = 0x0100 ∧ ((mbx 0 false).nextReq 0).2 = (1, false, false) ∧
    (mbx 0 false).refusal 0 ((mbx 0 false).nextReq 0).1 false = none := by decide
theorem test_request_too_long : (mbx 4033 false).canRead 0 = true ∧ ((mbx 4033 false).nextReq 0).2.2.1 = true ∧ ((mbx 4032 false).nextReq 0).2.2.1 = false := by decide
/-- Step 2 comes before step 4, step 6 stops a frozen context, step 7 names the word. -/
theorem test_refusals : [(mbx 0 false).refusal 0 ⟨0x0999, 5, 0, 0, 0, 0, []⟩ false, (mbx 0 false).refusal 0 ⟨0x0200, 0, 0, 8, 0, 0, [4, 0, 0, 0, 0, 0, 0, 0]⟩ false,
    (mbx 0 true).refusal 0 ⟨0x0600, 0, 0, 0, 0, 0, []⟩ false, (mbx 0 false).refusal 0 ⟨0x0600, 0, 0, 0, 0, 0, []⟩ false] =
    [some (stBadArg, 0xFFFF), some (stBadArg, 0), some (stFrozen, 0xFFFF), some (stNotPermitted, 0xFFFF)] := by decide

/-! ### DeviceAndContextCommandsAnswer -/

/-- A module whose Keeper runs, with a request in hand at ctx 0, the context open or not. -/
def reqOf (op : Nat) (ws : List W64) : Req := ⟨BitVec.ofNat 16 op, 0, 0, 8 * ws.length, 0, 0, wordsBytes ws⟩
def inHand (q : Req) (o : Bool) : Chip := { chip0 with keeper := { chip0.keeper with state := .running }, boot := { chip0.boot with memOk := true }, ctxs := [(0, { Ctx.init with cur := some q, opened := o })] }
theorem test_requested : Requested (inHand (reqOf 0x0100 []) true) 0 0x0100 (reqOf 0x0100 []) ∧ Requested (inHand (reqOf 0x0101 []) true) 0 0x0101 (reqOf 0x0101 []) ∧
    Requested (inHand (reqOf 0x0200 [1]) false) 0 0x0200 (reqOf 0x0200 [1]) ∧ Requested (inHand (reqOf 0x0201 [0]) true) 0 0x0201 (reqOf 0x0201 [0]) ∧
    Requested (inHand (reqOf 0x0202 [5]) true) 0 0x0202 (reqOf 0x0202 [5]) := by
  exact ⟨⟨rfl, rfl, rfl⟩, ⟨rfl, rfl, rfl⟩, ⟨rfl, rfl, rfl⟩, ⟨rfl, rfl, rfl⟩, rfl, rfl, rfl⟩
theorem test_unfreeze : ((({ inHand (reqOf 0x0202 [5]) true with tiles := [(5, { Tile.init with st := .frozen })] } : Chip).onReq 0 0x0202 (fun _ => true) (ctxUnfreeze 0)).tile 5).st = .idle := by decide
theorem test_close_target : (fld 0x13 3 0, bit (0x13 : W64) 4) = (3, true) := by decide

/-! ### MemoryCommandsKeepRegionsAndMappings -/

def alloc1 : Req := reqOf 0x0300 [0, 0x40_0000]
def memChip (q : Req) : Chip := { inHand q true with regions := [⟨0, 0, lpBase, 0x40_0000, false, 0, 0⟩] }
theorem test_alloc_room : Requested (memChip alloc1) 0 0x0300 alloc1 ∧ (memChip alloc1).boot.memOk = true ∧ (memChip alloc1).lpUser lpBase 0x40_0000 = true ∧
    (memChip alloc1).lowest 0x40_0000 0x40_0000 = some (lpBase + 0x40_0000) ∧ ((memChip alloc1).region 1).isNone = true :=
  ⟨⟨rfl, rfl, rfl⟩, by decide, by decide, by decide, by decide⟩
theorem test_map_in_region : covered ((memChip alloc1).ctxRegions 0) lpBase 64 = true ∧ covered ((memChip alloc1).ctxRegions 0) (lpBase + 0x40_0000) 64 = false ∧
    within lpBase 64 spdBase 0x8000_0000 = false ∧ within spdBase 64 spdBase 0x8000_0000 = true := by decide
theorem test_cut_out : cutOut 128 64 (64, 256) = [(64, 64), (192, 128)] ∧ cutOut 64 256 (64, 256) = [] := by decide
theorem test_free_region : ((memChip alloc1).region 0).isSome = true ∧ ((memChip alloc1).region 1) = none ∧ (memChip alloc1).runUses lpBase 0x40_0000 = false := by decide

theorem test_unmap_unpopulated : ({ memChip alloc1 with ext := { chip0.ext with part1T := false } } : Chip).unpopulated 0x180_0000_0000 64 = true ∧
    ({ memChip alloc1 with ext := { chip0.ext with part1T := true } } : Chip).unpopulated 0x180_0000_0000 64 = false := by decide

/-! ### TableLoadsWaitForTheirReferences -/

/-- A table with every code at length 8 for 18 symbols breaks no rule only if its lengths fill the code space. -/
def tableReq (t : Nat) : Req := reqOf 0x0303 [mkWord [(32, 32, t), (0, 7, 5)]]
def heldSlot : Chip := { inHand (tableReq 9) true with cslots := [(5, { CSlot.init with owner := some 0, held := true })], keeper := { (inHand (tableReq 9) true).keeper with bgs := [⟨0, tableReq 9, .table 5 [] 9, 0⟩] } }
theorem test_table_in_hand : Requested (inHand (tableReq 0) true) 0 0x0303 (tableReq 0) ∧ (inHand (tableReq 0) true).slotBusy 5 = false ∧
    (inHand (tableReq 0) true).slotRefs 5 ((inHand (tableReq 0) true).cslot 5).next = 0 := ⟨⟨rfl, rfl, rfl⟩, by decide, by decide⟩
theorem test_table_held : (heldSlot.tableBg 5).isSome = true ∧ heldSlot.slotBusy 5 = true ∧ heldSlot.slotRefs 5 (heldSlot.cslot 5).next = 0 := by decide

/-! ### RingCommandsAreTakenOrRefused -/

def ringQ (op : Nat) (ws : List Nat) : Chip := inHand (reqOf op (ws.map (BitVec.ofNat 64))) true
/-- A plan of one module: this one, alone at position 0. -/
def planBytes (n : Nat) : List Byte := wordsBytes [mkWord [(32, 32, 9), (28, 4, 1), (21, 7, n)], 0, 0, 0, 0, 0, 0, 0, 77]
theorem test_plan_alone : (planOf (planBytes 1)).ok 77 = true ∧ (planOf (planBytes 1)).ok 78 = false ∧ (planOf (planBytes 0)).ok 77 = false ∧
    planReserved (planBytes 1) = false ∧ planReserved (1 :: (planBytes 1).drop 1) = true := by decide
theorem test_ring_requests : Requested (ringQ 0x0403 []) 0 0x0403 (reqOf 0x0403 []) ∧ (ringQ 0x0403 []).ringBusy = false ∧ (ringQ 0x0404 []).tide.st ≠ .aligned ∧
    ({ ringQ 0x0405 [500] with tide := tide100, slack := { chip0.slack with atSlack := true, heldS := 40 } } : Chip).growth 460 = 460 := ⟨⟨rfl, rfl, rfl⟩, by decide, by decide, by decide⟩

/-! ### FormationDiscoversDecidesAndMeasures -/

/-- A module alone in its ring, in AGREE. -/
def alone (f : Form) : Chip := { chip0 with ring := { chip0.ring with form := f, inForce := some (planOf (planBytes 1)) }, tide := { tide100 with st := .measuring, refActive := 0 } }
theorem test_formation_alone : (alone .agree).ring.inForce.map (fun p => (p.n, p.master)) = some (1, 0) ∧ (alone .measure).hopMeasured .e = true ∧
    (alone .measure).hopMeasured .w = true ∧ (alone .measure).ring.kind ≠ .again ∧ ((verdict 1 false [⟨0, 1, 1, 0, zeros 128⟩]).pass, (verdict 1 false [⟨0, 2, 3, 0, zeros 128⟩]).pass) = (true, true) := by decide
theorem test_version_fails : (verdict 2 false [⟨0, 1, 1, 0, zeros 128⟩, ⟨1, 2, 3, 0, zeros 128⟩]).status = stVersion ∧ (verdict 2 false [⟨0, 1, 1, 0, zeros 128⟩, ⟨1, 1, 1, 7, zeros 128⟩]).status = stPlanMismatch := by decide
theorem test_lead : leadOf [512, 1024] [700] = cdiv (2 * (1536 + 2 * 64 * 512)) 512 ∧ leadOf [] [] = 0 := by decide

/-- A member whose E hop is over the budget, at the wrong frequency, or neither. -/
def hopPlan : Plan := { planOf (planBytes 1) with hopBudget := 9000, poss := [⟨77, 1, ⟨0, 0, 0, 0⟩, ⟨0x8000, 0, 0, 0⟩⟩] }
def hopE (delay : W32) (f : Bool) : Chip := { alone .measure with
  ring := { (alone .measure).ring with inForce := some hopPlan }, strs := chip0.strs.set .e { Str.init with train := .up, pver := 1 },
  tide := { (alone .measure).tide with hop := (alone .measure).tide.hop.set .e ⟨true, delay⟩, xch := (alone .measure).tide.xch.set .e { (alone .measure).tide.xch.e with n := 64, sumOff := 128 * 5, freqBad := f } } }
theorem test_hop_measured : (hopE 800 false).hopMeasured .e = true ∧ (hopE 800 false).hopMeasured .w = true ∧ farValid ((hopE 800 false).planRec.far.get .e) = true ∧
    farValid ((hopE 800 false).planRec.far.get .w) = false ∧ ((hopE 800 false).str .e).isUp = true := by decide +kernel
theorem test_hop_faults : [(hopE 9001 true).hopFault hopPlan .e, (hopE 9000 true).hopFault hopPlan .e, (hopE 9000 false).hopFault hopPlan .e] = [some 8, some 9, none] := by decide +kernel
/-- R51: with one hop the full offset is that of the far end less what this member measured, whose mean is 5. -/
theorem test_offset : ({ alone .measure with tide := { (alone .measure).tide with hops := 0 } } : Chip).fullOffset 900 = 0 ∧
    ({ hopE 800 false with tide := { (hopE 800 false).tide with hops := 1, path := true } } : Chip).fullOffset 900 = 895 := by decide +kernel

/-! ### WeightSetsAreStagedVerifiedSwitchedAndDropped -/

def set5 : WSet := { num := 5, ctx := 0, region := 0, base := lpBase, len := 64, resident := true, verified := true, damaged := false, chunks := [], digest := [], weights := [], clean := [] }
/-- A module with a region, set 5 in it, an aligned time base and a request in hand. -/
def wgtChip (q : Req) (ws : List WSet) : Chip := { memChip q with wsets := ws, tide := tide100 }
def stageReq : Req := { reqOf 0x0500 [5, 0x10_0000 * 4, 64] with ref := 64, refLen := 16 }
theorem test_stage : Requested (wgtChip stageReq []) 0 0x0500 stageReq ∧ ((wgtChip stageReq []).region (fld (stageReq.w 0) 25 16)).isSome = true ∧ (wgtChip stageReq []).wset 5 = none ∧
    (wgtChip stageReq []).placeBusy (lpBase + 0x40_0000) 64 = false ∧ ((wgtChip stageReq [set5]).wset 5).isSome = true ∧ (wgtChip stageReq [set5]).placeBusy lpBase 64 = true := ⟨⟨rfl, rfl, rfl⟩, by decide, by decide, by decide, by decide, by decide⟩
theorem test_switch : (wgtChip (reqOf 0x0502 [5, 1275]) [set5]).setBusy 5 = false ∧ (((wgtChip (reqOf 0x0502 [5, 1275]) [set5]).wset 5).map (fun w => w.resident && w.verified)).getD false = true ∧
    (wgtChip (reqOf 0x0502 [5, 1275]) [set5]).now + 1175 = 1275 ∧ ((wgtChip (reqOf 0x0502 [5, 1275]) [set5]).ctx 0).pendSet = none := by decide
def staging : Chip := { wgtChip stageReq [{ set5 with resident := false }] with keeper := { (wgtChip stageReq []).keeper with bgs := [⟨0, stageReq, .stage 5 [(0, 64)], 0⟩, ⟨0, stageReq, .verify 5 1 0 [], 0⟩] } }
theorem test_stage_ends : (staging.stageBg 5).isSome = true ∧ staging.stageBg 6 = none ∧ (staging.verifyBg 5).isSome = true ∧ staging.poisonLp lpBase 64 = false := by decide

/-! ### RunsAreLaunchedLoadedBegunAndCancelled -/

/-- Run 7 under load, to begin at tick b. -/
def loading (b : Nat) : Chip := { inHand (reqOf 0x0600 []) true with tide := tide100, launching := some { run0 with num := 7, base := BitVec.ofNat 64 b, tiles := [], size := 64 }, keeper := { (inHand (reqOf 0x0600 []) true).keeper with bgs := [⟨0, reqOf 0x0600 [], .launch 7, 0⟩] } }
theorem test_loading : ((loading 1275).bgOf (fun k => k == .launch 7)).isSome = true ∧ (loading 1275).now = 100 ∧ (loading 1275).gensFree { run0 with tiles := [] } = true ∧ (loading 1275).poisonLp lpBase 64 = false := by decide
/-- The active run, cancelled or not. -/
def running (x : Run) : Chip := { inHand (reqOf 0x0602 [1]) true with tide := tide100, runs := [x] }
theorem test_runs : (running run0).runOf 1 = some run0 ∧ (running run0).runOf 2 = none ∧ (running run0).runBusy 1 = false ∧ (running { run0 with cancelling := true }).stopped run0 = true ∧
    (running run0).runState run0 = 1 ∧ (running run0).runState { run0 with state := .waiting } = 0 ∧ Requested (running run0) 0 0x0602 (reqOf 0x0602 [1]) := ⟨by decide, by decide, by decide, by decide, by decide, by decide, ⟨rfl, rfl, rfl⟩⟩
theorem test_launch_refused : (loading 1275).launchRefusal 0 (reqOf 0x0600 [0, 0, 0, 0]) = some (stBusy, 0xFFFF) := by decide
/-- Lay a word down in a memory. -/
def putW (m : Memory) (a : Nat) (w : W64) : Memory := memWrite 0 m a (wordsBytes [w])
/-- An image of one schedule, one step, and no tile used. -/
def img : Memory := [(0x00, (0x4A4256494D470001 : W64)), (0x08, 0x900200), (0x10, mkWord [(56,8,1),(50,2,3),(43,7,1)]), (0x40, 0xC0), (0x48, 1), (0xC0, 0x200), (0xC8, 0x100), (0xD0, mkWord [(32,32,1)]), (0xD8, 0x140), (0xE0, 0x180)].foldl (fun m e => putW m (lpBase + 0x1000 + e.1) e.2) []
def imgReq : Req := reqOf 0x0600 [BitVec.ofNat 64 (lpBase + 0x1000), 1275, 0, 0]
/-- A module with that image in a region of ctx 0, and run.launch of it in hand. -/
def chipI : Chip := { memChip imgReq with tide := tide100, lpMem := img, regions := [⟨0, 0, lpBase, 0x100_0000, false, 0, 0⟩] }
/-- Above every listed key a memory reads 0. -/
theorem tblGet_above (t : Memory) (a : Nat) (h : t.all (fun e => decide (e.1 < a)) = true) : tblGet (0 : Byte) t a = 0 := by
  induction t with
  | nil => rfl
  | cons e r ih =>
    simp only [List.all_cons, Bool.and_eq_true, decide_eq_true_eq] at h
    rw [tblGet, if_neg (Nat.ne_of_lt h.1), ih h.2]
theorem rd_above (c : Chip) (a : Nat) (hs : c.spdMem = []) (hr : c.regions.any (fun r => r.sealedR) = false) (hu : c.undef = []) (h : ∀ i, c.lpMem.all (fun e => decide (e.1 < a + i)) = true) : c.rd a = 0 := by
  have e : c.bytes a 8 = zeros 8 := by
    have ht : ∀ k, c.tagsAt k = none := by
      intro k
      unfold Chip.tagsAt
      rw [List.find?_eq_none]
      intro r hm
      have := List.any_eq_false.mp hr r hm
      simp [this]
    have hb : ∀ k, c.lpByte k = tblGet 0 c.lpMem k := by
      intro k
      unfold Chip.lpByte
      rw [ht k, show c.undefAt (k / 64) = none by unfold Chip.undefAt; rw [hu]; split <;> rfl]
    unfold Chip.bytes memRead
    split
    · rw [hs]; rfl
    · simp only [show List.range 8 = [0,1,2,3,4,5,6,7] from rfl, List.map_cons, List.map_nil, hb, tblGet_above _ _ (h _)]; rfl
  unfold Chip.rd; rw [e]; decide
def imgA : Nat := lpBase + 0x1000
/-- Every word of its tile records is 0. -/
theorem img_rec (t k : Nat) : chipI.rd (recAt (chipI.sched imgA 0) t + k) = 0 := by
  have hk : chipI.lpMem.all (fun e => decide (e.1 < imgA + 0x200)) = true := by decide +kernel
  have ht : (chipI.sched imgA 0).tiles = imgA + 0x200 := by decide +kernel
  refine rd_above chipI _ rfl rfl rfl ?_
  intro i
  refine List.all_eq_true.mpr ?_
  intro e he
  have := List.all_eq_true.mp hk e he
  simp only [decide_eq_true_eq] at this ⊢
  unfold recAt; rw [ht]; omega
theorem test_img_used : chipI.usedTiles (chipI.sched imgA 0) = [] := by
  unfold Chip.usedTiles
  refine List.filter_eq_nil_iff.mpr ?_
  intro t _
  rw [img_rec]; decide
theorem test_img_scheds : chipI.scheds imgA = [chipI.sched imgA 0] := by decide +kernel
theorem test_img_selected : chipI.selected imgA = some (chipI.sched imgA 0) := rfl
theorem test_img_3a : chipI.check3a 0 imgA = none := by decide +kernel
theorem test_img_3b : chipI.check3b imgA = none := by
  unfold Chip.check3b
  simp only [test_img_scheds, List.any_cons, List.any_nil, test_img_used]
  decide +kernel
theorem test_img_5 : chipI.check5 0 imgA = none := by
  unfold Chip.check5 Chip.crossUsed
  simp only [test_img_selected, test_img_scheds, List.any_cons, List.any_nil, test_img_used]
  decide +kernel
theorem test_img_7 : chipI.check7 0 imgA = none := by decide +kernel
theorem firstBad_none {l : List Check} (h : ∀ k ∈ l, k.1 = false) : firstBad l = none := by
  unfold firstBad
  rw [List.find?_eq_none.mpr (fun k hk => by rw [h k hk]; decide)]; rfl
theorem zero_table (self t : Nat) (hs : List Hnd) (h : ∀ k, (hs.getD k (hndOf (0, 0))).aow = false) : ∀ k ∈ tableChecks self t hs, k.1 = false := by
  unfold tableChecks
  have : (List.range 64).filter (fun k => (hs.getD k (hndOf (0, 0))).aow) = [] := List.filter_eq_nil_iff.mpr (fun k _ => by rw [h k]; decide)
  dsimp only
  rw [this]
  intro k hk
  simp only [List.any_nil, List.length_nil, List.mem_cons, List.not_mem_nil, or_false] at hk
  rcases hk with rfl | rfl | rfl <;> rfl
/-- An entry that is not in use breaks no rule of R209. -/
theorem zero_entry (c : Chip) (n : Nat) (p : BitVec 8) (e : W64 × W64) (hk : (hndOf e).kind = 0) (hm : (hndOf e).map = 0) (hf : handleForm e = false) :
    ∀ k ∈ c.handleChecks n p e, k.1 = false := by
  simp [Chip.handleChecks, hk, hm, hf]
theorem test_img_8 : chipI.check8 0 imgA (chipI.sched imgA 0) = none := by
  unfold Chip.check8
  refine List.findSome?_eq_none_iff.mpr ?_
  intro t _
  refine firstBad_none ?_
  unfold Chip.tileChecks Chip.handleRows Chip.syncOf
  simp only [img_rec, Nat.add_assoc]
  intro k hk
  rcases List.mem_append.mp hk with hk | hk
  · rcases List.mem_append.mp hk with hk | hk
    · obtain ⟨e, he, hk⟩ := List.mem_flatMap.mp hk
      obtain ⟨_, _, rfl⟩ := List.mem_map.mp he
      exact zero_entry _ _ _ _ (by decide) (by decide) (by decide) k hk
    · refine zero_table _ _ _ ?_ k hk
      intro j
      rw [List.getD_eq_getElem?_getD, List.map_map, List.getElem?_map]
      cases (List.range 64)[j]? <;> exact (show (hndOf (0, 0)).aow = false by decide)
  · have hn : fld (chipI.imgWord imgA) 54 53 = 0 := by decide +kernel
    simp only [hn, List.mem_cons, List.not_mem_nil, or_false] at hk
    rcases hk with rfl | rfl | rfl | rfl
    · decide
    · have : BitVec.ofNat 8 (fld 0 15 8) = 0 := by decide
      rw [this]; simp
    · decide
    · decide
theorem test_img_9 : firstBad (chipI.winChecks 0 imgA 1275 (chipI.sched imgA 0) ++ chipI.exportChecks 0 imgA (chipI.sched imgA 0) ++ chipI.trayChecks (chipI.sched imgA 0)) = none := by
  unfold Chip.exportChecks Chip.trayChecks; rw [test_img_used]; decide +kernel
/-- The checks of run.launch, one by one. -/
theorem launch_accepted (c : Chip) (n a : Nat) (b : W64) (q : Req) (s : Sched) (h0 : (q.w 0).toNat = a) (hb : q.w 1 = b) (h1 : c.tide.st = .aligned) (h2 : c.run = none) (h3 : c.launching = none)
    (h4 : c.check3a n a = none) (h5 : c.check3b a = none) (h6 : c.now + 1175 ≤ b.toNat) (h7 : c.runs = []) (h8 : c.check5 n a = none) (h9 : c.check6 n a b = true)
    (h10 : c.check7 n a = none) (h11 : c.selected a = some s) (h12 : c.check8 n a s = none)
    (h13 : firstBad (c.winChecks n a b s ++ c.exportChecks n a s ++ c.trayChecks s) = none) : c.launchRefusal n q = none := by
  have e1 : firstBad [(c.tide.st != .aligned && c.tide.st != .holdover, stNotPermitted, 0xFFFF), (c.run.isSome || c.launching.isSome, stBusy, 0xFFFF)] = none := by
    rw [h1, h2, h3]; rfl
  have e2 : firstBad [(decide (b.toNat < c.now + 1175), stBadArg, 8), (!c.afterRuns (q.w 2).toNat, stBadArg, 16)] = none := by
    simp [firstBad, Nat.not_lt.mpr h6, Chip.afterRuns, h7]
  have e3 : firstBad [(!c.check6 n a b, stNotPermitted, 0xFFFF)] = none := by rw [h9]; rfl
  unfold Chip.launchRefusal
  simp only [h0, hb, e1, h4, h5, e2, h8, e3, h10, h11, h12, h13]
theorem test_img_ok : chipI.launchRefusal 0 imgReq = none :=
  launch_accepted chipI 0 imgA 1275 imgReq _ (by decide +kernel) (by decide +kernel) rfl rfl rfl test_img_3a test_img_3b (by decide +kernel) rfl test_img_5 (by decide +kernel) test_img_7 test_img_selected test_img_8 test_img_9
theorem test_img_run : (chipI.runFrom 0 imgReq).isSome = true := rfl

/-! ### ObservationCommandsAnswer -/

/-- A request that names a buffer. -/
def refReq (op : Nat) (ws : List W64) (len : Nat) : Req := { reqOf op ws with ref := 64, refLen := BitVec.ofNat 32 len }
/-- A pan that ctx 0 owns. -/
def chipPan (q : Req) (st : PanState) : Chip := { inHand q true with pan := { chip0.pan with owner := some 0, st := st } }
theorem test_counters : Requested (inHand (refReq 0x0700 [mkWord [(32, 8, 64)]] 0x140) true) 0 0x0700 (refReq 0x0700 [mkWord [(32, 8, 64)]] 0x140) ∧ dumpBlocks 64 0 0 = [(.tide, 32)] ∧
    (refReq 0x0700 [mkWord [(32, 8, 64)]] 0x140).room = 64 + 8 * 32 ∧ (dumpBlocks 1 4095 1).length = 1 := ⟨⟨rfl, rfl, rfl⟩, by decide, by decide, by decide⟩
theorem test_trace_ops : [0, 1, 2, 3, 4].map (fun k => (reqOf 0x0701 [BitVec.ofNat 64 k]).traceOp) = [0, 1, 2, 3, 4] ∧ (chipPan (reqOf 0x0701 [1]) .stopped).pan.live = false ∧
    (chipPan (reqOf 0x0701 [1]) .armed).pan.live = true ∧ (inHand (reqOf 0x0701 [0]) true).selAllowed 0 0 0 0x0F = true := by decide
theorem test_harvest_live : (inHand (refReq 0x0703 [mkWord [(61, 3, 1)]] 4096) true).harvestOk 0 1 0 = true ∧ (inHand (refReq 0x0703 [] 0) true).newestHarvest 1 0 = none ∧
    (inHand (refReq 0x0703 [] 0) true).harvestOk 0 1 1 = (inHand (refReq 0x0703 [] 0) true).visOpen := by decide
theorem test_watch_needs_run : (inHand (refReq 0x0702 [] 0) true).run = none ∧ (running run0).run = some run0 ∧ (running run0).watchTarget run0 0 0 0 0 = none := by decide

/-! ### RegistersAreReadAndWrittenByTheirRules -/

theorem test_cfg_words : (chip0.cfgWord State.reset.jtag 0 0x20_0000).isSome = true ∧ chip0.cfgWord State.reset.jtag 0 0x10_0000 = some (false, 0) ∧ chip0.cfgWord State.reset.jtag 0 0x20_0FF8 = none := by decide
theorem test_cfg_blocks : blkOf 0x20_2040 = some (.tray, 0x40) ∧ blkOf 0x40_0100 = some (.tile 1, 0) ∧ ownRow 0x20_5008 = true ∧ ownRow 0x40_0100 = false ∧
    (chip0.ctlWord State.reset.jtag 0x40_0100).isSome = true ∧ (chip0.ctlWord State.reset.jtag 0x20_2040).isSome = true := by decide
theorem test_w1c : ((({ chip0 with tide := { Tide.init with refLoss := true, alignLost := true } } : Chip).clear .tide 8 0x8_0000).tide.refLoss, (({ chip0 with tide := { Tide.init with refLoss := true, alignLost := true } } : Chip).clear .tide 8 0x8_0000).tide.alignLost) = (false, true) := by decide
theorem test_tide_ctrl : (tideCtrl 0x9600 { chip0 with tide := { Tide.init with st := .free } }).tide.refSec = 1 ∧ (tideCtrl 0x9600 { chip0 with tide := { Tide.init with st := .free } }).tide.refPri = chip0.tide.refPri := by decide

/-! ### AttestationUpdatesAndTheKeeperRestart -/

/-- A Keeper that restarts, with one request to answer, and the watchdog's last expiry. -/
def restarting (t : Option Nat) (m : Bool) : Chip := { chip0 with keeper := { chip0.keeper with state := .restarting, lostReqs := [(0, reqOf 0x0602 [1])], lastExpiry := t }, boot := { chip0.boot with memOk := m } }
theorem test_restart : (keeperRestart (restarting none true)).keeper.state = .running ∧ (keeperRestart (restarting none true)).keeper.restartCnt = 1 ∧
    (keeperRestart (restarting none false)).keeper.state = .halted ∧ (keeperRestart (restarting none true)).keeper.lostReqs = [] := by decide +kernel
theorem test_second_expiry : [(watchdogExpiry (restarting none true)).keeper.state, (watchdogExpiry (restarting (some 0) true)).keeper.state] = [.restarting, .halted] := by decide +kernel
theorem test_update : (inHand (refReq 0x0801 [1] 1280) true).updateBg = none ∧ Requested (inHand (refReq 0x0801 [1] 1280) true) 0 0x0801 (refReq 0x0801 [1] 1280) := ⟨by decide +kernel, rfl, by decide +kernel, by decide +kernel⟩
def updating : Chip := { inHand (refReq 0x0801 [1] 64) true with keeper := { (inHand (refReq 0x0801 [1] 64) true).keeper with bgs := [⟨0, refReq 0x0801 [1] 64, .update 1 [], 0⟩] } }
theorem test_update_ends : updating.updateBg.isSome = true ∧ updating.serves 0 = true ∧ (updating.norProg (updating.updateAt 1).1 []).hostRead 64 0 = [] := ⟨by decide, by decide, rfl⟩

/-! ### StraitTrainingMovesByItsEvents -/

/-- A strait in a training state. -/
def inTr (t : Train) : Chip := { chip0 with strs := chip0.strs.set .e { Str.init with train := t, present := true, retryAt := some 0, farBuf := ⟨0, 0, 0, 1⟩, laneOk := 0xFFFF, width := 0 } }
theorem test_training : (inTr .detect).str .e = { Str.init with train := .detect, present := true, retryAt := some 0, farBuf := ⟨0, 0, 0, 1⟩, laneOk := 0xFFFF, width := 0 } ∧ (inTr .up).up = 0 ∧
    popCount 0x000F = 4 ∧ popCount 0x0007 = 3 ∧ [widthOf 0xFFFF, widthOf 0xFF00, widthOf 0x00F0, widthOf 0x0FF0, widthOf 0x7777] = [0, 1, 2, 2, 3] := by decide
theorem test_retrain_narrower : (({ inTr .retrain with tide := tide100 } : Chip).str .e).train = .retrain ∧ (retrainDone .e 0x00FF (inTr .retrain)).strs.e.width = 1 ∧ (retrainDone .e 0x00FF (inTr .retrain)).strs.e.degraded = true := by decide
theorem test_silence : silenceTk 0 = 69 ∧ silenceTk 1 = 138 := by decide

/-! ### FlitsAreAcceptedRepeatedOrRefused -/

/-- A strait that is up, and one flit to it: SEQ q, VC-C, the whole of a SIGNAL, with its CRC. -/
def upE : State := withStr .e { Str.init with train := .up, pver := 1 } tide100
def flitTo (q : BitVec 12) (kind : Nat) : List Byte := flitBytes (flitHead q 0 false 2 true true 0 0 32 0 kind) (wordsBytes [txnHead 4 1 0 0, 0, 0, 0])
theorem test_flit_crc : crc64 (slice (flitTo 0 1) 0 248) = leNat (slice (flitTo 0 1) 248 8) ∧ fld (wordAt (flitTo 5 1) 0) 63 52 = 5 ∧ fld (wordAt (flitTo 0 0) 0) 7 5 = 0 := by decide +kernel
theorem test_flit_delivered : ((flitReceive .e (flitTo 0 1) 3 false upE.chip).str .e).rxC.length = 1 ∧ ((flitReceive .e (flitTo 0 1) 3 false upE.chip).str .e).expSeq = 1 ∧
    ((flitReceive .e (flitTo 0 1) 3 false upE.chip).str .e).fecCorr = 3 := by decide +kernel
theorem test_flit_refused : ((flitReceive .e (flitTo 7 1) 0 false upE.chip).str .e).nakOut = true ∧ ((flitReceive .e (flitTo 4095 1) 0 false upE.chip).str .e).nakOut = false ∧
    ((flitReceive .e ((flitTo 0 1).drop 1 ++ [1]) 0 false upE.chip).str .e).crcCnt = 1 := by decide +kernel
theorem test_credit_stall : ((creditStallTimeout .e { upE.chip with tide := { tide100 with acs := 8 * 117500 }, strs := chip0.strs.set .e { Str.init with train := .up, noCreditC := some 0 } }).str .e).frozen = true := by decide +kernel

/-! ### FerriesLandInTheirBerths -/

/-- A ferry of one unit of 64 B for step tag 0 and weight set 5, from the west neighbour's east strait. -/
def ferryBytes (set : Nat) : List Byte := wordsBytes ([txnHead 1 1 0 64, mkWord [(32, 32, 0), (16, 16, set)], mkWord [(12, 6, 63)], 0, 1, 2, 3, 4, 5, 6, 7, 8])
def berthF : Berth := { west := false, own := false, base := lpBase, size := 64, stride := 2, first := 0, flen := 1, count := 1, cur := 0, st := .live, got := [], reads := [] }
def chipF (bs : List Byte) (ready : Bool) : Chip := { (withRx .w 0 bs tide100).chip with runs := [{ run0 with set := some 5, berths := [berthF] }], strs := chip0.strs.set .w (({ Str.init with train := .up, pver := 1 }).setRx 0 [{ txn := ⟨bs, []⟩, flits := 1, good := true, atTk := 0, held := false, ready := ready, stalled := false }]) }
theorem test_ferry_judged : (chipF (ferryBytes 5) false).judgeFerry .w ⟨⟨ferryBytes 5, []⟩, 1, true, 0, false, false, false⟩ = .write 0 ∧
    (chipF (ferryBytes 6) false).judgeFerry .w ⟨⟨ferryBytes 6, []⟩, 1, true, 0, false, false, false⟩ = .unplanned ∧ txnBodyOk (ferryBytes 5) = true := by decide +kernel
theorem test_ferry_free : (chipF (ferryBytes 5) true).shutRange lpBase 64 = false ∧ (chipF (ferryBytes 5) true).reachable lpBase 64 = true ∧
    (chipF (ferryBytes 5) true).reachable spdBase 64 = false := by decide +kernel
theorem test_ferry_lands : ((ferryWritten .w (chipF (ferryBytes 5) true)).bytes lpBase 9) = [1, 0, 0, 0, 0, 0, 0, 0, 2] ∧ ((ferryWritten .w (chipF (ferryBytes 5) true)).str .w).rxF = [] ∧
    (((ferry .w (chipF (ferryBytes 5) false)).str .w).rxF.map (fun r => r.ready)) = [true] := by decide +kernel

/-! ### RemoteWritesAreJudgedLandedAndCounted -/

/-- An RWRITE of 32 B at an address, its TFLAGS k. -/
def rwBytes (k a : Nat) : List Byte := wordsBytes [txnHead 2 1 k 32, mkWord [(60, 4, 4), (0, 48, a)], mkWord [(12, 6, 63)], 0, 1, 2, 3, 4]
/-- A strait that is up with one RWRITE whole in its buffer, under a run that exports 64 B. -/
def chipRW (st : Strait) (bs : List Byte) (rs : List Run) : Chip := { (withRx st 1 bs tide100).chip with runs := rs }
def runX : Run := { run0 with exports := [{ tray := false, x1 := false, x0 := true, w := false, e := true, write := true, read := false, accum := false, attn := false, base := lpBase, size := 64 }] }
theorem test_rwrite_wf : txnBodyOk (rwBytes 0 lpBase) = true ∧ ((chipRW .e (rwBytes 0 lpBase) [runX]).headRx .e 1 2 (fun _ => true)).isSome = true ∧ (chipRW .x0 (rwBytes 0 lpBase) []).waitsForRun .x0 = true := by decide +kernel
theorem test_rwrite_lands : (rwrite .e (chipRW .e (rwBytes 0 lpBase) [runX])).bytes lpBase 9 = [1, 0, 0, 0, 0, 0, 0, 0, 2] ∧ ((rwrite .e (chipRW .e (rwBytes 0 (lpBase + 64)) [runX])).str .e).faultCause = 0x01 := by decide +kernel
theorem test_rwrite_flags : ((rwrite .e (chipRW .e (rwBytes 2 lpBase) [runX])).str .e).faultCause = 0x02 ∧ ((rwrite .x0 (chipRW .x0 (rwBytes 0 lpBase) [])).str .x0).rxW.map (fun r => r.held) = [true] := by decide +kernel

theorem test_rwrite_current : (chipRW .x0 (rwBytes 1 lpBase) [runX]).recordFor .x0 0 0 lpBase = none ∧ (chipRW .e (rwBytes 0 lpBase) [runX]).shutRange lpBase 32 = false := by decide +kernel

/-! ### ReadsSignalsProbesAndSlacksAreTaken -/

/-- A SIGNAL of a KIND to object 3 of tile 0, and a read by the Keeper. -/
def sigBytes (k : Nat) : List Byte := wordsBytes [txnHead 4 1 k 0, mkWord [(0, 6, 3), (33, 3, 3)], mkWord [(0, 32, 7)], 0]
def readBytes (k : Nat) : List Byte := wordsBytes [txnHead 3 1 k 0, mkWord [(48, 16, 9), (0, 48, 0x20_0000)], mkWord [(0, 13, 8)], 0]
def chipVC (st : Strait) (vc : BitVec 2) (bs : List Byte) : Chip := (withRx st vc bs tide100).chip
theorem test_sigs_wf : [sigBytes 0, sigBytes 1, sigBytes 2, readBytes 2].map txnBodyOk = [true, true, true, true] ∧ txnBodyOk (sigBytes 3) = false := by decide +kernel
theorem test_sig_heads : ((chipVC .e 2 (sigBytes 1)).headRx .e 2 4 (fun x => decide (x % 4 = 1))).isSome = true ∧ (chipVC .e 2 (sigBytes 1)).headRx .e 2 4 (fun x => decide (x % 4 = 0)) = none := by decide +kernel
theorem test_read_queued : ((rread .e (chipVC .e 2 (readBytes 2))).str .e).readQ = [⟨9, 0x20_0000, 8⟩] ∧ ((rread .e (chipVC .e 2 (readBytes 0))).str .e).faultCause = 0x04 := by decide +kernel
/-- A CREDIT of 384, 128, 32 and 8 flits: taken in ALIGN, refused in UP. -/
def creditBytes : List Byte := wordsBytes [txnHead 5 1 0 0, mkWord [(48, 9, 384), (32, 8, 128), (16, 6, 32), (0, 6, 8)], 0, 0]
def chipCr (t : Train) : Chip := { chipVC .e 3 creditBytes with strs := (chipVC .e 3 creditBytes).strs.set .e { (chipVC .e 3 creditBytes).str .e with train := t } }
theorem test_credit_arrives : txnBodyOk creditBytes = true ∧ ((chipCr .align).headRx .e 3 5 (fun _ => true)).isSome = true ∧ (((chipCr .align).popRx .e 3).str .e).train = .align ∧
    ((credit .e (chipCr .align)).str .e).farBuf = ⟨384, 128, 32, 8⟩ ∧ ((credit .e (chipCr .align)).str .e).credit = ⟨384, 128, 32, 8⟩ := by decide +kernel
theorem test_credit_refused : ((credit .e (chipCr .up)).str .e).faultCause = 0x02 := by decide +kernel
theorem test_far_barred : chip0.farBarred spdBase 64 = true ∧ chip0.farBarred lpBase 64 = false ∧ chip0.farBarred (lpBase + chip0.eccOff) 64 = true ∧
    ({ chip0 with ext := { chip0.ext with part1T := false } } : Chip).farBarred 0x180_0000_0000 64 = true := by decide
theorem test_pair_version : (pairVersion { Str.init.far with pmin := 1, pmax := 3 }, pairVersion { Str.init.far with pmin := 2, pmax := 3 }) = (some 1, none) := by decide
def slackBytes (k : Nat) : List Byte := wordsBytes [txnHead 8 1 k 0, 500, 40, mkWord [(56, 2, 2)]]
theorem test_slack_cut : (slackCut .e (chipVC .e 3 (slackBytes 1))).slack.seen.contains 500 = true ∧ ((slackCut .x0 (chipVC .x0 3 (slackBytes 1))).str .x0).faultCause = 0x07 := by decide +kernel

/-! ### SlackRequestsCutAndHoldTheRing -/

/-- A cut at tick 60, in effect or not. -/
def chipCut (eff : Bool) : Chip := { chip0 with tide := tide100, slack := { chip0.slack with cut := some 60, inEffect := eff } }
theorem test_cut : (chipCut false).cutHolds (chipCut false).now = true ∧ (slackCutMark (chipCut false)).slack.inEffect = true ∧ (slackReached (chipCut true)).slack.atSlack = true ∧ (slackReached (chipCut false)).slack.atSlack = false := by decide
theorem test_pin : chip0.slack.armed = true ∧ (slackReqPin chip0).slack.armed = false ∧ (slackReqRelease (slackReqPin chip0)).slack.armed = true := by decide

/-! ### StepsBerthsAndCommitsAdvance -/

/-- A run of two steps that is in its first. -/
def runS : Run := { run0 with steps := [0, 50], reached := 1, berths := [{ berthF with count := 2, cur := 0 }] }
def chipS : Chip := { chipT (tileQ []) with runs := [runS] }
theorem test_step : (stepBoundary chipS).run.map (fun r => r.reached) = some 2 ∧ chipS.boundaryMark runS 1 = 60 ∧ runS.bounds = [2] := by decide
theorem test_berth_advance : [(berthF.advance).st, ({ berthF with count := 2 } : Berth).advance.st] = [.released, .live] ∧ ({ berthF with count := 2, got := [0] } : Berth).advance.got = [] := by decide
theorem test_shadow_waits : (({ chipS with tiles := [] } : Chip).tile 0).shadowStep = 0 ∧ (commitShadow 0 chipS).tiles = chipS.tiles := by decide
def runC : Run := { run0 with steps := [0], tiles := [], endOff := 10 }
theorem test_commit : (commitReport { chipS with runs := [{ runC with reported := 0 }] }).run.map (fun r => r.reported) = some 1 ∧
    (commitDeclare 1 { chipS with runs := [{ runC with reported := 1 }] }).run.isNone = true := by decide

/-! ### RecoveryDrainsDecidesRestoresAndReplays -/

/-- A recovery in a phase that began at tick 0, at the one member of its ring. -/
def chipRec (p : Phase) (acs : Nat) : Chip := { chipT (tileQ []) with tide := { tide100 with master := true, acs := acs }, recov := { chip0.recov with phase := p, open_ := true, rollback := 0 }, keeper := { chip0.keeper with state := .running } }
theorem test_drain : (quiesceTimeout (chipRec .quiesce (8 * 117500))).recov.phase = .drain ∧ (quiesceTimeout (chipRec .quiesce (8 * 117499))).recov.phase = .quiesce ∧ (drainDone (chipRec .drain 0)).recov.phase = .decide := by decide +kernel
theorem test_decide : missing (chipRec .decide 0).ringSize ((chipRec .decide 0).reports []) = [] ∧ ((chipRec .decide 0).decideOn run0 []).result = 0x15 ∧ ((chipRec .decide 0).decideOn { run0 with det := true } []).result = 0x00 := by decide +kernel
theorem test_outcomes : (outcome 4 [⟨0, false, true, 6, false, false, false, false, false, true⟩, ⟨1, false, false, 0, false, false, false, false, false, true⟩, ⟨2, false, false, 0, false, false, false, false, false, true⟩, ⟨3, true, false, 6, false, false, false, false, false, true⟩] 6 (fun b => b == 0) true 0 false) = (0x01, 0) ∧
    (outcome 2 [⟨0, false, false, 0, false, false, false, false, false, true⟩] 0 (fun _ => true) true 0 false).1 = 0x16 := by decide +kernel
/-- R43: the successor takes its own sources, in holdover until the next tick. -/
theorem test_take_over : (let c : Chip := ({ chipRec .decide 0 with ring := { chip0.ring with inForce := some (planOf (planBytes 1)) }, tide := { tide100 with refPri := 2, refActive := 2, srcOk := 5 } } : Chip).takeOver
    (c.tide.master, c.tide.refPri, c.tide.refSec, c.tide.refActive, c.tide.st, c.endTick.tide.st, c.endTick.tide.refActive)) = (true, 0, 7, 7, .holdover, .aligned, 0) := by decide +kernel
theorem test_restore_done : (restoreDone { chipRec .restore 0 with recov := { (chipRec .restore 0).recov with rp := some 90, result := 0 } }).recov.phase = .none ∧ (replayMark { chipRec .none 0 with recov := { (chipRec .none 0).recov with rp := some 90 } }).recov.open_ = false := by decide +kernel

/-! ### FrontEndOpensClosesAndLatches -/

/-- A front end as given. -/
def frontState (p e l w : Bool) : State := { State.reset with front := { State.reset.front with powered := p, pwrEn := e, latched := l, waiting := w } }
theorem test_front : (frontState false true false true).front.waiting = true ∧ (frontState true true false false).live = true ∧ (State.powerUp (frontState false true false false)).chip.keeper.state = .booting := by decide
theorem test_front_cause : (State.latchOff 3 (frontState true true false false)).front.cause = 3 ∧ (State.latchOff 3 (frontState true true false false)).front.latched = true ∧ (State.powerDown 0 (frontState true true false false)).live = false := by decide

/-! ### SensorsAlertWarnAndShutDown -/

theorem test_degrees : (degrees 0x5F, degrees 0xFF) = (95, -1) := by decide
theorem test_over : (powerSample 54000 0 7501 chip0).pwr.overIn = true ∧ (powerSample 54000 0 7500 chip0).pwr.overIn = false ∧ (powerSample 41000 0 0 chip0).pwr.margin = false ∧ (powerSample 40999 0 0 chip0).pwr.margin = true := by decide
theorem test_hot_held : ({ chip0 with tide := { tide100 with acs := 8 * 11750000 }, chans := [(0, { Chan.init with hotAt := some 0 })] } : Chip).memHotHeld 0 = true ∧ chip0.memHotHeld 0 = false := by decide

/-! ### PcieResetsCloseContextsNotTheModule -/

/-- A module whose link is up and whose boot is done. -/
def pciUp : State := { on { chip0 with boot := { chip0.boot with stage := 11 }, keeper := { chip0.keeper with state := .running } } with pcie := { perst := false, barsSet := true, vfEnable := true, d3 := 0 } }
theorem test_link : pciUp.live = true ∧ (pciUp.pcie.carries 0, pciUp.pcie.carries 3) = (true, true) ∧ pciUp.chip.booted = true ∧ (pciUp.pcie.d3 ||| (1#16 <<< (3 : CtxId).toNat)) = 8 := by decide
theorem test_flr : ((pciUp.chip.closeFor 3).keeper.closing.length, (Chip.closeFor { pciUp.chip with keeper := { pciUp.chip.keeper with state := .halted } } 3).keeper.closing.length) = (0, 1) := by decide +kernel

/-! ### SmbusReachesTheManagementPage -/

theorem test_window : ((⟨0x7FE0, false⟩ : Smb).fits 32, (⟨0x7FE8, false⟩ : Smb).fits 32, (⟨0, false⟩ : Smb).fits 0) = (true, false, false) := by decide
/-- A module with a bad PEC noted and a response unread. -/
def linkPec : State := { pciUp with smb := { window := 0, pecErr := true }, chip := { pciUp.chip with ctxs := [(16, { Ctx.init with rspTail := 1 })] } }
theorem test_status : linkPec.smbStatus = 0x0B ∧ linkPec.chip.alert = true ∧ pciUp.smbStatus = 0x01 ∧ pciUp.chip.alert = false := by decide +kernel

/-! ### TestPortsLoadCaptureAndTakeThePins -/

theorem test_tap : ([State.instr .hub 0x02 (on chip0), State.instr .c1 0x01 (on chip0)].map (fun s => (s.jtag.irHub, s.jtag.irC1, s.chip.pan.test))) = [(2, 1, true), (1, 1, false)] := by decide
theorem test_pins : ((State.takePins (State.instr .c0 0x0A (on chip0))).jtag.pins .c0, (State.takePins (State.instr .c0 0x0A (on chip0))).jtag.pins .hub, (State.takePins (on chip0)).live) = (.highz, .mission, false) := by decide

/-! ### TestPortReadsNorControlSpaceAndNets -/

theorem test_port : ((on chip0).portRead 0x20_0000).isSome = (blkOf 0x20_0000).isSome ∧ (on chip0).portRead 4 = none ∧ (on chip0).chip.slotAt chip0.harvestBase = some 0 := by decide +kernel
theorem test_nor_access : ((State.norAccess 1 8 5 (on chip0)).jtag.norBusy, (State.norAccess 0 8 0 (on chip0)).jtag.norBusy, (State.norAccess 2 8 0 (State.takePins (on chip0))).jtag.norOp) = (false, true, 2) := by decide

/-! ### The ciphers -/

/-- FIPS 197: the S-box of 0x53 is 0xED, and the cipher of its appendix C.3. -/
theorem test_sbox : (sbox 0x53, sbox 0x00) = (0xED, 0x63) := by decide +kernel
theorem test_aes : aesBlock (aesKeys ((List.range 32).map (BitVec.ofNat 8))) ((List.range 16).map (fun i => BitVec.ofNat 8 (17 * i))) =
    [0x8E, 0xA2, 0xB7, 0xCA, 0x51, 0x67, 0x45, 0xBF, 0xEA, 0xFC, 0x49, 0x90, 0x4B, 0x49, 0x60, 0x89] := by decide +kernel

end Sys2Proof.Tests
end

section
/-! PROOFS of the family 00_scope: the frame of a mailbox command, the memory commands, the register map, and the two statements. -/
namespace Sys2Proof.Machine

/-! ### A mailbox command whose request is in hand -/

section
variable {s : State} {c : Chip} {n op : Nat} {q : Req} {k : Req → Bool}

/-- A request in hand that passes the row's test is executed, and the module is all that it changes. -/
theorem onChip_onReq_of_requested (hl : s.live = true) (hc : s.chip = c) (hr : Requested c n op q) (hk : k q = true) (f : Req → Chip → Chip) :
    onChip (Chip.onReq n op k f) s = .next (after s (f q c)) := by
  obtain ⟨hq, hs, ho⟩ := hr
  rw [onChip_live hl, hc, onReq_run hq hs ho hk]
  rfl

/-- The same for a command that also reads the test port. -/
theorem onChipJ_onReq_of_requested (hl : s.live = true) (hc : s.chip = c) (hr : Requested c n op q) (hk : k q = true) (f : Jtag → Req → Chip → Chip) :
    onChipJ (fun j => Chip.onReq n op k (f j)) s = .next (after s (f s.jtag q c)) := by
  obtain ⟨hq, hs, ho⟩ := hr
  rw [onChipJ_live hl, hc, onReq_run hq hs ho hk]
  rfl

end

section
variable {s : State} {c : Chip} {who : Issuer} {n : Nat} {q : Req}

theorem exec_memAlloc (hl : s.live = true) (hc : s.chip = c) (hn : issuerNum who = n) (hr : Requested c n 0x0300 q) :
    exec (.memAlloc who) s = .next (after s (memAlloc n q c)) := by
  subst hn
  exact onChip_onReq_of_requested hl hc hr rfl _

theorem exec_memFree (hl : s.live = true) (hc : s.chip = c) (hn : issuerNum who = n) (hr : Requested c n 0x0301 q) :
    exec (.memFree who) s = .next (after s (memFree n q c)) := by
  subst hn
  exact onChip_onReq_of_requested hl hc hr rfl _

theorem exec_memMap (hl : s.live = true) (hc : s.chip = c) (hn : issuerNum who = n) (hr : Requested c n 0x0302 q) (hu : bit (q.w 1) 63 = false) :
    exec (.memMap who) s = .next (after s (memMap n q c)) := by
  subst hn
  exact onChip_onReq_of_requested hl hc hr (by simp [hu]) _

theorem exec_memUnmap (hl : s.live = true) (hc : s.chip = c) (hn : issuerNum who = n) (hr : Requested c n 0x0302 q) (hu : bit (q.w 1) 63 = true) :
    exec (.memUnmap who) s = .next (after s (memUnmap n q c)) := by
  subst hn
  exact onChip_onReq_of_requested hl hc hr hu _

theorem exec_cfgRead (hl : s.live = true) (hc : s.chip = c) (hn : issuerNum who = n) (hr : Requested c n 0x0900 q) :
    exec (.cfgRead who) s = .next (after s (cfgRead n s.jtag q c)) := by
  subst hn
  exact onChipJ_onReq_of_requested hl hc hr rfl _

theorem exec_cfgWrite (hl : s.live = true) (hc : s.chip = c) (hn : issuerNum who = n) (hr : Requested c n 0x0901 q) :
    exec (.cfgWrite who) s = .next (after s (cfgWrite n s.jtag q c)) := by
  subst hn
  exact onChipJ_onReq_of_requested hl hc hr rfl _

end

/-! ### mem.alloc (R443) -/

section
variable {n : Nat} {q : Req} {c : Chip}

theorem memAlloc_of_noMemory (hm : c.boot.memOk = false) : memAlloc n q c = c.refuse n q stNotPermitted := by
  simp [memAlloc, hm]

theorem memAlloc_of_unalignedBase (hm : c.boot.memOk = true) (hb : (q.w 0).toNat % 0x40_0000 ≠ 0) :
    memAlloc n q c = c.answer n q stBadArg [] 0 := by
  simp [memAlloc, hm, hb]

theorem memAlloc_of_badSize (hm : c.boot.memOk = true) (hb : (q.w 0).toNat % 0x40_0000 = 0)
    (hs : fld (q.w 1) 40 0 = 0 ∨ fld (q.w 1) 40 0 % 0x40_0000 ≠ 0) : memAlloc n q c = c.answer n q stBadArg [] 8 := by
  unfold memAlloc
  dsimp only
  rw [if_neg (by simp [hm]), if_neg (by simp [hb]), if_pos hs]

/-- Base and size are multiples of 4 MiB, and there is something to allocate. -/
structure AllocUnits (q : Req) : Prop where
  base : (q.w 0).toNat % 0x40_0000 = 0
  pos  : fld (q.w 1) 40 0 ≠ 0
  size : fld (q.w 1) 40 0 % 0x40_0000 = 0

theorem memAlloc_of_baseOutside (hm : c.boot.memOk = true) (hu : AllocUnits q) (ha : (q.w 0).toNat ≠ 0)
    (ho : c.lpUser (q.w 0).toNat (fld (q.w 1) 40 0) = false) : memAlloc n q c = c.answer n q stBounds [] 0 := by
  simp [memAlloc, hm, hu.base, hu.pos, hu.size, ha, ho]

/-- The request names no base, or one at which its size lies within user memory. -/
def AllocInside (c : Chip) (q : Req) : Prop := (q.w 0).toNat = 0 ∨ c.lpUser (q.w 0).toNat (fld (q.w 1) 40 0) = true

theorem AllocInside.not_outside (hi : AllocInside c q) : ¬((q.w 0).toNat ≠ 0 ∧ !c.lpUser (q.w 0).toNat (fld (q.w 1) 40 0)) := by
  rintro ⟨ha, ho⟩
  cases hi with
  | inl h => exact ha h
  | inr h => simp [h] at ho

theorem memAlloc_of_tooLarge (hm : c.boot.memOk = true) (hu : AllocUnits q) (hi : AllocInside c q)
    (hl : c.lpUser lpBase (fld (q.w 1) 40 0) = false) : memAlloc n q c = c.answer n q stBounds [] 8 := by
  unfold memAlloc
  dsimp only
  rw [if_neg (by simp [hm]), if_neg (by simp [hu.base]), if_neg (by simp [hu.pos, hu.size]), if_neg hi.not_outside, if_pos (by simp [hl])]

/-- Where a request's region goes: the base it names if that is free, else the lowest free place (DESIGN CHOICE, log 48). -/
def Chip.allocAt (c : Chip) (a size : Nat) : Option Nat :=
  if a = 0 then c.lowest 0x40_0000 size else if c.freeRange a size then some a else none

theorem memAlloc_of_noRoom (hm : c.boot.memOk = true) (hu : AllocUnits q) (hi : AllocInside c q)
    (hl : c.lpUser lpBase (fld (q.w 1) 40 0) = true) (hp : c.allocAt (q.w 0).toNat (fld (q.w 1) 40 0) = none) :
    memAlloc n q c = c.refuse n q stNoSpace := by
  unfold Chip.allocAt at hp
  unfold memAlloc
  dsimp only
  rw [if_neg (by simp [hm]), if_neg (by simp [hu.base]), if_neg (by simp [hu.pos, hu.size]), if_neg hi.not_outside, if_neg (by simp [hl]), hp]

/-- An unsealed region at its place, with the lowest free number (DESIGN CHOICE, log 48). -/
theorem memAlloc_of_room {at_ num : Nat} (hm : c.boot.memOk = true) (hu : AllocUnits q) (hi : AllocInside c q)
    (hl : c.lpUser lpBase (fld (q.w 1) 40 0) = true) (hs : bit (q.w 1) 63 = false)
    (hp : c.allocAt (q.w 0).toNat (fld (q.w 1) 40 0) = some at_)
    (hf : (List.range 1024).find? (fun k => (c.region k).isNone) = some num) (hn : num < 1024) :
    memAlloc n q c =
      (Chip.zeroLp { c with regions := c.regions ++ [{ num := num, ctx := n, base := at_, size := fld (q.w 1) 40 0, sealedR := false, key := c.fresh.n, tags := 0 }],
                            fresh := ⟨c.fresh.n + 1⟩ } at_ (fld (q.w 1) 40 0)).okay n q [BitVec.ofNat 64 num, BitVec.ofNat 64 at_] := by
  unfold Chip.allocAt at hp
  unfold memAlloc
  dsimp only
  rw [if_neg (by simp [hm]), if_neg (by simp [hu.base]), if_neg (by simp [hu.pos, hu.size]), if_neg hi.not_outside, if_neg (by simp [hl]), hp]
  simp [hs, hf, Nat.ne_of_lt hn]

/-! ### mem.free (R443) -/

theorem memFree_of_noMemory (hm : c.boot.memOk = false) : memFree n q c = c.refuse n q stNotPermitted := by
  simp [memFree, hm]

theorem memFree_of_noRegion (hm : c.boot.memOk = true) (hr : c.region (fld (q.w 0) 9 0) = none) :
    memFree n q c = c.answer n q stBadArg [] 0 := by
  simp [memFree, hm, hr]

/-- Whether anything uses a region: a command, a weight set or the run. -/
def Chip.regionInUse (c : Chip) (r : Region) : Bool :=
  c.regionBusy r || c.wsets.any (fun w => decide (w.region = r.num)) || c.runUses r.base r.size

theorem memFree_of_region {r : Region} (hm : c.boot.memOk = true) (hr : c.region (fld (q.w 0) 9 0) = some r) :
    memFree n q c = if c.regionInUse r then c.answer n q stBusy [] 0 else (c.freeRegion r).refuse n q stOk := by
  simp [memFree, hm, hr, Chip.regionInUse]

/-! ### mem.map and its UNMAP (R2, R271, R443) -/

theorem memMap_of_noMemory (hm : c.boot.memOk = false) : memMap n q c = c.refuse n q stNotPermitted := by
  simp [memMap, hm]

theorem memUnmap_of_noMemory (hm : c.boot.memOk = false) : memUnmap n q c = c.refuse n q stNotPermitted := by
  simp [memUnmap, hm]

/-- Base and size of a mapping are multiples of 64 B, and it is not empty. -/
structure MapUnits (q : Req) : Prop where
  base : (q.w 0).toNat % 64 = 0
  pos  : fld (q.w 1) 40 0 ≠ 0
  size : fld (q.w 1) 40 0 % 64 = 0

/-- Whether another context maps part of a range. -/
def Chip.mappedByOther (c : Chip) (n a size : Nat) : Bool :=
  c.ctxs.any (fun e => e.1 != n && e.2.maps.any (fun m => overlap a size m.1 m.2))

/-- A context's mappings with one more, where it has fewer than 64. -/
def Chip.addMap (c : Chip) (n : Nat) (q : Req) (a size : Nat) : Chip :=
  if 64 ≤ (c.ctx n).maps.length then c.refuse n q stNoSpace
  else (c.updCtx n (fun x => { x with maps := x.maps ++ [(a, size)] })).refuse n q stOk

theorem addMap_of_space {a size : Nat} (h : (c.ctx n).maps.length < 64) :
    c.addMap n q a size = (c.updCtx n (fun x => { x with maps := x.maps ++ [(a, size)] })).refuse n q stOk :=
  if_neg (Nat.not_le.2 h)

theorem memMap_scratchpad (hm : c.boot.memOk = true) (hu : MapUnits q)
    (hw : within (q.w 0).toNat (fld (q.w 1) 40 0) spdBase 0x8000_0000 = true)
    (hx : (spdTiles (q.w 0).toNat (fld (q.w 1) 40 0)).any c.excluded = false) :
    memMap n q c = if c.mappedByOther n (q.w 0).toNat (fld (q.w 1) 40 0) then c.answer n q stNotPermitted [] 0
      else c.addMap n q (q.w 0).toNat (fld (q.w 1) 40 0) := by
  unfold memMap
  dsimp only
  rw [if_neg (by simp [hm]), if_neg (by simp [hu.base]), if_neg (by simp [hu.pos, hu.size]), if_pos hw, if_neg (by simp [hx])]
  rfl

theorem memMap_regions (hm : c.boot.memOk = true) (hu : MapUnits q)
    (hw : within (q.w 0).toNat (fld (q.w 1) 40 0) spdBase 0x8000_0000 = false)
    (hl : c.lpUser (q.w 0).toNat (fld (q.w 1) 40 0) = true) :
    memMap n q c = if covered (c.ctxRegions n) (q.w 0).toNat (fld (q.w 1) 40 0) then c.addMap n q (q.w 0).toNat (fld (q.w 1) 40 0)
      else c.answer n q stNotPermitted [] 0 := by
  unfold memMap
  dsimp only
  rw [if_neg (by simp [hm]), if_neg (by simp [hu.base]), if_neg (by simp [hu.pos, hu.size]), if_neg (by simp [hw]), if_neg (by simp [hl])]
  cases covered (c.ctxRegions n) (q.w 0).toNat (fld (q.w 1) 40 0) <;> rfl

theorem memUnmap_of_unpopulated (hm : c.boot.memOk = true) (hu : MapUnits q)
    (hp : c.unpopulated (q.w 0).toNat (fld (q.w 1) 40 0) = true) : memUnmap n q c = c.answer n q stBounds [] 0 := by
  simp [memUnmap, hm, hu.base, hu.pos, hu.size, hp]

theorem memUnmap_of_mapped (hm : c.boot.memOk = true) (hu : MapUnits q)
    (hp : c.unpopulated (q.w 0).toNat (fld (q.w 1) 40 0) = false)
    (hx : ∃ m ∈ (c.ctx n).maps, overlap (q.w 0).toNat (fld (q.w 1) 40 0) m.1 m.2 = true) :
    memUnmap n q c =
      if c.ctxRunUses n (q.w 0).toNat (fld (q.w 1) 40 0) then c.answer n q stBusy [] 0
      else if 64 < ((c.ctx n).maps.flatMap (cutOut (q.w 0).toNat (fld (q.w 1) 40 0))).length then c.refuse n q stNoSpace
      else (c.updCtx n (fun x => { x with maps := (c.ctx n).maps.flatMap (cutOut (q.w 0).toNat (fld (q.w 1) 40 0)) })).refuse n q stOk := by
  unfold memUnmap
  dsimp only
  rw [if_neg (by simp [hm]), if_neg (by simp [hu.base]), if_neg (by simp [hu.pos, hu.size]), if_neg (by simp [hp]),
    if_neg (by simpa [List.any_eq_true] using hx)]

end

/-! ### The map of R429 -/

theorem isCtx0_iff {n : Nat} : isCtx0 n = true ↔ n = 0 ∨ n = 16 := by simp [isCtx0]

/-- Every block lies above the management page and below the attestation window. -/
theorem blkOf_range {a : Nat} {x : Blk × Nat} (h : blkOf a = some x) : 0x20_0000 ≤ a ∧ a < 0x100_0000 := by
  refine Decidable.byContradiction fun hn => ?_
  rw [blkOf, if_neg (by omega), if_neg (by omega), if_neg (by omega), if_neg (by omega), if_neg (by omega), if_neg (by omega),
    if_neg (by omega)] at h
  cases h

/-- The 4 KiB page, from 0x20_0000, of a block that has one to itself. -/
def Blk.page : Blk → Option Nat
  | .tide => some 0 | .kpr => some 1 | .tray => some 2 | .lpcMod => some 3
  | .cdcMod => some 4 | .pwr => some 5 | .pan => some 6 | .jtg => some 7
  | _ => none

/-- An address of the first eight pages lies in the block of its page, at its offset there. -/
theorem page_of_blkOf_low {a o : Nat} {b : Blk} (hl : 0x20_0000 ≤ a ∧ a < 0x20_8000) (h : blkOf a = some (b, o)) :
    b.page = some ((a - 0x20_0000) / 0x1000) ∧ o = a % 0x1000 := by
  rw [blkOf, if_pos hl] at h
  have hi : (a - 0x20_0000) / 0x1000 < 8 := by omega
  generalize (a - 0x20_0000) / 0x1000 = i at h hi
  have pages : i = 0 ∨ i = 1 ∨ i = 2 ∨ i = 3 ∨ i = 4 ∨ i = 5 ∨ i = 6 ∨ i = 7 := by omega
  rcases pages with rfl | rfl | rfl | rfl | rfl | rfl | rfl | rfl <;> cases h <;> exact ⟨rfl, rfl⟩

theorem page_of_blkOf_high {a o : Nat} {b : Blk} (hl : ¬(0x20_0000 ≤ a ∧ a < 0x20_8000)) (h : blkOf a = some (b, o)) :
    b.page = none := by
  rw [blkOf, if_neg hl] at h
  repeat' split at h
  all_goals cases h <;> rfl

theorem addr_of_blkOf_page {a o : Nat} {b : Blk} {i : Nat} (h : blkOf a = some (b, o)) (hb : b.page = some i) :
    a = 0x20_0000 + 0x1000 * i + o ∧ o < 0x1000 := by
  by_cases hl : 0x20_0000 ≤ a ∧ a < 0x20_8000
  · obtain ⟨hp, ho⟩ := page_of_blkOf_low hl h
    have hi : i = (a - 0x20_0000) / 0x1000 := Option.some.inj (hb.symm.trans hp)
    omega
  · simp [page_of_blkOf_high hl h] at hb

theorem blkOf_tray {a : Nat} (h0 : 0x20_2000 ≤ a) (h1 : a < 0x20_3000) : blkOf a = some (.tray, a - 0x20_2000) := by
  have hp : (a - 0x20_0000) / 0x1000 = 2 := by omega
  have ho : a % 0x1000 = a - 0x20_2000 := by omega
  rw [blkOf, if_pos (by omega), hp, ho]
  rfl

theorem ownRow_of_tideCtrl {a : Nat} (h : blkOf a = some (.tide, 0)) : ownRow a = true := by
  obtain ⟨ha, _⟩ := addr_of_blkOf_page h rfl
  simp [ownRow, ha]

theorem ownRow_of_tray {a o : Nat} (h : blkOf a = some (.tray, o)) : ownRow a = true := by
  obtain ⟨ha, ho⟩ := addr_of_blkOf_page h rfl
  simp [ownRow, ha]
  omega

theorem ownRow_of_pwrCtrl {a : Nat} (h : blkOf a = some (.pwr, 8)) : ownRow a = true := by
  obtain ⟨ha, _⟩ := addr_of_blkOf_page h rfl
  simp [ownRow, ha]

/-! ### Register writes (R11, R85, R349, R571) -/

section
variable {c : Chip} {j : Jtag} {n a : Nat} {v : W64}

theorem regWrite_of_unaligned (h : a % 8 ≠ 0) : c.regWrite j n a v = (stBadArg, c) := if_pos h

theorem regWrite_of_mgmtPage (h : a % 8 = 0) (h0 : 0x10_0000 ≤ a) (h1 : a < 0x11_0000) : c.regWrite j n a v = (stNotPermitted, c) := by
  rw [Chip.regWrite, if_neg (by omega), if_pos ⟨h0, h1⟩]

theorem regWrite_of_attWin (h : a % 8 = 0) (h0 : 0x100_0000 ≤ a) (h1 : a < 0x120_0000) : c.regWrite j n a v = (stOk, c) := by
  rw [Chip.regWrite, if_neg (by omega), if_neg (by omega), if_pos ⟨h0, h1⟩]

theorem regWrite_of_unmapped (h : a % 8 = 0) (h0 : ¬(0x10_0000 ≤ a ∧ a < 0x11_0000)) (h1 : ¬(0x100_0000 ≤ a ∧ a < 0x120_0000))
    (hw : c.ctlWord j a = none) : c.regWrite j n a v = (stBounds, c) := by
  rw [Chip.regWrite, if_neg (by omega), if_neg h0, if_neg h1, hw]
  split
  case h_5 => rfl
  all_goals contradiction

theorem regWrite_of_tray (h : a % 8 = 0) (h0 : 0x20_2000 ≤ a) (h1 : a < 0x20_3000) (hm : (c.ctlWord j a).isSome = true) :
    c.regWrite j n a v = if isCtx0 n && c.run.isNone then (stOk, trayReg (a - 0x20_2000) v c) else (stNotPermitted, c) := by
  obtain ⟨w, hw⟩ := Option.isSome_iff_exists.1 hm
  rw [Chip.regWrite, if_neg (by omega), if_neg (by omega), if_neg (by omega), blkOf_tray h0 h1, hw]

theorem regWrite_of_tideCtrl (h : a = 0x20_0000) :
    c.regWrite j n a v = if c.tide.st == .free then (stOk, tideCtrl v c) else (stNotPermitted, c) := by
  rw [h]; rfl

theorem regWrite_of_pwrCtrl (h : a = 0x20_5008) : c.regWrite j n a v = if isCtx0 n then (stOk, pwrCtrl v c) else (stNotPermitted, c) := by
  rw [h]; rfl

/-- A register with no row of its own is in no block with a rule of its own: only its W1C bits are cleared (R11). -/
theorem regWrite_of_noOwnRow {b : Blk} {o : Nat} (h : a % 8 = 0) (hm : (c.ctlWord j a).isSome = true) (hr : ownRow a = false)
    (hb : blkOf a = some (b, o)) : c.regWrite j n a v = (stOk, c.clear b o v) := by
  obtain ⟨w, hw⟩ := Option.isSome_iff_exists.1 hm
  have own : ¬ownRow a = true := by simp [hr]
  obtain ⟨h0, h1⟩ := blkOf_range hb
  rw [Chip.regWrite, if_neg (by omega), if_neg (by omega), if_neg (by omega), hb, hw]
  split
  case h_1 heq _ => cases heq; exact absurd (ownRow_of_tideCtrl hb) own
  case h_2 heq _ => cases heq; exact absurd (ownRow_of_tray hb) own
  case h_3 heq _ => cases heq; exact absurd (ownRow_of_pwrCtrl hb) own
  case h_4 heq _ => cases heq; rfl
  case h_5 no => exact (no _ _ rfl rfl).elim

/-- cfg.write answers the status of the write, with no offset where it is taken. -/
theorem cfgWrite_of_regWrite {q : Req} {st : W16} {d : Chip} (h : c.regWrite j n (q.w 0).toNat (q.w 1) = (st, d)) :
    cfgWrite n j q c = d.answer n q st [] (if st = stOk then 0xFFFF else 0) := by
  unfold cfgWrite
  rw [h]

end

/-! ### The rows that write a register -/

section
variable {s : State} {who : Issuer} {v : W64} (hl : s.live = true)
include hl

theorem exec_registerWrite {a : Addr} (h : ownRow a.toNat = false) :
    exec (.registerWrite who a v) s = .next (after s (s.chip.regWrite s.jtag (issuerNum who) a.toNat v).2) :=
  (onChipJ_live hl fun j => Chip.when (!ownRow a.toNat) fun c => (c.regWrite j (issuerNum who) a.toNat v).2).trans (by
    rw [when_of (by rw [h]; rfl)]; rfl)

theorem exec_tideCtrlWrite :
    exec (.tideCtrlWrite who v) s = .next (after s (s.chip.regWrite s.jtag (issuerNum who) 0x20_0000 v).2) :=
  onChipJ_live hl fun j c => (c.regWrite j (issuerNum who) 0x20_0000 v).2

theorem exec_kprTrayWrite {off : BitVec 12} :
    exec (.kprTrayWrite who off v) s = .next (after s (s.chip.regWrite s.jtag (issuerNum who) (0x20_2000 + off.toNat) v).2) :=
  onChipJ_live hl fun j c => (c.regWrite j (issuerNum who) (0x20_2000 + off.toNat) v).2

theorem exec_pwrCtrlWrite :
    exec (.pwrCtrlWrite who v) s = .next (after s (s.chip.regWrite s.jtag (issuerNum who) 0x20_5008 v).2) :=
  onChipJ_live hl fun j c => (c.regWrite j (issuerNum who) 0x20_5008 v).2

end

/-! ### The effects of register writes -/

theorem toNat_ofNat3_fld (v : W64) (lo : Nat) : (BitVec.ofNat 3 (fld v (lo + 2) lo)).toNat = fld v (lo + 2) lo := by
  have hw : lo + 2 + 1 - lo = 3 := by omega
  rw [BitVec.toNat_ofNat, fld, bitsOf, hw, Nat.mod_mod]

/-- The fields that a write of TIDE_CTRL puts in place (R36, R85). -/
def Tide.ctrl (t : Tide) (v : W64) : Tide :=
  { t with refOutEn := bit v 15, refSec := if fld v 14 12 = 6 then t.refSec else BitVec.ofNat 3 (fld v 14 12),
           refPri := if 6 ≤ fld v 10 8 then t.refPri else BitVec.ofNat 3 (fld v 10 8), master := bit v 0 }

/-- A write of TIDE_CTRL picks the source again at once (DEDUCED, log 50). -/
theorem tideCtrl_eq (v : W64) (c : Chip) :
    tideCtrl v c = { c with tide := { c.tide.ctrl v with
      refActive := if (c.tide.ctrl v).pllLock then ((c.tide.ctrl v).pick).getD 7 else (c.tide.ctrl v).refActive } } := by
  have hs : BitVec.ofNat 3 (fld v 14 12) = 6 ↔ fld v 14 12 = 6 := by
    rw [BitVec.toNat_eq, toNat_ofNat3_fld v 12]; rfl
  unfold tideCtrl
  simp only [hs, toNat_ofNat3_fld v 8]
  rfl

theorem trayReg_zero (v : W64) (c : Chip) : trayReg 0 v c =
    { c with tray := { c.tray with valid := BitVec.ofNat 16 (fld v 31 16), enable := bit v 4, self := BitVec.ofNat 4 (fld v 3 0) } } := rfl

section
variable {v : W64} {c : Chip} {k : Nat} (hk : k < 16)
include hk

theorem trayReg_rid : trayReg (0x40 + 8 * k) v c =
    { c with tray := { c.tray with rid := tblPut 0 c.tray.rid k (BitVec.ofNat 16 (fld v 15 0)) } } := by
  have hi : (0x40 + 8 * k - 0x40) / 8 = k := by omega
  rw [trayReg, if_neg (by omega), if_pos (by omega), hi]

theorem trayReg_bar2 : trayReg (0x100 + 8 * k) v c =
    { c with tray := { c.tray with bar2 := tblPut 0 c.tray.bar2 k (BitVec.ofNat 32 (fld v 63 32)) } } := by
  have hi : (0x100 + 8 * k - 0x100) / 8 = k := by omega
  rw [trayReg, if_neg (by omega), if_neg (by omega), if_pos (by omega), hi]

theorem trayReg_bar4 : trayReg (0x180 + 8 * k) v c =
    { c with tray := { c.tray with bar4 := tblPut 0 c.tray.bar4 k (BitVec.ofNat 24 (fld v 63 40)) } } := by
  have hi : (0x180 + 8 * k - 0x180) / 8 = k := by omega
  rw [trayReg, if_neg (by omega), if_neg (by omega), if_neg (by omega), if_pos (by omega), hi]

end

/-! ### cfg.read (R377, R441, R490) -/

section
variable {n : Nat} {q : Req} {c : Chip} {j : Jtag}

theorem cfgRead_of_unaligned (h : (q.w 0).toNat % 8 ≠ 0) : cfgRead n j q c = c.answer n q stBadArg [] 0 := if_pos h

theorem cfgRead_of_badCount (h : (q.w 0).toNat % 8 = 0) (hk : fld (q.w 1) 8 0 = 0 ∨ 504 < fld (q.w 1) 8 0) :
    cfgRead n j q c = c.answer n q stBadArg [] 8 := by
  unfold cfgRead
  dsimp only
  rw [if_neg (by omega), if_pos hk]

/-- What a good cfg.read answers, from the words it asks for. -/
theorem cfgRead_of_words {ws : List (Option (Bool × W64))} (h : (q.w 0).toNat % 8 = 0) (h0 : fld (q.w 1) 8 0 ≠ 0) (h1 : fld (q.w 1) 8 0 ≤ 504)
    (hw : (List.range (fld (q.w 1) 8 0)).map (fun i => c.cfgWord j n ((q.w 0).toNat + 8 * i)) = ws) :
    cfgRead n j q c =
      if ws.any (fun w => (w.map (fun x => !x.1)).getD false) then c.answer n q stNotPermitted [] 0
      else if ws.any (fun w => w.isNone) then c.answer n q stBounds [] 0
      else c.okay n q (ws.map (fun w => (w.map (fun x => x.2)).getD 0)) := by
  unfold cfgRead
  dsimp only
  rw [if_neg (by omega), if_neg (by omega), hw]

end
end Sys2Proof.Machine

/-! ### The statements -/

namespace Sys2Proof
open Sys2Proof.Machine

/-- Settles O33: each clause is one case of `memAlloc`, `memFree`, `memMap` or `memUnmap`. -/
theorem memoryCommandsKeepRegionsAndMappings : Obligations.MemoryCommandsKeepRegionsAndMappings := by
  unfold Obligations.MemoryCommandsKeepRegionsAndMappings
  rintro s _ who _ q _ _ hl rfl rfl rfl rfl
  have alloc := fun hr => exec_memAlloc (who := who) (q := q) hl rfl rfl hr
  have free := fun hr => exec_memFree (who := who) (q := q) hl rfl rfl hr
  have map := fun hr hu => exec_memMap (who := who) (q := q) hl rfl rfl hr hu
  have unmap := fun hr hu => exec_memUnmap (who := who) (q := q) hl rfl rfl hr hu
  refine ⟨fun hm => ⟨?_, ?_, ?_⟩, fun hr => ⟨fun hm => ?_, fun hm => ⟨?_, ?_, ?_, ?_, ?_⟩⟩, fun hr hm => ⟨?_, ?_⟩,
    fun hr hm hu ha h0 hs => ⟨?_, ?_, ?_, ?_⟩, fun hr hm hu ha h0 hs hp => ?_, fun hr hm hu ha h0 hs hp hx => ⟨?_, ?_⟩⟩
  · intro hr; rw [free hr, memFree_of_noMemory hm]
  · intro hr hu; rw [unmap hr hu, memUnmap_of_noMemory hm]
  · intro hr hu; rw [map hr hu, memMap_of_noMemory hm]
  · rw [alloc hr, memAlloc_of_noMemory hm]
  · intro hb; rw [alloc hr, memAlloc_of_unalignedBase hm hb]
  · intro hb hs; rw [alloc hr, memAlloc_of_badSize hm hb hs]
  · intro hb h0 hs ha ho; rw [alloc hr, memAlloc_of_baseOutside hm ⟨hb, h0, hs⟩ ha ho]
  · intro hb h0 hs hi ho; rw [alloc hr, memAlloc_of_tooLarge hm ⟨hb, h0, hs⟩ hi ho]
  · intro hb h0 hs hi ho
    refine ⟨fun hp => ?_, ?_⟩
    · rw [alloc hr, memAlloc_of_noRoom hm ⟨hb, h0, hs⟩ hi ho hp]
    · rintro hsl at_ num _ hp hf hn rfl
      rw [alloc hr, memAlloc_of_room hm ⟨hb, h0, hs⟩ hi ho hsl hp hf hn]
  · intro hg; rw [free hr, memFree_of_noRegion hm hg]
  · intro r hg
    have answer := memFree_of_region (n := issuerNum who) hm hg
    rw [free hr]
    exact ⟨fun hb => by rw [answer.trans (if_pos hb)], fun hb => by rw [answer.trans (if_neg (ne_true_of_eq_false hb))]⟩
  · intro hw hx ho
    rw [map hr hu, (memMap_scratchpad hm ⟨ha, h0, hs⟩ hw hx).trans (if_pos ho)]
  · intro hw hx ho hn
    rw [map hr hu, (memMap_scratchpad hm ⟨ha, h0, hs⟩ hw hx).trans (if_neg (ne_true_of_eq_false ho)), addMap_of_space hn]
  · intro hw hi hc
    rw [map hr hu, memMap_regions hm ⟨ha, h0, hs⟩ hw hi, if_neg (ne_true_of_eq_false hc)]
  · intro hw hi hc hn
    rw [map hr hu, memMap_regions hm ⟨ha, h0, hs⟩ hw hi, if_pos hc, addMap_of_space hn]
  · rw [unmap hr hu, memUnmap_of_unpopulated hm ⟨ha, h0, hs⟩ hp]
  · intro hb; rw [unmap hr hu, memUnmap_of_mapped hm ⟨ha, h0, hs⟩ hp hx, if_pos hb]
  · intro hb hn; rw [unmap hr hu, memUnmap_of_mapped hm ⟨ha, h0, hs⟩ hp hx, if_neg (ne_true_of_eq_false hb), if_neg (by omega)]

/-- Settles O40: every write rule is one case of `Chip.regWrite`, which cfg.write and the register rows share. -/
theorem registersAreReadAndWrittenByTheirRules : Obligations.RegistersAreReadAndWrittenByTheirRules := by
  unfold Obligations.RegistersAreReadAndWrittenByTheirRules
  refine ⟨?_, ?_, ?_⟩
  · rintro s _ who _ q _ _ hl rfl rfl hr rfl rfl
    rw [exec_cfgRead hl rfl rfl hr]
    refine ⟨fun ha => by rw [cfgRead_of_unaligned ha], fun ha hk => by rw [cfgRead_of_badCount ha hk], ?_⟩
    intro ha h0 h1 ws hw
    rw [cfgRead_of_words ha h0 h1 hw]
    exact ⟨fun hp => by rw [if_pos hp], fun hp hb => by rw [if_neg (ne_true_of_eq_false hp), if_pos hb],
      fun hp hb => by rw [if_neg (ne_true_of_eq_false hp), if_neg (ne_true_of_eq_false hb)]⟩
  · rintro s _ who _ a v st d hl rfl rfl hrule
    have tide : a = 0x20_0000 → a.toNat = 0x20_0000 := fun h => by simp [h]
    have pwr : a = 0x20_5008 → a.toNat = 0x20_5008 := fun h => by simp [h]
    have key : s.chip.regWrite s.jtag (issuerNum who) a.toNat v = (st, d) := by
      rcases hrule with ⟨h, rfl, rfl⟩ | ⟨h, h0, h1, rfl, rfl⟩ | ⟨h, h0, h1, rfl, rfl⟩ | ⟨h, h0, h1, hw, rfl, rfl⟩ | ⟨ha, hf, rfl, rfl⟩ |
        ⟨ha, hf, rfl, _, rfl, rfl⟩ | ⟨h0, h1, h, hm, hp, rfl, rfl⟩ | ⟨h0, h1, h, hm, hn, hr, rfl, hd⟩ | ⟨ha, hn, rfl, rfl⟩ |
        ⟨ha, hn, rfl, rfl⟩ | ⟨h, hm, ho, rfl, b, o, hb, rfl⟩
      · exact regWrite_of_unaligned h
      · exact regWrite_of_mgmtPage h h0 h1
      · exact regWrite_of_attWin h h0 h1
      · exact regWrite_of_unmapped h h0 h1 hw
      · rw [regWrite_of_tideCtrl (tide ha), if_neg (by simpa using hf)]
      · rw [regWrite_of_tideCtrl (tide ha), if_pos (by simp [hf]), tideCtrl_eq]; rfl
      · rw [regWrite_of_tray h h0 h1 hm, if_neg (by simpa [isCtx0_iff] using hp)]
      · rw [regWrite_of_tray h h0 h1 hm, if_pos (by simp [isCtx0_iff, hn, hr]), hd]
      · rw [regWrite_of_pwrCtrl (pwr ha), if_neg (by rwa [isCtx0_iff])]
      · rw [regWrite_of_pwrCtrl (pwr ha), if_pos (isCtx0_iff.2 hn)]; rfl
      · exact regWrite_of_noOwnRow h hm ho hb
    refine ⟨fun q hr ha hv => ?_, fun ho => ?_, fun ha => ?_, fun off ha => ?_, fun ha => ?_⟩
    · rw [exec_cfgWrite hl rfl rfl hr, cfgWrite_of_regWrite (by rw [ha, hv, key])]
    · rw [exec_registerWrite hl ho, key]
    · rw [exec_tideCtrlWrite hl, ← tide ha, key]
    · rw [exec_kprTrayWrite hl, ← ha, key]
    · rw [exec_pwrCtrlWrite hl, ← pwr ha, key]
  · exact fun v c k hk => ⟨trayReg_zero v c, trayReg_rid hk, trayReg_bar2 hk, trayReg_bar4 hk⟩

end Sys2Proof
end

section
/-! PROOFS of the family 03_circulation: the frame of a command on the oldest transaction of a strait, FERRY, FERRY_WRITTEN and
FERRY_HOLD_STALL, RWRITE, and the two statements. -/
namespace Sys2Proof.Machine

/-! ### The oldest transaction of a receive buffer (R400, R421) -/

theorem after_chip (s : State) : after s s.chip = s := rfl

section
variable {c : Chip} {st : Strait} {vc : BitVec 2} {ty : Nat} {k : Nat → Bool} {f : Chip → RxTxn → Chip}

theorem onRx_of_none (h : c.headRx st vc ty k = none) : c.onRx st vc ty k f = c := by
  rw [Chip.onRx, h]

theorem onRx_of_badBody {r : RxTxn} (h : c.headRx st vc ty k = some r) (hb : txnBodyOk r.txn.bytes = false) :
    c.onRx st vc ty k f = (c.popRx st vc).freezeBy st 0x02 r.txn.bytes 0 := by
  rw [Chip.onRx, h]
  exact if_neg (ne_true_of_eq_false hb)

end

section
variable {s : State} {st : Strait} (hl : s.live = true)
include hl

theorem exec_ferry : exec (.ferry st) s = .next (after s (ferry st s.chip)) := onChip_live hl _
theorem exec_ferryWritten : exec (.ferryWritten st) s = .next (after s (ferryWritten st s.chip)) := onChip_live hl _
theorem exec_ferryHoldStall : exec (.ferryHoldStall st) s = .next (after s (ferryHoldStall st Chip.stallLimit s.chip)) := onChip_live hl _
theorem exec_rwrite : exec (.rwrite st) s = .next (after s (rwrite st s.chip)) := onChip_live hl _

end

/-! ### FERRY (R99, R103) -/

section
variable {c : Chip} {st : Strait} {r : RxTxn}

theorem ferry_of_ready (h : Arrived c st 0 1 (fun _ => true) r) (hr : r.ready = true) : ferry st c = c :=
  (onRx_arrived h).trans (if_pos hr)

/-- What a ferry that is not ready comes to, by the verdict of R99. -/
def Chip.takeFerry (c : Chip) (st : Strait) (r : RxTxn) : FerryIs → Chip
  | .malformed => (c.popRx st 0).freezeBy st 0x02 r.txn.bytes 0
  | .unplanned => (c.popRx st 0).freezeBy st 0x01 r.txn.bytes 0
  | .stale => (c.popRx st 0).updStr st (fun x => { x with ferryStale := x.ferryStale + 1 })
  | .held _ => c.updStr st (fun x => x.markHead 0 (fun r => { r with held := true }))
  | .write _ => c.updStr st (fun x => x.markHead 0 (fun r => { r with held := false, ready := true }))

theorem ferry_of_judged (h : Arrived c st 0 1 (fun _ => true) r) (hr : r.ready = false) {v : FerryIs} (hj : c.judgeFerry st r = v) :
    ferry st c = c.takeFerry st r v := by
  subst hj
  refine (onRx_arrived h).trans ((if_neg (ne_true_of_eq_false hr)).trans ?_)
  cases c.judgeFerry st r <;> rfl

/-! ### FERRY_WRITTEN (R72, R97, R102, R234, R355) -/

theorem ferryWritten_of_notReady (h : Arrived c st 0 1 (fun _ => true) r) (hr : r.ready = false) : ferryWritten st c = c :=
  (onRx_arrived h).trans (if_pos (by simp [hr]))

/-- The oldest transaction is a ferry ready to land in region k, berth b, of the run. -/
structure FerryLands (c : Chip) (st : Strait) (r : RxTxn) (k : Nat) (run : Run) (b : Berth) : Prop where
  arrived : Arrived c st 0 1 (fun _ => true) r
  ready   : r.ready = true
  judged  : c.judgeFerry st r = .write k
  running : c.run = some run
  berth   : run.berths[k]? = some b

/-- Where in a berth a ferry lands: at the place of its index. -/
def ferryPlace (b : Berth) (r : RxTxn) : Nat := b.base + fld (wordAt r.txn.bytes 8) 15 4 * b.flen * 64

/-- A ferry's bytes in its berth, its index marked as arrived, its buffer place freed and its landing traced. -/
def Chip.landFerry (c : Chip) (st : Strait) (r : RxTxn) (k : Nat) (b : Berth) : Chip :=
  (((c.landRaw otherReader (ferryPlace b r) (r.txn.bytes.drop 32) (piecesBad r.txn.poison)).updBerth k
    (fun b => { b with got := setAdd b.got (fld (wordAt r.txn.bytes 8) 15 4) })).popRx st 0).traceCmd 6 (straitNum st) 2 0 0 0 0
      (BitVec.ofNat 64 (r.txn.bytes.drop 32).length) 0

/-- A ferry's count at an object of a tile, none where the tile has no run or the object does not take it. -/
def Chip.countFerry (c : Chip) (st : Strait) (r : RxTxn) (t o : Nat) : Option Chip :=
  if c.runsOn t then c.syncApply (rankStrait st) t o (.count (r.txn.bytes.drop 32).length 1) 3 3 else none

section
variable {k : Nat} {run : Run} {b : Berth} (h : FerryLands c st r k run b)
include h

theorem ferryWritten_of_lands : ferryWritten st c =
    if c.shutRange (ferryPlace b r) (r.txn.bytes.drop 32).length then c
    else if !c.reachable (ferryPlace b r) (r.txn.bytes.drop 32).length then (c.popRx st 0).freezeBy st 0x01 r.txn.bytes (ferryPlace b r)
    else if fld (wordAt r.txn.bytes 16) 17 12 = 63 then c.landFerry st r k b
    else ((c.landFerry st r k b).countFerry st r (fld (wordAt r.txn.bytes 16) 29 18) (fld (wordAt r.txn.bytes 16) 17 12)).getD
      ((c.landFerry st r k b).freezeBy st 0x01 r.txn.bytes (portAddr (fld (wordAt r.txn.bytes 16) 29 18) (fld (wordAt r.txn.bytes 16) 17 12))) := by
  obtain ⟨arrived, ready, judged, running, berth⟩ := h
  refine (onRx_arrived arrived).trans ((if_neg (by simp [ready])).trans ?_)
  rw [judged, running]
  dsimp only
  rw [berth]
  dsimp only
  refine ite_congr rfl (fun _ => rfl) fun _ => ite_congr rfl (fun _ => rfl) fun _ => ite_congr rfl (fun _ => rfl) fun _ => ?_
  split <;> rename_i counted <;> exact (congrArg (fun x => Option.getD x _) counted).symm

theorem ferryWritten_of_shut (hs : c.shutRange (ferryPlace b r) (r.txn.bytes.drop 32).length = true) : ferryWritten st c = c :=
  (ferryWritten_of_lands h).trans (if_pos hs)

variable (hs : c.shutRange (ferryPlace b r) (r.txn.bytes.drop 32).length = false)
include hs

theorem ferryWritten_of_unreachable (hr : c.reachable (ferryPlace b r) (r.txn.bytes.drop 32).length = false) :
    ferryWritten st c = (c.popRx st 0).freezeBy st 0x01 r.txn.bytes (ferryPlace b r) := by
  rw [ferryWritten_of_lands h, if_neg (ne_true_of_eq_false hs), if_pos (by rw [hr]; rfl)]

variable (hr : c.reachable (ferryPlace b r) (r.txn.bytes.drop 32).length = true)
include hr

theorem ferryWritten_of_noObject (ho : fld (wordAt r.txn.bytes 16) 17 12 = 63) : ferryWritten st c = c.landFerry st r k b := by
  rw [ferryWritten_of_lands h, if_neg (ne_true_of_eq_false hs), if_neg (by rw [hr]; exact Bool.false_ne_true), if_pos ho]

theorem ferryWritten_of_object (ho : fld (wordAt r.txn.bytes 16) 17 12 ≠ 63) {out : Option Chip}
    (hc : (c.landFerry st r k b).countFerry st r (fld (wordAt r.txn.bytes 16) 29 18) (fld (wordAt r.txn.bytes 16) 17 12) = out) :
    ferryWritten st c = out.getD
      ((c.landFerry st r k b).freezeBy st 0x01 r.txn.bytes (portAddr (fld (wordAt r.txn.bytes 16) 29 18) (fld (wordAt r.txn.bytes 16) 17 12))) := by
  rw [ferryWritten_of_lands h, if_neg (ne_true_of_eq_false hs), if_neg (by rw [hr]; exact Bool.false_ne_true), if_neg ho, hc]

end

theorem countFerry_of_runs {t o : Nat} (h : c.runsOn t = true) :
    c.countFerry st r t o = c.syncApply (rankStrait st) t o (.count (r.txn.bytes.drop 32).length 1) 3 3 := if_pos h

theorem countFerry_eq_none {t o : Nat}
    (h : c.runsOn t = false ∨ c.syncApply (rankStrait st) t o (.count (r.txn.bytes.drop 32).length 1) 3 3 = none) :
    c.countFerry st r t o = none := by
  unfold Chip.countFerry
  cases h with
  | inl off => exact if_neg (ne_true_of_eq_false off)
  | inr refused => rw [refused, ite_self]

/-! ### FERRY_HOLD_STALL (R103) -/

/-- The count from which a held ferry's stall limit runs: the start of the step of its tag. -/
def Chip.ferryFrom (c : Chip) (run : Run) (r : RxTxn) : Nat :=
  c.mark (run.steps.getD ((BitVec.ofNat 32 (fld (wordAt r.txn.bytes 8) 63 32) - run.first.setWidth 32).toNat) run.endOff)

/-- A held ferry's stall marked and raised. -/
def Chip.raiseFerryStall (c : Chip) (st : Strait) (from_ : Nat) : Chip :=
  (c.updStr st (fun x => x.markHead 0 (fun r => { r with stalled := true }))).evStr st 0x0204 (mkWord [(40, 8, 6)]) (BitVec.ofNat 64 from_)

/-- The tiles whose registered reads keep a berth's reservation open freeze. -/
def Chip.freezeReaders (c : Chip) (b : Berth) : Chip := (c.openReads b).foldl (fun c e => c.freezeTile e.1 0x0C e.2.id e.2.opB false) c

theorem ferryHoldStall_of_empty {limit : Chip → Nat → Nat} (h : (c.str st).rxF = [] ∨ c.run = none) : ferryHoldStall st limit c = c := by
  unfold ferryHoldStall
  cases h with
  | inl empty => rw [empty]
  | inr idle => rw [idle]; cases (c.str st).rxF <;> rfl

section
variable {rest : List RxTxn} {run : Run} {k : Nat} {limit : Chip → Nat → Nat}
  (hx : (c.str st).rxF = r :: rest) (hr : c.run = some run) (hj : c.judgeFerry st r = .held k)
include hx hr hj

theorem ferryHoldStall_of_held : ferryHoldStall st limit c =
    if r.stalled || !r.held || decide (c.now < limit c (c.ferryFrom run r)) then c
    else (run.berths[k]?.map (c.raiseFerryStall st (c.ferryFrom run r)).freezeReaders).getD (c.raiseFerryStall st (c.ferryFrom run r)) := by
  unfold ferryHoldStall
  rw [hx, hr]
  dsimp only
  rw [hj]
  refine ite_congr rfl (fun _ => rfl) fun _ => ?_
  cases run.berths[k]? <;> rfl

theorem ferryHoldStall_of_notDue (h : r.stalled = true ∨ r.held = false ∨ c.now < limit c (c.ferryFrom run r)) :
    ferryHoldStall st limit c = c :=
  (ferryHoldStall_of_held hx hr hj).trans (if_pos (by simpa [or_assoc] using h))

theorem ferryHoldStall_of_due (h0 : r.stalled = false) (h1 : r.held = true) (h2 : limit c (c.ferryFrom run r) ≤ c.now) {b : Option Berth}
    (hb : run.berths[k]? = b) : ferryHoldStall st limit c =
      (b.map (c.raiseFerryStall st (c.ferryFrom run r)).freezeReaders).getD (c.raiseFerryStall st (c.ferryFrom run r)) := by
  rw [ferryHoldStall_of_held hx hr hj, if_neg (by simpa [h0, h1] using h2), hb]

end
end

/-! ### RWRITE: its fields and what is judged of them (R110, R111, R124, R402) -/

/-- The address of an RWRITE. -/
def rwAddr (bs : List Byte) : Nat := fld (wordAt bs 8) 47 0
/-- The bytes it covers once decoded. -/
def rwSpan (bs : List Byte) : Nat := if fld (wordAt bs 8) 59 58 = 0 then txnLen bs else 4096
/-- The tile whose object its LAST updates. -/
def rwTile (bs : List Byte) : Nat := fld (wordAt bs 16) 29 18
/-- That object, 63 for none. -/
def rwSync (bs : List Byte) : Nat := fld (wordAt bs 16) 17 12
/-- The command that its LAST completes. -/
def rwId (bs : List Byte) : W16 := BitVec.ofNat 16 (fld (wordAt bs 16) 63 48)
/-- The update its LAST makes. -/
def rwCount (bs : List Byte) : SyncUpd := .count (fld (wordAt bs 24) 31 0) (fld (wordAt bs 24) 63 48)

/-- A coded length that is not its code's, a coded address off its group, or flags and counts that do not belong together. -/
def rwMalformed (bs : List Byte) : Bool :=
  (decide (fld (wordAt bs 8) 59 58 ≠ 0) && (decide (txnLen bs ≠ cdcLen (fld (wordAt bs 8) 59 58)) || decide (rwAddr bs % 4096 ≠ 0))) ||
    ((decide (txnFlags bs / 2 % 2 = 1) && !decide (txnFlags bs % 2 = 1)) ||
      (!decide (txnFlags bs % 2 = 1) && (decide (fld (wordAt bs 24) 63 48 ≠ 0) || decide (fld (wordAt bs 24) 31 0 ≠ 0))))

/-- A cross strait's LAST record for an earlier generation of its tile. -/
def Chip.rwStale (c : Chip) (st : Strait) (bs : List Byte) : Bool :=
  !straitMain st && decide (txnFlags bs % 2 = 1) && (c.recordFor st (rwTile bs) (rwId bs) (rwAddr bs)).isSome && c.staleId (rwTile bs) (rwId bs)

/-- Its LAST, if it is one, updates no object or one that takes the update. -/
def Chip.rwCountTaken (c : Chip) (st : Strait) (bs : List Byte) : Prop :=
  txnFlags bs % 2 ≠ 1 ∨ rwSync bs = 63 ∨ c.maySync (fun x => x.names st) (rwTile bs) (rwSync bs) (rwCount bs) = true

section
variable {c : Chip} {st : Strait} {r : RxTxn}

theorem rwriteJudge_of_malformed (h : rwMalformed r.txn.bytes = true) :
    rwriteJudge st c r = (c.popRx st 1).freezeBy st 0x02 r.txn.bytes (rwAddr r.txn.bytes) := if_pos h

section
variable (hm : rwMalformed r.txn.bytes = false)
include hm

theorem rwriteJudge_of_stale (h : c.rwStale st r.txn.bytes = true) :
    rwriteJudge st c r = ((c.popRx st 1).countStale (rwTile r.txn.bytes)).recordBack st (rwTile r.txn.bytes) (rwId r.txn.bytes) (rwAddr r.txn.bytes) :=
  (if_neg (ne_true_of_eq_false hm)).trans (if_pos h)

theorem rwriteJudge_of_waiting (hs : c.rwStale st r.txn.bytes = false) (h : c.waitsForRun st = true) :
    rwriteJudge st c r = c.updStr st (fun x => x.markHead 1 (fun r => { r with held := true })) :=
  (if_neg (ne_true_of_eq_false hm)).trans ((if_neg (ne_true_of_eq_false hs)).trans (if_pos h))

end

/-- A well-formed RWRITE of the present generation that waits for no run. -/
structure RwCurrent (c : Chip) (st : Strait) (bs : List Byte) : Prop where
  formed  : rwMalformed bs = false
  current : c.rwStale st bs = false
  waits   : c.waitsForRun st = false

theorem rwriteJudge_of_window (h : RwCurrent c st r.txn.bytes) (h0 : 0x0100_0000 ≤ rwAddr r.txn.bytes) (h1 : rwAddr r.txn.bytes < 0x0120_0000) :
    rwriteJudge st c r = c.windowWrite st r := by
  obtain ⟨formed, current, waits⟩ := h
  exact (if_neg (ne_true_of_eq_false formed)).trans ((if_neg (ne_true_of_eq_false current)).trans
    ((if_neg (ne_true_of_eq_false waits)).trans (if_pos ⟨h0, h1⟩)))

/-- A current RWRITE to an address outside the attention windows. -/
structure RwToMemory (c : Chip) (st : Strait) (bs : List Byte) : Prop extends RwCurrent c st bs where
  outside : rwAddr bs < 0x0100_0000 ∨ 0x0120_0000 ≤ rwAddr bs

/-- It passes every test before the one for a run. -/
theorem RwToMemory.skip {bs : List Byte} (h : RwToMemory c st bs) {v w x y out : Chip} :
    (if rwMalformed bs then v else if c.rwStale st bs then w else if c.waitsForRun st then x
      else if 0x0100_0000 ≤ rwAddr bs ∧ rwAddr bs < 0x0120_0000 then y else out) = out := by
  obtain ⟨⟨formed, current, waits⟩, outside⟩ := h
  rw [if_neg (ne_true_of_eq_false formed), if_neg (ne_true_of_eq_false current), if_neg (ne_true_of_eq_false waits), if_neg (by omega)]

section
variable (h : RwToMemory c st r.txn.bytes)
include h

theorem rwriteJudge_of_noRun (hr : c.run = none) :
    rwriteJudge st c r = (c.popRx st 1).freezeBy st 0x01 r.txn.bytes (rwAddr r.txn.bytes) := by
  refine h.skip.trans ?_
  rw [hr]
  rfl

/-- The checks under a run, in their order. -/
theorem rwriteJudge_of_run {run : Run} (hr : c.run = some run) : rwriteJudge st c r =
    if !run.mayWrite (fun x => x.names st) (decide (4 ≤ txnFlags r.txn.bytes)) (rwAddr r.txn.bytes) (rwSpan r.txn.bytes) ||
        !c.reachable (rwAddr r.txn.bytes) (rwSpan r.txn.bytes) then (c.popRx st 1).freezeBy st 0x01 r.txn.bytes (rwAddr r.txn.bytes)
    else if decide (txnFlags r.txn.bytes % 2 = 1) && rwSync r.txn.bytes != 63 &&
        !c.maySync (fun x => x.names st) (rwTile r.txn.bytes) (rwSync r.txn.bytes) (rwCount r.txn.bytes) then
      (c.popRx st 1).freezeBy st 0x01 r.txn.bytes (portAddr (rwTile r.txn.bytes) (rwSync r.txn.bytes))
    else if c.partGroup (rwAddr r.txn.bytes) (rwSpan r.txn.bytes) then (c.popRx st 1).freezeBy st 0x02 r.txn.bytes (rwAddr r.txn.bytes)
    else if c.shutRange (rwAddr r.txn.bytes) (rwSpan r.txn.bytes) then c
    else c.rwriteLand st r := by
  refine h.skip.trans ?_
  rw [hr]
  rfl

end

theorem rwriteJudge_of_unplanned (h : RwToMemory c st r.txn.bytes) {run : Run} (hr : c.run = some run)
    (hp : run.mayWrite (fun x => x.names st) (decide (4 ≤ txnFlags r.txn.bytes)) (rwAddr r.txn.bytes) (rwSpan r.txn.bytes) = false ∨
      c.reachable (rwAddr r.txn.bytes) (rwSpan r.txn.bytes) = false) :
    rwriteJudge st c r = (c.popRx st 1).freezeBy st 0x01 r.txn.bytes (rwAddr r.txn.bytes) :=
  (rwriteJudge_of_run h hr).trans (if_pos (by simpa using hp))

/-- An RWRITE to memory that the run exports to its strait and that can be reached. -/
structure RwExported (c : Chip) (st : Strait) (bs : List Byte) (run : Run) : Prop extends RwToMemory c st bs where
  running : c.run = some run
  planned : run.mayWrite (fun x => x.names st) (decide (4 ≤ txnFlags bs)) (rwAddr bs) (rwSpan bs) = true
  reached : c.reachable (rwAddr bs) (rwSpan bs) = true

section
variable {run : Run} (h : RwExported c st r.txn.bytes run)
include h

theorem rwriteJudge_of_countRefused (hl : txnFlags r.txn.bytes % 2 = 1) (ho : rwSync r.txn.bytes ≠ 63)
    (hc : c.maySync (fun x => x.names st) (rwTile r.txn.bytes) (rwSync r.txn.bytes) (rwCount r.txn.bytes) = false) :
    rwriteJudge st c r = (c.popRx st 1).freezeBy st 0x01 r.txn.bytes (portAddr (rwTile r.txn.bytes) (rwSync r.txn.bytes)) := by
  rw [rwriteJudge_of_run h.toRwToMemory h.running, if_neg (by simp [h.planned, h.reached]), if_pos (by simp [hl, ho, hc])]

variable (hc : c.rwCountTaken st r.txn.bytes)
include hc

theorem rwriteJudge_of_countTaken : rwriteJudge st c r =
    if c.partGroup (rwAddr r.txn.bytes) (rwSpan r.txn.bytes) then (c.popRx st 1).freezeBy st 0x02 r.txn.bytes (rwAddr r.txn.bytes)
    else if c.shutRange (rwAddr r.txn.bytes) (rwSpan r.txn.bytes) then c
    else c.rwriteLand st r := by
  rw [rwriteJudge_of_run h.toRwToMemory h.running, if_neg (by simp [h.planned, h.reached]), if_neg]
  rcases hc with hl | ho | hm
  · simp [hl]
  · simp [ho]
  · simp [hm]

theorem rwriteJudge_of_partGroup (hp : c.partGroup (rwAddr r.txn.bytes) (rwSpan r.txn.bytes) = true) :
    rwriteJudge st c r = (c.popRx st 1).freezeBy st 0x02 r.txn.bytes (rwAddr r.txn.bytes) :=
  (rwriteJudge_of_countTaken h hc).trans (if_pos hp)

variable (hp : c.partGroup (rwAddr r.txn.bytes) (rwSpan r.txn.bytes) = false)
include hp

theorem rwriteJudge_of_shut (hs : c.shutRange (rwAddr r.txn.bytes) (rwSpan r.txn.bytes) = true) : rwriteJudge st c r = c :=
  (rwriteJudge_of_countTaken h hc).trans ((if_neg (ne_true_of_eq_false hp)).trans (if_pos hs))

theorem rwriteJudge_of_free (hs : c.shutRange (rwAddr r.txn.bytes) (rwSpan r.txn.bytes) = false) : rwriteJudge st c r = c.rwriteLand st r :=
  (rwriteJudge_of_countTaken h hc).trans ((if_neg (ne_true_of_eq_false hp)).trans (if_neg (ne_true_of_eq_false hs)))

end

/-! ### RWRITE: what lands and what its LAST does (R110, R326, R352, R403) -/

/-- What follows a landing: a LAST is traced, counted and acknowledged unless its sum owes that, and a cross strait's is recorded. -/
def Chip.rwEnd (c : Chip) (st : Strait) (bs : List Byte) (owed : Bool) : Chip :=
  let d := if txnFlags bs % 2 = 1 then c.traceCmd 6 (straitNum st) 2 1 (fld (wordAt bs 16) 63 48) 0 0 (wordAt bs 24) 0 else c
  let e := if txnFlags bs % 2 = 1 ∧ owed = false then d.rwriteLast st bs else d
  if txnFlags bs % 2 = 1 ∧ straitMain st = false then e.recordBack st (rwTile bs) (rwId bs) (rwAddr bs) else e

/-- The debt that the LAST of an accumulating RWRITE leaves with its sum. -/
def rwDebt (st : Strait) (bs : List Byte) : AowDebt :=
  { strait := st, tile := rwTile bs, sync := rwSync bs, bytes := fld (wordAt bs 24) 31 0, pkts := fld (wordAt bs 24) 63 48,
    ack := decide (txnFlags bs / 2 % 2 = 1), srcTile := fld (wordAt bs 16) 47 36, cmdId := rwId bs }

/-- The accumulation of an RWRITE whose bytes have left the buffer, and whether its sum owes the LAST's effects. -/
def Chip.rwSum (c : Chip) (st : Strait) (bs data : List Byte) (pz : Nat → Nat → Bool) : Option (Chip × Bool) :=
  c.aowArrive (rwAddr bs, data.length) (rwAddr bs) data pz (fld (wordAt bs 8) 63 60) (2 ^ 48 * (1 + straitNum st) + fld (wordAt bs 16) 63 36)
    (if txnFlags bs % 2 = 1 then fld (wordAt bs 24) 31 0 else 0) (if txnFlags bs % 2 = 1 then some (rwDebt st bs) else none)

variable {raw : Chip × List Byte × (Nat → Nat → Bool)} (hr : c.rwriteRaw st r = raw)
include hr

theorem rwriteLand_of_plain (h : txnFlags r.txn.bytes < 4) : c.rwriteLand st r =
    ((raw.1.popRx st 1).landRaw otherReader (rwAddr r.txn.bytes) raw.2.1 raw.2.2).rwEnd st r.txn.bytes false := by
  subst hr
  unfold Chip.rwriteLand
  dsimp only
  rw [if_neg (by omega)]
  simp [Chip.rwEnd, rwTile, rwId, rwAddr]

theorem rwriteLand_of_accum (h : 4 ≤ txnFlags r.txn.bytes) : c.rwriteLand st r =
    (((raw.1.popRx st 1).rwSum st r.txn.bytes raw.2.1 raw.2.2).map (fun x => x.1.rwEnd st r.txn.bytes x.2)).getD
      ((raw.1.popRx st 1).freezeBy st 0x01 r.txn.bytes (rwAddr r.txn.bytes)) := by
  subst hr
  unfold Chip.rwriteLand Chip.rwSum Chip.rwEnd rwDebt rwAddr rwTile rwSync rwId
  dsimp only
  rw [if_pos h]
  simp only [decide_eq_true_eq]
  split <;> rename_i sum <;> rw [sum]
  · rfl
  · simp

theorem rwriteLand_of_sumRefused (h : 4 ≤ txnFlags r.txn.bytes) (hs : (raw.1.popRx st 1).rwSum st r.txn.bytes raw.2.1 raw.2.2 = none) :
    c.rwriteLand st r = (raw.1.popRx st 1).freezeBy st 0x01 r.txn.bytes (rwAddr r.txn.bytes) := by
  rw [rwriteLand_of_accum hr h, hs]
  rfl

theorem rwriteLand_of_sum (h : 4 ≤ txnFlags r.txn.bytes) {e : Chip} {owed : Bool}
    (hs : (raw.1.popRx st 1).rwSum st r.txn.bytes raw.2.1 raw.2.2 = some (e, owed)) :
    c.rwriteLand st r = e.rwEnd st r.txn.bytes owed := by
  rw [rwriteLand_of_accum hr h, hs]
  rfl

end
end Sys2Proof.Machine

/-! ### The statements -/

namespace Sys2Proof
open Sys2Proof.Machine

/-- Settles O44: the verdict of R99 decides FERRY, and a ready ferry lands, is shut out or freezes its strait. -/
theorem ferriesLandInTheirBerths : Obligations.FerriesLandInTheirBerths := by
  unfold Obligations.FerriesLandInTheirBerths
  rintro s _ st hl rfl
  rw [exec_ferry hl, exec_ferryWritten hl, exec_ferryHoldStall hl]
  refine ⟨fun hn => ?_, fun r hh hb => ?_, fun r hh hb => ?_, ?_, ?_⟩
  · rw [ferry, ferryWritten, onRx_of_none hn, onRx_of_none hn]
    exact ⟨rfl, rfl⟩
  · rw [ferry, ferryWritten, onRx_of_badBody hh hb, onRx_of_badBody hh hb]
    exact ⟨rfl, rfl⟩
  · have arrived : Arrived s.chip st 0 1 (fun _ => true) r := ⟨hh, hb⟩
    refine ⟨fun hr => ?_, fun hr => ?_, fun hr => ?_, ?_, ?_⟩
    · rw [ferry_of_ready arrived hr, after_chip]
    · rw [ferryWritten_of_notReady arrived hr, after_chip]
    · have judged := fun v => ferry_of_judged (v := v) arrived hr
      refine ⟨fun hj => ?_, fun hj => ?_, fun hj => ?_, fun k hj => ?_, fun k hj => ?_⟩ <;> rw [judged _ hj] <;> rfl
    · rintro k run b _ hr hj hrun hk rfl
      have lands : FerryLands s.chip st r k run b := ⟨arrived, hr, hj, hrun, hk⟩
      refine ⟨fun hs => ?_, fun hs ha => ?_⟩
      · rw [ferryWritten_of_shut lands hs, after_chip]
      · rw [ferryWritten_of_unreachable lands hs ha]
        rfl
    · rintro k run b _ _ _ _ hr hj hrun hk rfl rfl rfl hs ha rfl
      have lands : FerryLands s.chip st r k run b := ⟨arrived, hr, hj, hrun, hk⟩
      refine ⟨fun ho => ?_, fun ho hc => ?_, fun ho hrun e hc => ?_⟩
      · rw [ferryWritten_of_noObject lands hs ha ho]
        rfl
      · rw [ferryWritten_of_object lands hs ha ho (countFerry_eq_none hc)]
        rfl
      · rw [ferryWritten_of_object lands hs ha ho ((countFerry_of_runs hrun).trans hc)]
        rfl
  · rintro r rest run k _ hx hrun hj rfl
    refine ⟨fun h => ?_, ?_⟩
    · rw [ferryHoldStall_of_notDue hx hrun hj h, after_chip]
    · rintro h0 h1 h2 _ rfl
      exact ⟨fun b hb => by rw [ferryHoldStall_of_due hx hrun hj h0 h1 h2 hb]; rfl,
        fun hb => by rw [ferryHoldStall_of_due hx hrun hj h0 h1 h2 hb]; rfl⟩
  · intro h
    rw [ferryHoldStall_of_empty h, after_chip]

/-- Settles O45: the checks of an RWRITE in their order, then its landing or its sum, then what its LAST does. -/
theorem remoteWritesAreJudgedLandedAndCounted : Obligations.RemoteWritesAreJudgedLandedAndCounted := by
  unfold Obligations.RemoteWritesAreJudgedLandedAndCounted
  rintro s _ st hl rfl
  rw [exec_rwrite hl]
  refine ⟨fun hn => ?_, fun r hh hb => ?_, ?_⟩
  · rw [rwrite, onRx_of_none hn, after_chip]
  · rw [rwrite, onRx_of_badBody hh hb]
  · rintro r _ _ _ _ _ _ _ _ _ hh hb rfl rfl rfl rfl rfl rfl rfl rfl rfl _ rfl
    rw [rwrite, onRx_arrived ⟨hh, hb⟩]
    refine ⟨fun hm => ?_, ?_⟩
    · rw [rwriteJudge_of_malformed hm]
      rfl
    rintro _ rfl
    refine ⟨fun hm hs => ?_, fun hm hs hw => ?_, fun hm hs hw h0 h1 => ?_, fun hm hs hw ho => ?_⟩
    · rw [rwriteJudge_of_stale hm hs]
      rfl
    · rw [rwriteJudge_of_waiting hm hs hw]
    · rw [rwriteJudge_of_window ⟨hm, hs, hw⟩ h0 h1]
    have memory : RwToMemory s.chip st r.txn.bytes := ⟨⟨hm, hs, hw⟩, ho⟩
    refine ⟨fun hn => ?_, fun run hrun => ⟨fun hp => ?_, fun hp ha => ?_⟩⟩
    · rw [rwriteJudge_of_noRun memory hn]
      rfl
    · rw [rwriteJudge_of_unplanned memory hrun hp]
      rfl
    have exported : RwExported s.chip st r.txn.bytes run := ⟨memory, hrun, hp, ha⟩
    refine ⟨fun hlast ho hc => ?_, fun hc => ⟨fun hg => ?_, fun hg hsh => ?_, ?_⟩⟩
    · rw [rwriteJudge_of_countRefused exported hlast ho hc]
      rfl
    · rw [rwriteJudge_of_partGroup exported hc hg]
      rfl
    · rw [rwriteJudge_of_shut exported hc hg hsh, after_chip]
    rintro hg hsh _ raw hraw rfl
    rw [rwriteJudge_of_free exported hc hg hsh]
    refine ⟨?_, ?_⟩
    · rintro h4 _ _ rfl rfl
      rw [rwriteLand_of_plain hraw h4]
      simp only [Chip.rwEnd, and_true]
      rfl
    · rintro h4 put hput
      refine ⟨fun hn => ?_, ?_⟩
      · rw [rwriteLand_of_sumRefused hraw h4 (hput.trans hn)]
        rfl
      · rintro e0 owed hsum _ _ rfl rfl
        rw [rwriteLand_of_sum hraw h4 (hput.trans hsum)]
        rfl

end Sys2Proof
end

section
/-! PROOFS of the family 04_arrays: QUEUE_FETCH, the heads of the array queues, an output vector, current control, the commands on the
device and contexts, and the five statements. -/
namespace Sys2Proof.Machine

theorem when_of_false {b : Bool} (h : b = false) (f : Chip → Chip) (c : Chip) : Chip.when b f c = c := by simp [h]

section
variable {s : State} {t : TileId} {a : ArrayId} (hl : s.live = true)
include hl

theorem exec_queueFetch : exec (.queueFetch t) s = .next (after s (queueFetch t.toNat s.chip)) := onChip_live hl _
theorem exec_arrayQueueHead : exec (.arrayQueueHead t a) s = .next (after s (arrayQueueHead t.toNat a.toNat s.chip)) := onChip_live hl _
theorem exec_swapwEffect : exec (.swapwEffect t a) s = .next (after s (swapwEffect t.toNat a.toNat s.chip)) := onChip_live hl _
theorem exec_gangEffect : exec (.gangEffect t) s = .next (after s (gangEffect t.toNat s.chip)) := onChip_live hl _
theorem exec_loadwPlaneValid : exec (.loadwPlaneValid t a) s = .next (after s (loadwPlaneValid t.toNat a.toNat s.chip)) := onChip_live hl _
theorem exec_accumRowWrite {flt : ArrayFault} :
    exec (.accumRowWrite t a flt) s = .next (after s (accumRowWrite t.toNat a.toNat flt s.chip)) := onChip_live hl _
theorem exec_rampUpDone : exec (.rampUpDone t) s = .next (after s (rampUpDone t.toNat s.chip)) := onChip_live hl _
theorem exec_warmIdleTimeout : exec (.warmIdleTimeout t) s = .next (after s (warmIdleTimeout t.toNat s.chip)) := onChip_live hl _
theorem exec_rampDownDone : exec (.rampDownDone t) s = .next (after s (rampDownDone t.toNat s.chip)) := onChip_live hl _

end

section
variable {c : Chip} {t : Nat}

/-! ### QUEUE_FETCH (R118, R123, R254, R255) -/

/-- A command as it joins a tile's queue: GEN is the tile's generation, and a GEN that was not 0 in the image is noted. -/
def Tile.fetchedCmd (x : Tile) (bs : List Byte) (pz : Bool) : QCmd :=
  ⟨(cmdWord (bytesWords 8 bs) 0 - BitVec.ofNat 64 (fld (cmdWord (bytesWords 8 bs) 0) 47 44 * 2 ^ 44) + BitVec.ofNat 64 (x.gen.toNat * 2 ^ 44)) ::
    (bytesWords 8 bs).drop 1, x.fetched, pz, fld (cmdWord (bytesWords 8 bs) 0) 47 44 != 0⟩

theorem queueFetch_of_granted (hs : (c.tile t).st = .running) (hr : c.runsOn t = true) (hm : (c.tile t).fetched < (c.tile t).streamLen)
    (hq : (c.tile t).queue.length < 1024) (hg : (c.tile t).fetchGot = true) {d : Chip} {bs : List Byte} {pz : Bool}
    (hf : c.fetch ((c.tile t).streamAt + 64 * (c.tile t).fetched) 64 (tileReader true) = (d, bs, pz)) :
    queueFetch t c = d.updTile t (fun y =>
      { y with fetched := y.fetched + 1, fetchGot := false, queue := y.queue ++ [(c.tile t).fetchedCmd bs pz] }) := by
  unfold queueFetch
  dsimp only
  rw [when_of (by simp [hs, hr, hm, hq, hg]), hf]
  rfl

theorem queueFetch_of_full_or_ungranted (h : 1024 ≤ (c.tile t).queue.length ∨ (c.tile t).fetchGot = false) : queueFetch t c = c := by
  have blocked : (decide ((c.tile t).queue.length < 1024) && (c.tile t).fetchGot) = false := by
    rcases h with hq | hg
    · simp [Nat.not_lt.2 hq]
    · simp [hg]
  unfold queueFetch
  dsimp only
  exact when_of_false (by rw [Bool.and_assoc, blocked, Bool.and_false]) _ c

/-! ### ARRAY_QUEUE_HEAD (R137, R138) -/

theorem planeCauses_eq_none {x : Tile} {m : MCmd} {as : List Nat} (h : ∀ b ∈ as, x.planeCause m b = none) : x.planeCauses m as = none := by
  have none_fails : as.filterMap (x.planeCause m) = [] := List.filterMap_eq_nil_iff.2 h
  simp [Tile.planeCauses, none_fails]

theorem planeCause_of_invalid {x : Tile} {m : MCmd} {b : Nat} (hop : m.cmd.op = 0x10) (hv : ((x.arr b).plane (x.arr b).active).valid = false) :
    x.planeCause m b = some 0x07 := by
  simp [Tile.planeCause, hop, hv]

/-- One plane that is not VALID decides, whatever the formats of the others. -/
theorem planeCauses_of_invalid {x : Tile} {m : MCmd} {as : List Nat} {b : Nat} (hop : m.cmd.op = 0x10) (hb : b ∈ as)
    (hv : ((x.arr b).plane (x.arr b).active).valid = false) : x.planeCauses m as = some 0x07 := by
  have found : (0x07 : Byte) ∈ as.filterMap (x.planeCause m) := List.mem_filterMap.2 ⟨b, hb, planeCause_of_invalid hop hv⟩
  exact if_pos (List.contains_iff_mem.2 found)

/-- On a tile that runs, a command has reached the head of the queue of an array and of every array it moves together with. -/
structure AtHead (c : Chip) (t a : Nat) (m : MCmd) : Prop where
  running : (c.tile t).st = .running
  next    : queueNext c.nowAc [] ((c.tile t).arr a).queue = some m
  all     : ∀ b ∈ m.together a, (queueNext c.nowAc [] ((c.tile t).arr b).queue).map (fun y => y.cmd.idx) = some m.cmd.idx

/-- A command begins in the arrays it moves together in, in each with that array's active plane. -/
def Tile.beginMCmd (x : Tile) (m : MCmd) (a : Nat) : Tile :=
  (m.together a).foldl (fun x b => x.updArr b (fun y => { y with queue := y.queue.map (fun z =>
    if z.cmd.idx = m.cmd.idx then { z with begun := true, plane := y.active } else z) })) x

/-- What the plane checks decide at the head. -/
theorem arrayQueueHead_of_head {a : Nat} {m : MCmd} (h : AtHead c t a m) :
    arrayQueueHead t a c = ((c.tile t).planeCauses m (m.together a)).elim (c.updTile t (fun x => x.beginMCmd m a))
      (fun e => c.tileViolation t e m.cmd.id m.cmd.opB 0) := by
  obtain ⟨running, next, all⟩ := h
  unfold arrayQueueHead
  dsimp only
  rw [next]
  dsimp only
  rw [if_neg (by simpa [running] using all)]
  cases (c.tile t).planeCauses m (m.together a) <;> rfl

/-! ### SWAPW_EFFECT, GANG_EFFECT and LOADW_PLANE_VALID (R134 to R137, R153) -/

/-- The two records of a SWAPW that takes effect. -/
def Chip.traceSwapw (c : Chip) (t a : Nat) (m : MCmd) : Chip :=
  (c.traceTile 1 t 0x01 a false (m.cmd.w 0) (m.cmd.w 1) 0 0).traceTile 1 t 0x02 a false (m.cmd.w 0) (m.cmd.w 1) 0 0

theorem swapwEffect_of_begun {a : Nat} {m : MCmd} (hs : (c.tile t).st = .running)
    (hf : ((c.tile t).arr a).queue.find? (fun y => y.cmd.op = 0x12) = some m) (hb : m.begun = true) :
    swapwEffect t a c = (c.traceSwapw t a m).updTile t (fun x =>
      (x.dropMCmd [a] m.cmd.idx).updArr a (fun y => { y with active := !y.active })) := by
  unfold swapwEffect
  rw [hf]
  exact when_of (by simp [hs, hb]) _ c

/-- The gang mode that a GANG sets, and with WARM the ramp it starts. -/
def Tile.takeGang (x : Tile) (m : MCmd) (ac : Nat) : Tile :=
  let y := { x.dropMCmd [0, 1, 2, 3] m.cmd.idx with gang := BitVec.ofNat 3 (fld (m.cmd.w 2) 2 0) }
  if bit (m.cmd.w 2) 8 then y.startRamp ac else y

theorem gangEffect_of_first {m : MCmd} (hs : (c.tile t).st = .running) (hh : (c.tile t).a0.queue.head? = some m) (hop : m.cmd.op = 0x13)
    (hq : ∀ qs ∈ (c.tile t).queues, qs.head?.map (fun y => y.cmd.idx) = some m.cmd.idx) :
    gangEffect t c = c.updTile t (fun x => x.takeGang m c.nowAc) := by
  unfold gangEffect
  dsimp only
  rw [hh]
  exact when_of (by simpa [hs, hop] using hq) _ c

theorem takeGang_of_warm {x : Tile} {m : MCmd} {ac : Nat} (h : bit (m.cmd.w 2) 8 = true) : x.takeGang m ac =
    ({ x.dropMCmd [0, 1, 2, 3] m.cmd.idx with gang := BitVec.ofNat 3 (fld (m.cmd.w 2) 2 0) } : Tile).startRamp ac := if_pos h
theorem takeGang_of_cold {x : Tile} {m : MCmd} {ac : Nat} (h : bit (m.cmd.w 2) 8 = false) : x.takeGang m ac =
    { x.dropMCmd [0, 1, 2, 3] m.cmd.idx with gang := BitVec.ofNat 3 (fld (m.cmd.w 2) 2 0) } := if_neg (ne_true_of_eq_false h)

theorem validAc_of_served {m : MCmd} (h : m.cmd.lwReads ≤ m.fed) :
    m.validAc = some (m.lastAc + (if m.cmd.lwMode = 0 then 7 else 6) + (if m.cmd.lwFmt = 6 then 1 else 0)) := if_pos h

theorem loadwPlaneValid_of_due {a v : Nat} {m : MCmd} (hs : (c.tile t).st = .running)
    (hf : ((c.tile t).arr a).queue.find? (fun y => y.cmd.op = 0x11) = some m) (hv : m.validAc = some v) (hd : v ≤ c.nowAc)
    (hu : ((c.tile t).arr a).queue.any (fun y => y.cmd.op == 0x10 && y.begun && y.plane != ((c.tile t).arr a).active) = false) :
    loadwPlaneValid t a c =
      (c.traceTile 1 t 0x02 a (planeOf m.cmd m.feeds).poison (m.cmd.w 0) (m.cmd.w 1) 0 0).updTile t (fun x =>
        (x.dropMCmd [a] m.cmd.idx).updArr a (fun y => y.setPlane (!y.active) (planeOf m.cmd m.feeds))) := by
  unfold loadwPlaneValid
  rw [hf]
  exact when_of (by rw [hv, hu]; simp [hs, hd]) _ c

/-! ### ACCUM_ROW_WRITE (R129, R131, R135, R145, R147) -/

/-- The vector that a MATMUL of an array's queue writes next. -/
structure VecNext (c : Chip) (t a : Nat) (m : MCmd) (f : Feed) (rest : List Feed) : Prop where
  oldest : ((c.tile t).arr a).queue.find? (fun y => y.cmd.op = 0x10 && !y.feeds.isEmpty) = some m
  feeds  : m.feeds = f :: rest

/-- The outputs of a vector as its rows take them, where every plane holds the MATMUL's weight format: buffer, 16 words, poison. -/
def Tile.outRows (x : Tile) (m : MCmd) (f : Feed) (v : VecOut) : List (Nat × List W32 × Bool) :=
  v.bufs.map (fun o => (o.buf, (List.range 16).map (fun j =>
    accumWord (m.cmd.mmWfmt == 5) (bit (m.cmd.w 3) 56) (((x.arr o.buf).row (fld (m.cmd.w 3) 54 48 + m.done)).getD j 0) (o.vals.getD j (fzero false))),
    f.poison || o.as.any (fun b => (x.planeFor m b).poison) || o.bad.isSome))

/-- A tile after a vector that others follow: its rows written, the command with one vector less, skipped checks counted. -/
def Tile.vecWritten (x : Tile) (m : MCmd) (a : Nat) (outs : List (Nat × List W32 × Bool)) (rest : List Feed) (skips : Nat) : Tile :=
  let y := (x.writeRows m outs).updMCmd (m.together a) m.cmd.idx (fun z => { z with feeds := rest, done := z.done + 1 })
  { y with cnt := { y.cnt with checkSkip := addN y.cnt.checkSkip skips } }

theorem accumRowWrite_of_early {a : Nat} {flt : ArrayFault} {m : MCmd} {f : Feed} {rest : List Feed} (hn : VecNext c t a m f rest)
    (h : c.nowAc < f.at_ + modeLatency m.mode.toNat) : accumRowWrite t a flt c = c := by
  obtain ⟨oldest, feeds⟩ := hn
  unfold accumRowWrite
  dsimp only
  rw [oldest]
  dsimp only
  rw [feeds]
  exact if_pos h

theorem accumRowWrite_of_due {a : Nat} {flt : ArrayFault} {m : MCmd} {f : Feed} {rest : List Feed} {v : VecOut} (hn : VecNext c t a m f rest)
    (hdue : f.at_ + modeLatency m.mode.toNat ≤ c.nowAc) (hflt : flt ≠ .duplicate) (hv : vectorOut (c.tile t) m a f flt = v)
    (hfmt : ∀ o ∈ v.bufs, ∀ b ∈ o.as, ((c.tile t).planeFor m b).fmt.toNat = m.cmd.mmWfmt) (hmore : m.done + 1 < m.cmd.mmLen) :
    accumRowWrite t a flt c = (v.bufs.filterMap (fun o => o.bad)).foldl (fun c b => c.arrayCheckFailed t b m false)
      (c.updTile t (fun y => y.vecWritten m a ((c.tile t).outRows m f v) rest v.skips)) := by
  obtain ⟨oldest, feeds⟩ := hn
  have notDup : (flt == ArrayFault.duplicate) = false := by simpa using hflt
  have noFree : ∀ o ∈ v.bufs, o.as.any (fun b => ((c.tile t).planeFor m b).fmt.toNat != m.cmd.mmWfmt) = false := fun o ho => by
    simpa using hfmt o ho
  have noneFree : v.bufs.any (fun o => o.as.any (fun b => ((c.tile t).planeFor m b).fmt.toNat != m.cmd.mmWfmt)) = false := by
    simpa using hfmt
  unfold accumRowWrite
  dsimp only
  rw [oldest]
  dsimp only
  rw [feeds]
  dsimp only
  rw [if_neg (Nat.not_lt.2 hdue), hv]
  simp only [notDup, Bool.false_and, noneFree, Nat.not_le.2 hmore, if_false, Bool.false_eq_true]
  rw [show v.bufs.map _ = (c.tile t).outRows m f v from
    List.map_congr_left fun o ho => by simp only [noFree o ho, if_false, Bool.false_eq_true]]
  rfl

/-! ### Current control (R143) -/

theorem rampUpDone_of_ended (hw : (c.tile t).warm = .rampUp) (h : (c.tile t).warmAc + (8 - (c.tile t).level.toNat) * 4 ≤ c.nowAc) :
    rampUpDone t c = c.updTile t (fun x => { x with warm := .warm, level := 8, lastUse := c.nowAc - 1 }) :=
  when_of (by simp [Tile.rampEnd, hw, h]) _ c

theorem rampUpDone_of_early (hw : (c.tile t).warm = .rampUp) (h : c.nowAc < (c.tile t).warmAc + (8 - (c.tile t).level.toNat) * 4) :
    rampUpDone t c = c :=
  when_of_false (by simp [Tile.rampEnd, hw, h]) _ c

theorem warmIdleTimeout_of_unused (hw : (c.tile t).warm = .warm) (h : (c.tile t).lastUse + 65 ≤ c.nowAc)
    (he : ∀ qs ∈ (c.tile t).queues, ∀ m ∈ qs, m.cmd.op = 0x10 → m.entered c.nowAc = true) :
    warmIdleTimeout t c = c.updTile t (fun x => { x with warm := .rampDown, warmAc := c.nowAc }) := by
  unfold warmIdleTimeout
  exact when_of (by simpa [hw, h] using he) _ c

theorem rampDownDone_of_ended (hw : (c.tile t).warm = .rampDown) (h : (c.tile t).warmAc + 28 ≤ c.nowAc) :
    rampDownDone t c = c.updTile t (fun x => { x with warm := .idle, level := 0 }) :=
  when_of (by simp [hw, h]) _ c

theorem startRamp_of_idle {x : Tile} {ac : Nat} (hw : x.warm = .idle) : x.startRamp ac = { x with warm := .rampUp, level := 0, warmAc := ac } := by
  rw [Tile.startRamp, hw]

end

/-! ### The device and context commands at their rows -/

section
variable {s : State} {who : Issuer} {q : Req} (hl : s.live = true)
include hl

theorem exec_devQuery (hr : Requested s.chip (issuerNum who) 0x0100 q) :
    exec (.devQuery who) s = .next (after s (devQuery (issuerNum who) q s.chip)) := onChip_onReq_of_requested hl rfl hr rfl _
theorem exec_devIdentity (hr : Requested s.chip (issuerNum who) 0x0101 q) :
    exec (.devIdentity who) s = .next (after s (devIdentity (issuerNum who) q s.chip)) := onChip_onReq_of_requested hl rfl hr rfl _
theorem exec_ctxOpen (hr : Requested s.chip (issuerNum who) 0x0200 q) :
    exec (.ctxOpen who) s = .next (after s (ctxOpen (issuerNum who) q s.chip)) := onChip_onReq_of_requested hl rfl hr rfl _
theorem exec_ctxClose (hr : Requested s.chip (issuerNum who) 0x0201 q) :
    exec (.ctxClose who) s = .next (after s (ctxClose (issuerNum who) q s.chip)) := onChip_onReq_of_requested hl rfl hr rfl _
theorem exec_ctxUnfreeze (hr : Requested s.chip (issuerNum who) 0x0202 q) :
    exec (.ctxUnfreeze who) s = .next (after s (ctxUnfreeze (issuerNum who) q s.chip)) := onChip_onReq_of_requested hl rfl hr rfl _

end

section
variable {c : Chip} {n : Nat} {q : Req}

/-! ### dev.identity (R441, R532) -/

theorem devIdentity_of_identity (h : c.boot.identityOk = true) : devIdentity n q c =
    c.answer n q stOk (wordsBytes [c.boot.serial, mkWord [(48, 16, c.boot.rev.toNat)]] ++ publicKey identityKey) 0xFFFF := if_pos h
theorem devIdentity_of_noIdentity (h : c.boot.identityOk = false) : devIdentity n q c = c.answer n q stOk (zeros 149) 0xFFFF :=
  if_neg (ne_true_of_eq_false h)

/-! ### ctx.open (R442, R492) -/

/-- The profile that ctx.open asks for; 0 stands for the setting's. -/
def openProfile (q : Req) : BitVec 2 := BitVec.ofNat 2 (fld (q.w 0) 1 0)

theorem ctxOpen_of_reserved (h : openProfile q = 3) : ctxOpen n q c = c.answer n q stBadArg [] 0 := if_pos h
theorem ctxOpen_of_opened (h : openProfile q ≠ 3) (ho : (c.ctx n).opened = true) : ctxOpen n q c = c.refuse n q stBusy :=
  (if_neg h).trans (if_pos ho)
theorem ctxOpen_of_closed (h : openProfile q ≠ 3) (ho : (c.ctx n).opened = false) {d : Chip}
    (hd : c.updCtx n (fun x => { x with opened := true, gen := x.gen + 1, evtLost := 0,
                                        compat := if openProfile q = 0 then c.boot.set.compat else openProfile q }) = d) :
    ctxOpen n q c = d.okay n q [(d.ctx n).gen.setWidth 64] := by
  subst hd
  exact (if_neg h).trans (if_neg (ne_true_of_eq_false ho))

/-! ### ctx.close (R442; the management mailbox's is log 31, DESIGN CHOICE) -/

/-- The context that ctx.close closes: the one it names, or its issuer's own. -/
def closeTarget (n : Nat) (q : Req) : Nat := if bit (q.w 0) 4 then fld (q.w 0) 3 0 else n

theorem ctxClose_of_mgmt (h : closeTarget n q = 16) : ctxClose n q c = c.answer n q stBadArg [] 0 := if_pos h
theorem ctxClose_of_context (h : closeTarget n q ≠ 16) {d : Chip}
    (hd : (c.updCtx n (fun x => { x with cur := none })).closeReqs (closeTarget n q) = d) : ctxClose n q c =
      ({ d with keeper := { d.keeper with bgs := d.keeper.bgs ++ [({ who := n, req := q, kind := .ctxClose (closeTarget n q), since := d.up } : Bg)] } } :
        Chip).closeRun (closeTarget n q) := by
  unfold closeTarget at *
  unfold ctxClose
  dsimp only
  rw [if_neg h, hd]

/-! ### ctx.unfreeze (R422, R454, R514) -/

/-- A reserved kind of master, or a number that its kind does not have. -/
def noMaster (kind id : Nat) : Prop := 3 < kind ∨ (kind = 1 ∧ 15 < id) ∨ (kind = 2 ∧ 3 < id) ∨ (kind = 3 ∧ 15 < id)

/-- Whether a master's harvest is still to be stored. -/
def Chip.harvestWaits (c : Chip) (kind id : Nat) : Bool := c.harvQ.any (fun h => h.kind.toNat == kind && h.id.toNat == id)

theorem harvestWaits_of_mem {kind id : Nat} (h : ∃ r ∈ c.harvQ, r.kind.toNat = kind ∧ r.id.toNat = id) : c.harvestWaits kind id = true := by
  simpa [Chip.harvestWaits] using h
theorem harvestWaits_eq_false {kind id : Nat} (h : ∀ r ∈ c.harvQ, ¬(r.kind.toNat = kind ∧ r.id.toNat = id)) :
    c.harvestWaits kind id = false := by
  simpa [Chip.harvestWaits] using h

/-- What ctx.unfreeze does to the master of a kind and number: nothing where it is not frozen, else its release. -/
def Chip.releaseMaster (c : Chip) (n : Nat) (q : Req) (id : Nat) : Nat → Chip
  | 0 =>
    if (c.tile id).st ≠ .frozen then c.refuse n q stOk
    else ((c.unfreezeTile id).unfrozen n 0 id (c.tile id).faultCause).refuse n q stOk
  | 1 =>
    if !(c.ctx id).frozen then c.refuse n q stOk
    else ((c.updCtx id (fun x => { x with frozen := false, fcause := 0 })).unfrozen n 1 id (c.ctx id).fcause).refuse n q stOk
  | 2 =>
    if !(c.str (straitOf id)).frozen then c.refuse n q stOk
    else if c.run.isSome && !c.slack.atSlack then c.refuse n q stNotAtSlack
    else ((c.updStr (straitOf id) (fun x => { x with frozen := false, faultCause := 0, faultType := 0, offend := [] })).unfrozen n 2 id
      (c.str (straitOf id)).faultCause).refuse n q stOk
  | _ =>
    if !c.tray.frozen.getLsbD id then c.refuse n q stOk
    else (({ c with tray := { c.tray with frozen := c.tray.frozen &&& ~~~(1#16 <<< id), offend := tblErase c.tray.offend id } } : Chip).unfrozen n 3 id 1).refuse n q stOk

section
variable {kind id : Nat} (hk : fld (q.w 0) 63 61 = kind) (hi : fld (q.w 0) 11 0 = id)
include hk hi

theorem ctxUnfreeze_of_noMaster (h : noMaster kind id) : ctxUnfreeze n q c = c.answer n q stBadArg [] 0 := by
  subst hk hi
  exact if_pos h

theorem ctxUnfreeze_of_harvest (hm : ¬noMaster kind id) (h : c.harvestWaits kind id = true) : ctxUnfreeze n q c = c := by
  subst hk hi
  exact (if_neg hm).trans (if_pos h)

theorem ctxUnfreeze_of_stored (hm : ¬noMaster kind id) (h : c.harvestWaits kind id = false) :
    ctxUnfreeze n q c = c.releaseMaster n q id kind := by
  subst hk hi
  refine (if_neg hm).trans ((if_neg (ne_true_of_eq_false h)).trans ?_)
  generalize fld (q.w 0) 63 61 = kind
  rcases kind with _ | _ | _ | _ <;> rfl

end

/-! ### What the release of each kind comes to -/

section
variable {id : Nat}

theorem releaseMaster_tile_free (h : (c.tile id).st ≠ .frozen) : c.releaseMaster n q id 0 = c.refuse n q stOk := if_pos h
theorem releaseMaster_tile (h : (c.tile id).st = .frozen) : c.releaseMaster n q id 0 =
    ((c.unfreezeTile id).unfrozen n 0 id (c.tile id).faultCause).refuse n q stOk := if_neg (fun hn => hn h)
theorem releaseMaster_ctx (h : (c.ctx id).frozen = true) : c.releaseMaster n q id 1 =
    ((c.updCtx id (fun x => { x with frozen := false, fcause := 0 })).unfrozen n 1 id (c.ctx id).fcause).refuse n q stOk :=
  if_neg (by simp [h])
theorem releaseMaster_strait_notAtSlack (h : (c.str (straitOf id)).frozen = true) (hs : (c.run.isSome && !c.slack.atSlack) = true) :
    c.releaseMaster n q id 2 = c.refuse n q stNotAtSlack := (if_neg (by simp [h])).trans (if_pos hs)
theorem releaseMaster_strait (h : (c.str (straitOf id)).frozen = true) (hs : (c.run.isSome && !c.slack.atSlack) = false) :
    c.releaseMaster n q id 2 =
      ((c.updStr (straitOf id) (fun x => { x with frozen := false, faultCause := 0, faultType := 0, offend := [] })).unfrozen n 2 id
        (c.str (straitOf id)).faultCause).refuse n q stOk :=
  (if_neg (by simp [h])).trans (if_neg (ne_true_of_eq_false hs))
theorem releaseMaster_tray (h : c.tray.frozen.getLsbD id = true) : c.releaseMaster n q id 3 =
    (({ c with tray := { c.tray with frozen := c.tray.frozen &&& ~~~(1#16 <<< id), offend := tblErase c.tray.offend id } } : Chip).unfrozen
      n 3 id 1).refuse n q stOk := if_neg (by simp [h])

end
end
end Sys2Proof.Machine

/-! ### The statements -/

namespace Sys2Proof
open Sys2Proof.Machine

/-- Settles O12: the fetch takes the next 64 bytes where they are granted and there is room, and nothing before. -/
theorem queueFetchTakesTheNextCommand : Obligations.QueueFetchTakesTheNextCommand := by
  unfold Obligations.QueueFetchTakesTheNextCommand
  rintro s _ t _ hl rfl rfl
  rw [exec_queueFetch hl]
  refine ⟨?_, fun h => ?_⟩
  · rintro hs hr hm hq hg r rfl
    rw [queueFetch_of_granted hs hr hm hq hg rfl]
    rfl
  · rw [queueFetch_of_full_or_ungranted h, after_chip]

/-- Settles O14: each row is one case of its effect, at the head, first in the queues, or due. That each array uses its own active plane
(log 57) and that each is swapped at its own boundary (log 94) are the model's choices. -/
theorem arrayQueueHeadsBeginAndTakeEffect : Obligations.ArrayQueueHeadsBeginAndTakeEffect := by
  unfold Obligations.ArrayQueueHeadsBeginAndTakeEffect
  rintro s _ t a _ m hl rfl rfl hs
  rw [exec_arrayQueueHead hl, exec_swapwEffect hl, exec_gangEffect hl, exec_loadwPlaneValid hl]
  refine ⟨fun hn _ hall => ?_, ?_, ?_, fun hh hop hq hw => ?_, fun hh hop hq hw => ?_, ?_⟩
  · have head : AtHead s.chip t.toNat a.toNat m := ⟨hs, hn, fun b hb => (hall b hb).1⟩
    rw [arrayQueueHead_of_head head, planeCauses_eq_none fun b hb => (hall b hb).2]
    rfl
  · rintro hn hop hall ⟨b, hb, hv⟩
    rw [arrayQueueHead_of_head ⟨hs, hn, hall⟩, planeCauses_of_invalid hop hb hv]
    rfl
  · rintro hf hb _ _ rfl rfl
    rw [swapwEffect_of_begun hs hf hb]
    rfl
  · rw [gangEffect_of_first hs hh hop hq]
    simp only [takeGang_of_warm hw]
  · rw [gangEffect_of_first hs hh hop hq]
    simp only [takeGang_of_cold hw]
  · rintro hf hr hd hu _ rfl
    rw [loadwPlaneValid_of_due hs hf (validAc_of_served hr) hd hu]

/-- Settles O15: the rows of a vector that is due, then its failed checks in order; before its latency nothing. -/
theorem outputRowsAreWrittenAndChecked : Obligations.OutputRowsAreWrittenAndChecked := by
  unfold Obligations.OutputRowsAreWrittenAndChecked
  rintro s _ t a flt _ m f rest v _ _ hl rfl rfl ho hf hflt hv hfmt hmore rfl rfl _ rfl
  have next : VecNext s.chip t.toNat a.toNat m f rest := ⟨ho, hf⟩
  have due := fun hd => accumRowWrite_of_due next hd hflt hv hfmt hmore
  rw [exec_accumRowWrite hl]
  refine ⟨fun hd hgood => ?_, fun hd => ?_, fun hd => ?_⟩
  · have noneFailed : v.bufs.filterMap (fun o => o.bad) = [] := List.filterMap_eq_nil_iff.2 hgood
    rw [due hd, noneFailed]
    rfl
  · rw [due hd]
    rfl
  · rw [accumRowWrite_of_early next hd, after_chip]

/-- Settles O16: each event at its time, and the ramp that an idle tile starts. -/
theorem currentControlRampsInOrder : Obligations.CurrentControlRampsInOrder := by
  unfold Obligations.CurrentControlRampsInOrder
  rintro s _ t _ hl rfl rfl
  rw [exec_rampUpDone hl, exec_warmIdleTimeout hl, exec_rampDownDone hl]
  refine ⟨fun hw h => ?_, fun hw h => ?_, fun hw h he => ?_, fun hw h => ?_, fun ac hw => startRamp_of_idle hw⟩
  · rw [rampUpDone_of_ended hw h]
  · rw [rampUpDone_of_early hw h, after_chip]
  · rw [warmIdleTimeout_of_unused hw h he]
  · rw [rampDownDone_of_ended hw h]

/-- Settles O32: each clause is one case of `devQuery`, `devIdentity`, `ctxOpen`, `ctxClose` or `ctxUnfreeze`. The refusal to close the
management mailbox is the model's choice (log 31). -/
theorem deviceAndContextCommandsAnswer : Obligations.DeviceAndContextCommandsAnswer := by
  unfold Obligations.DeviceAndContextCommandsAnswer
  rintro s _ who _ q hl rfl rfl
  refine ⟨fun hr => ?_, fun hr => ?_, fun hr => ?_, fun hr => ?_, fun hr => ?_⟩
  · rw [exec_devQuery hl hr]
    rfl
  · rw [exec_devIdentity hl hr]
    exact ⟨fun h => by rw [devIdentity_of_identity h], fun h => by rw [devIdentity_of_noIdentity h]⟩
  · rw [exec_ctxOpen hl hr]
    rintro _ d rfl
    exact ⟨fun h => by rw [ctxOpen_of_reserved h], fun h ho => by rw [ctxOpen_of_opened h ho],
      fun h ho hd => by rw [ctxOpen_of_closed h ho hd]⟩
  · rw [exec_ctxClose hl hr]
    rintro _ rfl
    exact ⟨fun h => by rw [ctxClose_of_mgmt h], fun h d hd => by rw [ctxClose_of_context h hd]; rfl⟩
  · rw [exec_ctxUnfreeze hl hr]
    rintro kind id hk hi
    refine ⟨fun h => by rw [ctxUnfreeze_of_noMaster hk hi h], fun h0 h1 hw => ?_, fun hw => ?_⟩
    · have master : ¬noMaster kind id := by unfold noMaster; omega
      rw [ctxUnfreeze_of_harvest hk hi master (harvestWaits_of_mem hw), after_chip]
    · have release := fun master => ctxUnfreeze_of_stored (n := issuerNum who) hk hi master (harvestWaits_eq_false hw)
      refine ⟨?_, ?_, ?_, ?_, ?_, ?_⟩
      · rintro rfl h
        rw [release (by simp [noMaster]), releaseMaster_tile_free h]
      · rintro rfl h
        rw [release (by simp [noMaster]), releaseMaster_tile h]
      · rintro rfl hid h
        rw [release (by unfold noMaster; omega), releaseMaster_ctx h]
      · rintro rfl hid h hs
        rw [release (by unfold noMaster; omega), releaseMaster_strait_notAtSlack h hs]
      · rintro rfl hid h hs
        rw [release (by unfold noMaster; omega), releaseMaster_strait h hs]
      · rintro rfl hid h
        rw [release (by unfold noMaster; omega), releaseMaster_tray h]

end Sys2Proof
end

section
/-! PROOFS of the family 05_formats: a head of an undefined opcode, the 18 vector rows with their results and cycles, the completion of the
vector unit, and the statement. -/
namespace Sys2Proof.Machine

/-! ### A head of an undefined opcode (R121) -/

/-- Any row finds it (log 12), whatever its own opcodes and checks. -/
theorem issueRow_of_undefined {i : Issue} {ops : Nat → Bool} {t : Nat} {c : Chip} {q : QCmd} (h : c.readyHead t = some q)
    (hp : q.poisoned = false) (hd : opDefined q.op = false) : issueRow i ops t c = c.descError t q 0x01 := by
  unfold issueRow
  rw [h]
  dsimp only
  rw [if_neg (by simp [hp]), if_pos (by simp [hd])]

/-- The codes from 0x20 to 0x3F that R187 leaves unallocated. -/
theorem opDefined_of_unallocated : ∀ op ∈ [0x27, 0x2C, 0x2D, 0x2E, 0x2F, 0x37, 0x38, 0x39, 0x3A, 0x3B, 0x3C, 0x3D, 0x3E, 0x3F],
    opDefined op = false := by decide

/-! ### The vector rows (R187) -/

/-- What computes the outputs of a vector row from the operands, with the module after its reads. -/
abbrev VecResult := Chip → Nat → QCmd → Chip × List VOut

/-- The table of R187 for a command q in tile t: instruction, opcode, result, cycles. -/
def vecRows (t : TileId) (q : QCmd) : List (Instr × Nat × VecResult × Nat) := [
  (.vecAdd t, 0x20, vecZip fadd, q.n64),
  (.vecSub t, 0x21, vecZip fsub, q.n64),
  (.vecMul t, 0x22, vecZip fmul, q.n64),
  (.vecFma t, 0x23, vecFmaOut, q.n64),
  (.vecMax t, 0x24, vecZip fmax, q.n64),
  (.vecMin t, 0x25, vecZip fmin, q.n64),
  (.vecCvt t, 0x26, vecMap id, q.n64),
  (.vecExp2 t, 0x28, vecMap exp2, 2 * q.n64),
  (.vecLog2 t, 0x29, vecMap log2, 2 * q.n64),
  (.vecRcp t, 0x2A, vecMap rcp, 2 * q.n64),
  (.vecRsqrt t, 0x2B, vecMap rsqrt, 2 * q.n64),
  (.vecRsum t, 0x30, vecReduce rsum, q.n64 + 6),
  (.vecRmax t, 0x31, vecReduce rmax, q.n64 + 6),
  (.vecSmstep t, 0x32, vecSmstepOut, 3 * q.n64 + 8),
  (.vecNormstat t, 0x33, vecNormstatOut, if q.vAux = 0 then q.n64 + 10 else 2 * q.n64 + 18),
  (.vecQuant t, 0x34, vecQuantOut, 2 * q.n64 + 6),
  (.vecDequant t, 0x35, vecDequantOut, q.n64),
  (.vecTopk t, 0x36, vecTopkOut, q.n64 + q.vAux + 6)]

/-- Each row issues its own opcode with its own result. -/
theorem exec_vecRow {s : State} (hl : s.live = true) (t : TileId) (q : QCmd) : ∀ p ∈ vecRows t q,
    exec p.1 s = .next (after s (issueRow (vecIssue p.2.2.1) (· == p.2.1) t.toNat s.chip)) := by
  simp only [vecRows, List.forall_mem_cons, List.not_mem_nil, false_implies, implies_true, and_true]
  and_intros <;> exact onChip_live hl _

/-- The model's cycles of each row are those of the table. -/
theorem vecCycles_of_row (t : TileId) (q : QCmd) : ∀ p ∈ vecRows t q, q.op = p.2.1 → vecCycles q = p.2.2.2 := by
  simp only [vecRows, List.forall_mem_cons, List.not_mem_nil, false_implies, implies_true, and_true]
  and_intros <;> intro hop <;> simp [vecCycles, hop]

/-- The tile with an entry for the granules that a vector command writes in scratchpad, if there are any (R217). -/
def Tile.vecEntry (x : Tile) (q : QCmd) : Tile := if (x.vWrites q).isEmpty then x else x.sbTake (x.vWrites q) q.idx

/-- The vector unit taken by a command of n cycles that issues in ac with these outputs. -/
def Tile.takeVec (x : Tile) (t ac n : Nat) (q : QCmd) (outs : List VOut) : Tile :=
  { x.vecEntry q with vec := some ⟨q, ac + 12 + n, outs, vecSlots (x.vecEntry q) t ac q⟩ }

theorem takeVec_eq (x : Tile) (t ac n : Nat) (q : QCmd) (outs : List VOut) : x.takeVec t ac n q outs =
    if (x.vWrites q).isEmpty then { x with vec := some ⟨q, ac + 12 + n, outs, vecSlots x t ac q⟩ }
    else { x.sbTake (x.vWrites q) q.idx with vec := some ⟨q, ac + 12 + n, outs, vecSlots (x.sbTake (x.vWrites q) q.idx) t ac q⟩ } := by
  unfold Tile.takeVec Tile.vecEntry
  split <;> rfl

theorem vecIssue_run {f : VecResult} {t : Nat} {c e : Chip} {q : QCmd} (he : (f c t q).1.traceTile 2 t 0x01 0 false (q.w 0) (q.w 1) 0 0 = e) :
    (vecIssue f).run c t q = e.updTile t (fun x => x.takeVec t e.nowAc (vecCycles q) q (f c t q).2) := by
  subst he
  rfl

/-! ### VECTOR_COMPLETE (R126, R187) -/

theorem exec_vectorComplete {s : State} {t : TileId} (hl : s.live = true) :
    exec (.vectorComplete t) s = .next (after s (vectorComplete t.toNat s.chip)) := onChip_live hl _

section
variable {c : Chip} {t : Nat} {v : VecOp} (hv : (c.tile t).vec = some v)
include hv

theorem vectorComplete_of_early (h : c.nowAc < v.dueAc) : vectorComplete t c = c := by
  unfold vectorComplete
  rw [hv]
  exact when_of_false (by simp [h]) _ c

theorem vectorComplete_of_due (h : v.dueAc ≤ c.nowAc) : vectorComplete t c =
    ((v.outs.foldl (fun d o => d.writeOut t v.cmd ((c.runs.head?.map (fun r => r.seed)).getD 0) o) c).traceTile 2 t 0x02 0
      (v.outs.any (fun o => o.poison.any id)) (v.cmd.w 0) (v.cmd.w 1) 0 0).updTile t (fun x => { x.sbFree v.cmd.idx with vec := none }) := by
  unfold vectorComplete
  rw [hv]
  dsimp only
  rw [when_of (by simp [h])]
  cases c.runs <;> rfl

end
end Sys2Proof.Machine

/-! ### The statement -/

namespace Sys2Proof
open Sys2Proof.Machine

/-- Settles O17: a row that issues runs its result and takes the unit for the cycles of its opcode, the entry of what it writes is taken
with it (R217), the completion waits for its time, and an unallocated code stops at the check of the opcode (R121). -/
theorem vectorCommandsTakeTheUnitForTheirCycles : Obligations.VectorCommandsTakeTheUnitForTheirCycles := by
  unfold Obligations.VectorCommandsTakeTheUnitForTheirCycles
  refine ⟨?_, ?_, ?_⟩
  · rintro s _ _ e t q hl rfl rfl p hp hi r rfl he
    have row : p ∈ vecRows t q := hp
    have opcode : q.op = p.2.1 := by
      obtain ⟨-, -, -, hop, -⟩ := hi
      exact eq_of_beq hop
    rw [exec_vecRow hl t q p row, issueRow_run hi, vecIssue_run he, vecCycles_of_row t q p row opcode]
    simp only [takeVec_eq]
  · rintro s _ t v hl rfl hv
    rw [exec_vectorComplete hl]
    exact ⟨fun h => by rw [vectorComplete_of_early hv h, after_chip], fun h => by rw [vectorComplete_of_due hv h]⟩
  · intro s t q hl hh hp hop
    have row : (.vecAdd t, 0x20, vecZip fadd, q.n64) ∈ vecRows t q := List.mem_cons_self
    rw [exec_vecRow hl t q _ row, issueRow_of_undefined hh hp (opDefined_of_unallocated _ hop)]
    rfl

end Sys2Proof
end

section
/-! PROOFS of the family 07_streams: the issue of a transfer into its stream, a flit slot of a strait, MARK, DUMP, the record of a SEAL and
the stall limit, and the three statements. -/
namespace Sys2Proof.Machine

/-! ### A transfer issues into its stream (R238, R239, R243 to R245) -/

/-- The rows that issue a transfer: instruction and opcode. -/
def xferRows (t : TileId) : List (Instr × Nat) := [(.dma t, 0x40), (.dma2d t, 0x41), (.ferryPull t, 0x42)]

/-- Each row issues its own opcode. -/
theorem exec_xferRow {s : State} (hl : s.live = true) (t : TileId) : ∀ p ∈ xferRows t,
    exec p.1 s = .next (after s (issueRow xferIssue (· == p.2) t.toNat s.chip)) := by
  simp only [xferRows, List.forall_mem_cons, List.not_mem_nil, false_implies, implies_true, and_true]
  and_intros <;> exact onChip_live hl _

theorem xferIssue_run : xferIssue.run = xferRun := rfl

/-- A transfer's scoreboard entry for the granules of its own tile that it writes (R217). -/
def Chip.xferEntry (c : Chip) (t : Nat) (q : QCmd) : Chip :=
  c.updTile t (fun z => if c.writesOwn t q then z.sbTake (c.xferWrites t q) q.idx else z)

/-- A stream that a transfer opens: its receive space is to be compared where there is one (R239). -/
def Stream.openBy (y : Stream) (q : QCmd) (space : Option (Nat × Nat)) : Stream :=
  { y with opened := true, dst := BitVec.ofNat 6 q.dstH, accum := q.flag 51, space := space, checking := space.isSome, closing := false }

/-- A held transfer that a re-arm merges into (R245). -/
def Xfer.grow (a x : Xfer) : Xfer := { a with parts := a.parts ++ x.parts, length := a.length + x.length, close := x.close }

/-- A merge, counted (R245). -/
def Tile.countMerge (z : Tile) : Tile := { z with cnt := { z.cnt with merge := z.cnt.merge + 1 } }

section
variable {c e : Chip} {t : Nat} {q : QCmd} {y : Stream} (he : (c.registerReads t q).xferEntry t q = e)
  (hy : (e.tile t).stream q.streamNo = y) (hw : y.waiting = none)
include he hy hw

theorem xferRun_of_open (hq : q.flag 48 = true) (ha : y.active = none) : xferRun c t q =
    (e.updTile t (fun z => z.setStream q.streamNo { y.openBy q (e.openSpace t q) with
      active := some { c.newXfer q with readyAc := if (e.openSpace t q).isSome then e.nowAc + 16 else e.nowAc } })).traceXfer t q.streamNo
      (c.newXfer q) := by
  unfold Chip.xferEntry at he
  simp [xferRun, he, hy, hq, hw, ha, Stream.openBy]

section
variable (hq : q.flag 48 = false) {a : Xfer} (ha : y.active = some a)
include hq ha

theorem xferRun_of_merge (hm : mergeOk a q (c.newXfer q).deadline (e.unitCount t a) = true) : xferRun c t q =
    e.updTile t (fun z => z.countMerge.setStream q.streamNo { y with active := some (a.grow (c.newXfer q)) }) := by
  unfold Chip.xferEntry at he
  simp [xferRun, he, hy, hq, hw, ha, hm, Xfer.grow, Tile.countMerge]

theorem xferRun_of_wait (hm : mergeOk a q (c.newXfer q).deadline (e.unitCount t a) = false) : xferRun c t q =
    e.updTile t (fun z => z.setStream q.streamNo { y with waiting := some (c.newXfer q) }) := by
  unfold Chip.xferEntry at he
  simp [xferRun, he, hy, hq, hw, ha, hm]

end
end

/-! ### A flit slot of a strait (R255 to R257, R384, R389) -/

/-- Whether a strait's slots send flits: from ALIGN on. -/
def Str.sends (x : Str) : Prop := x.train = .align ∨ x.train = .identify ∨ x.train = .up

/-- The slot in which a null flit is due whatever else waits (R389). -/
def Str.nullDue (x : Str) : Prop := x.slotNo = 0 ∧ 1984 ≤ x.nullNo

/-- A slot that is left to the data VCs: nothing to repeat, room for replay, and no VC-M transaction that may be sent in it. -/
structure DataSlot (x : Str) : Prop where
  notDue   : ¬x.nullDue
  noRepeat : x.resend = []
  room     : ¬64 ≤ x.replay.length
  noMgmt   : x.slotNo ≠ 0 ∨ x.readyM = none

theorem DataSlot.mgmt_eq_none {x : Str} (h : DataSlot x) : (if x.slotNo = 0 then x.readyM else none) = none := by
  obtain h0 | hm := h.noMgmt
  · exact if_neg h0
  · rw [hm, ite_self]

/-- A slot's null flit that is not the one due. -/
def Chip.idleSlot (c : Chip) (st : Strait) : Chip := (c.emitNull st).updStr st (fun x => { x with slotNo := x.slotNo - 1 })

/-- A data VC's slot: the next flit of the head that is picked, with the count that the pick leaves (R255, R256), or a null flit. -/
def Chip.dataSlot (c : Chip) (st : Strait) (frac : BitVec 9) : Option (BitVec 2 × TxTxn) × Nat → Chip
  | (some h, n) => (c.sendFlit st h.1 h.2 frac).updStr st (fun x => { x.slot with schedRun := n })
  | (none, _) => c.idleSlot st

section
variable {s : State} {c : Chip} {st : Strait} {frac : BitVec 9}

theorem exec_egressServiceSlot (hl : s.live = true) :
    exec (.egressServiceSlot st frac) s = .next (after s (egressServiceSlot st frac s.chip)) := onChip_live hl _

theorem egressServiceSlot_of_silent (h : ¬(c.str st).sends) : egressServiceSlot st frac c = c := if_neg h

section
variable (hs : (c.str st).sends)
include hs

theorem egressServiceSlot_of_nullDue (h : (c.str st).nullDue) :
    egressServiceSlot st frac c = (c.emitNull st).updStr st (fun x => { x with slotNo := 63 }) :=
  (if_pos hs).trans (if_pos h)

theorem egressServiceSlot_of_repeat (hn : ¬(c.str st).nullDue) {f : TxFlit} {rest : List TxFlit} (hr : (c.str st).resend = f :: rest) :
    egressServiceSlot st frac c = ((c.updStr st (fun x => { x with resend := rest })).emitKept st f).updStr st Str.slot := by
  refine (if_pos hs).trans ((if_neg hn).trans ?_)
  rw [hr]

section
variable (hn : ¬(c.str st).nullDue) (hr : (c.str st).resend = [])
include hn hr

theorem egressServiceSlot_of_replayFull (h : 64 ≤ (c.str st).replay.length) : egressServiceSlot st frac c = c.idleSlot st := by
  refine (if_pos hs).trans ((if_neg hn).trans ?_)
  rw [hr]
  exact if_pos h

theorem egressServiceSlot_of_mgmt (h : ¬64 ≤ (c.str st).replay.length) (h0 : (c.str st).slotNo = 0) {t : TxTxn}
    (hm : (c.str st).readyM = some t) :
    egressServiceSlot st frac c = (c.sendFlit st 3 t frac).updStr st (fun x => { x.slot with slotNo := 63 }) := by
  refine (if_pos hs).trans ((if_neg hn).trans ?_)
  rw [hr]
  refine (if_neg h).trans ?_
  rw [if_pos h0, hm]

end

/-- Before UP no data VC has a slot. -/
theorem egressServiceSlot_of_data (hd : DataSlot (c.str st)) : egressServiceSlot st frac c =
    if (c.str st).train = .up then
      (c.formRwrite st).dataSlot st frac (((c.formRwrite st).str st).pickVc ((c.formRwrite st).txTile st))
    else c.idleSlot st := by
  refine (if_pos hs).trans ((if_neg hd.notDue).trans ?_)
  rw [hd.noRepeat]
  refine (if_neg hd.room).trans ?_
  rw [hd.mgmt_eq_none]
  by_cases hu : (c.str st).train = .up
  · simp only [if_pos hu]
    unfold Chip.dataSlot
    rcases ((c.formRwrite st).str st).pickVc ((c.formRwrite st).txTile st) with ⟨_ | h, n⟩ <;> rfl
  · simp only [if_neg hu]
    rfl

end
end

/-! ### MARK (R506) -/

theorem exec_mark {s : State} {t : TileId} (hl : s.live = true) :
    exec (.mark t) s = .next (after s (issueRow markIssue (· == 0x58) t.toNat s.chip)) := onChip_live hl _
theorem markIssue_run : markIssue.run = markRun := rfl

/-- Whether a running capture takes a tile's MARK records. -/
def Chip.capturesMark (c : Chip) (t : Nat) : Bool := c.pan.live && c.pan.selTile t

/-- What a pan keeps of a MARK: its record, for the engine of its tile. -/
def Chip.traceMark (c : Chip) (t : Nat) (q : QCmd) : Chip × Bool :=
  c.traceRaw 0 t (traceRec c 3 0 false q.id.toNat (fld (q.w 1) 31 16) (fld (q.w 1) 15 0) 0 t
    (BitVec.ofNat 64 (fld (q.w 2) 31 0)) (BitVec.ofNat 64 q.idx))

section
variable {c : Chip} {t : Nat} {q : QCmd}

theorem markRun_of_uncaptured (h : (c.traceIssue t q).capturesMark t = false) : markRun c t q = c.traceIssue t q :=
  if_neg (Bool.eq_false_iff.1 h)

theorem markRun_of_captured (h : (c.traceIssue t q).capturesMark t = true) :
    markRun c t q = ((c.traceIssue t q).traceMark t q).1.panLoss ((c.traceIssue t q).traceMark t q).2 0 t := if_pos h

end

/-! ### DUMP (R507, R508) -/

theorem exec_dumpInput {s : State} {t : TileId} (hl : s.live = true) :
    exec (.dumpInput t) s = .next (after s (dumpRow 1 t.toNat s.chip)) := onChip_live hl _
theorem exec_dumpSeal {s : State} {t : TileId} (hl : s.live = true) :
    exec (.dumpSeal t) s = .next (after s (dumpRow 0 t.toNat s.chip)) := onChip_live hl _

section
variable {c : Chip} {t other : Nat} {q : QCmd} (hi : Issues dumpIssue (· == 0x59) t c q)
include hi

theorem dumpRow_of_otherKind (h : q.dumpKind = other) : dumpRow other t c = c := by
  obtain ⟨head, unpoisoned, -, opcode, -⟩ := hi
  unfold dumpRow
  rw [head]
  exact if_pos ⟨eq_of_beq opcode, h, unpoisoned⟩

theorem dumpRow_of_ownKind (h : q.dumpKind ≠ other) : dumpRow other t c = dumpRun (c.issued t q) t q := by
  have run := issueRow_run hi
  obtain ⟨head, -⟩ := hi
  unfold dumpRow
  rw [head]
  exact (if_neg fun k => h k.2.1).trans run

end

theorem any_unreachable_eq_false {c : Chip} {rs : List (Nat × Nat)} (h : ∀ p ∈ rs, c.reachable p.1 p.2 = true) :
    rs.any (fun p => !c.reachable p.1 p.2) = false := by simpa using h

section
variable {c e f : Chip} {t : Nat} {q : QCmd} {rs : List (Nat × Nat)} {r : Chip × List Byte × Bool}
  (he : c.traceIssue t q = e) (hrs : (e.hnd t q.srcH).ranges t q.srcOff q.dumpLen = rs) (hr : ∀ p ∈ rs, e.reachable p.1 p.2 = true)
  (hf : e.fetchAll sealReader rs = r) (hp : r.1.takePort 2 rs = f)
include he hrs hr hf hp

theorem dumpRun_of_input (h : q.dumpKind = 0) : dumpRun c t q =
    (f.updTile t (fun y => y.setSeal q.dumpCtx ⟨((f.tile t).seal q.dumpCtx).bytes ++ r.2.1, ((f.tile t).seal q.dumpCtx).poison || r.2.2⟩)).doneSync
      t q.id q.opB q.dumpDone q.dumpLen 1 := by
  simp only [dumpRun, he, hrs, any_unreachable_eq_false hr, hf, hp, if_pos h, Bool.false_eq_true, if_false]

theorem dumpRun_of_seal (h : q.dumpKind ≠ 0) : dumpRun c t q =
    f.updTile t (fun y => ((if (f.recGrans t q).isEmpty then y else y.sbTake (f.recGrans t q) q.idx).setSeal q.dumpCtx SealCtx.init).addDump
      ⟨q, (f.run.map (fun x => x.stepOf q.launch)).getD 0, ((f.tile t).seal q.dumpCtx).bytes, r.2.1,
        ((f.tile t).seal q.dumpCtx).poison || r.2.2⟩) := by
  simp only [dumpRun, he, hrs, any_unreachable_eq_false hr, hf, hp, if_neg h, Bool.false_eq_true, if_false]
  cases f.run <;> rfl

end

/-! ### The record of a SEAL (R509, R510) -/

theorem exec_sealRecordDone {s : State} {t : TileId} (hl : s.live = true) :
    exec (.sealRecordDone t) s = .next (after s (sealRecordDone t.toNat s.chip)) := onChip_live hl _

/-- The module with a SEAL's record written and its port slots taken. -/
def Chip.writeSeal (c : Chip) (t : Nat) (x : DumpCmd) : Chip :=
  (({ c with fresh := ⟨c.fresh.n + 1⟩ } : Chip).writePieces
    ((c.hnd t x.cmd.sealH).pieces t x.cmd.sealOff (c.sealRecord t x) (fun _ _ => false))).takePort 2
    ((c.hnd t x.cmd.sealH).ranges t x.cmd.sealOff 576)

/-- One more record of a SEAL that is not refused. -/
def Chip.countSeal (c : Chip) : Chip := { c with pan := { c.pan with sealCnt := c.pan.sealCnt + 1 } }

theorem sealRecordDone_of_unpoisoned {c : Chip} {t : Nat} {x : DumpCmd} {xs : List DumpCmd} (hd : (c.tile t).dumps = x :: xs)
    (hs : (c.tile t).st = .running) (hr : ∀ p ∈ (c.hnd t x.cmd.sealH).ranges t x.cmd.sealOff 576, c.reachable p.1 p.2 = true)
    (hp : x.poison = false) : sealRecordDone t c =
    (((c.writeSeal t x).updTile t (fun y => { y.sbFree x.cmd.idx with dumps := xs })).countSeal).doneSync t x.cmd.id x.cmd.opB x.cmd.dumpDone
      x.cmd.dumpLen 1 := by
  unfold sealRecordDone
  rw [hd]
  simp only [hs, any_unreachable_eq_false hr, hp, bne_self_eq_false, Bool.false_eq_true, if_false]
  rfl

/-! ### The stall limit (R261, R263) -/

theorem exec_stallLimit {s : State} {t : TileId} (hl : s.live = true) :
    exec (.stallLimit t) s = .next (after s (stallLimitRow t.toNat s.chip)) := onChip_live hl _

section
variable {c : Chip} {t : Nat} (hs : (c.tile t).st = .running)
include hs

theorem stallLimitRow_of_none (h : c.stallOf t = none) : stallLimitRow t c = c := by
  unfold stallLimitRow
  rw [if_neg (fun stopped => stopped hs), h]

theorem stallLimitRow_of_some {k from_ : Nat} {q : QCmd} (h : c.stallOf t = some (k, q, from_)) : stallLimitRow t c =
    ((if k ≤ 3 then c.updTile t (fun x => { x with stall := true }) else c).freezeTile t 0x0C q.id q.opB false).evTile t 0x0204
      (mkWord [(48, 16, q.id.toNat), (40, 8, k)]) (BitVec.ofNat 64 from_) := by
  unfold stallLimitRow
  rw [if_neg (fun stopped => stopped hs), h]

end
end Sys2Proof.Machine

/-! ### The statements -/

namespace Sys2Proof
open Sys2Proof.Machine

/-- Settles O18: the three rows run the same issue, and each clause is one case of what the stream holds. -/
theorem transfersIssueIntoTheirStreams : Obligations.TransfersIssueIntoTheirStreams := by
  unfold Obligations.TransfersIssueIntoTheirStreams
  rintro s _ _ e _ t q _ _ y hl rfl rfl rfl rfl rfl he hy p hp hi
  have row : p ∈ xferRows t := hp
  rw [exec_xferRow hl t p row, issueRow_run hi, xferIssue_run]
  refine ⟨fun hq ha hw => ?_, fun hq a ha hw hm => ?_, fun hq a ha hw hm => ?_⟩
  · rw [xferRun_of_open he hy hw hq ha]
    rfl
  · rw [xferRun_of_merge he hy hw hq ha hm]
    rfl
  · rw [xferRun_of_wait he hy hw hq ha hm]

/-- Settles O21: each clause is one case of the slot. That the null flit of R389 goes out in the first slot given to VC-M after 1,984 without
one is the model's reading (log 69). -/
theorem egressSendsRepeatsNullsThenTheBestHead : Obligations.EgressSendsRepeatsNullsThenTheBestHead := by
  unfold Obligations.EgressSendsRepeatsNullsThenTheBestHead
  rintro s _ st frac _ hl rfl rfl
  rw [exec_egressServiceSlot hl]
  refine ⟨fun ha hi hu => ?_, fun hs => ⟨fun h0 hn => ?_, fun hn => ?_⟩⟩
  · rw [egressServiceSlot_of_silent (by simp [Str.sends, ha, hi, hu]), after_chip]
  · rw [egressServiceSlot_of_nullDue hs ⟨h0, hn⟩]
  have notDue : ¬(s.chip.str st).nullDue := by unfold Str.nullDue; omega
  refine ⟨fun f rest hr => ?_, fun hr h => ?_, fun hr h h0 t hm => ?_, fun hr h hm => ?_⟩
  · rw [egressServiceSlot_of_repeat hs notDue hr]
  · rw [egressServiceSlot_of_replayFull hs notDue hr h]
    rfl
  · rw [egressServiceSlot_of_mgmt hs notDue hr (by omega) h0 hm]
  have slot : DataSlot (s.chip.str st) := ⟨notDue, hr, by omega, hm⟩
  rw [egressServiceSlot_of_data hs slot]
  refine ⟨fun hu => ?_, fun hu d hf => ⟨fun h n hp => ?_, fun n hp => ?_⟩⟩
  · rw [if_neg hu]
    rfl
  · rw [if_pos hu, hf, hp]
    rfl
  · rw [if_pos hu, hf, hp]
    rfl

/-- Settles O23: a MARK and a DUMP that issue run their rows, the other DUMP row passes, and the record and the stall have one case each.
That a DUMP's range is read at issue is the model's choice (log 20). -/
theorem marksDumpsAndSealsRecordWhatTheySay : Obligations.MarksDumpsAndSealsRecordWhatTheySay := by
  unfold Obligations.MarksDumpsAndSealsRecordWhatTheySay
  refine ⟨?_, ?_, ?_⟩
  · rintro s _ _ t q hl rfl rfl
    rw [exec_mark hl, exec_dumpInput hl, exec_dumpSeal hl]
    refine ⟨fun hi h => ?_, ?_, ?_⟩
    · rw [issueRow_run hi, markIssue_run, markRun_of_uncaptured h]
    · rintro hi h _ rfl
      rw [issueRow_run hi, markIssue_run, markRun_of_captured h]
      rfl
    · rintro hi e rs he hrs hr r f _ hf hp rfl
      refine ⟨fun hk => ⟨?_, ?_⟩, fun hk => ⟨?_, ?_⟩⟩
      · rw [dumpRow_of_otherKind hi hk, after_chip]
      · rw [dumpRow_of_ownKind hi (by omega), dumpRun_of_input he hrs hr hf hp hk]
      · rw [dumpRow_of_otherKind hi hk, after_chip]
      · rw [dumpRow_of_ownKind hi (by omega), dumpRun_of_seal he hrs hr hf hp (by omega)]
  · rintro s _ _ t x xs _ hl rfl hd hs rfl hr hp rfl
    rw [exec_sealRecordDone hl, sealRecordDone_of_unpoisoned hd hs hr hp]
    rfl
  · rintro s _ t hl rfl hs
    rw [exec_stallLimit hl]
    exact ⟨fun h => by rw [stallLimitRow_of_none hs h, after_chip], fun k from_ q h => by rw [stallLimitRow_of_some hs h]⟩

end Sys2Proof
end

section
/-! PROOFS of the family 08_memory_channels: a memory write and what it leaves, an attention request from its issue to its records, and the
two statements. -/
namespace Sys2Proof.Machine

/-! ### A memory write reads back (R286, R363) -/

/-- A memory after a write: the bytes written, and every other byte as it was. -/
theorem tblGet_memWrite (d : Byte) (bs : List Byte) {m : Memory} (a x : Nat) (h : Memory.wf d m = true) :
    tblGet d (memWrite d m a bs) x = if a ≤ x ∧ x < a + bs.length then bs.getD (x - a) d else tblGet d m x := by
  split
  case isTrue inside =>
    obtain ⟨i, rfl⟩ := Nat.exists_eq_add_of_le inside.1
    have hi : i < bs.length := by omega
    rw [memWrite_in d bs a h i hi, Nat.add_sub_cancel_left, List.getD_eq_getElem?_getD, List.getElem?_eq_getElem hi, Option.getD_some]
  case isFalse outside => exact memWrite_out d bs m (by omega)

theorem mem_unitsOf {u a n x : Nat} (hl : a ≤ x) (hu : x < a + n) : x / u ∈ unitsOf u a n := by
  have lower : a / u ≤ x / u := Nat.div_le_div_right hl
  have upper : x / u ≤ (a + n - 1) / u := Nat.div_le_div_right (by omega)
  rw [unitsOf, if_neg (by omega)]
  exact List.mem_map.2 ⟨x / u - a / u, List.mem_range.2 (by omega), by omega⟩

theorem undefAt_congr {c d : Chip} (hu : c.undef = d.undef) (hd : c.defined = d.defined) (g : Nat) : c.undefAt g = d.undefAt g := by
  unfold Chip.undefAt
  rw [hu, hd]

theorem settleOne_undefAt (c : Chip) (g h : Nat) : (c.settleOne g).undefAt h = if h = g then none else c.undefAt h := by
  unfold Chip.undefAt Chip.settleOne
  simp only [contains_setAdd]
  by_cases e : h = g <;> simp [e]

/-- Settling granules leaves none of them undefined, and makes no other so. -/
theorem settleAll_undefAt {g : Nat} : ∀ (gs : List Nat) (c : Chip), g ∈ gs ∨ c.undefAt g = none → (gs.foldl Chip.settleOne c).undefAt g = none
  | [], _, h => h.resolve_left List.not_mem_nil
  | k :: gs, c, h => by
    refine settleAll_undefAt gs (c.settleOne k) ?_
    rw [settleOne_undefAt]
    rcases h with h | h
    · rcases List.mem_cons.1 h with rfl | h
      · exact .inr (if_pos rfl)
      · exact .inl h
    · exact .inr (by rw [h, ite_self])

theorem settle_undefAt (c : Chip) {a n g : Nat} (h : g ∈ unitsOf 64 a n) : (c.settle a n).undefAt g = none := by
  refine settleAll_undefAt _ c ?_
  cases hu : c.undefAt g with
  | none => exact .inr rfl
  | some _ => exact .inl (List.mem_filter.2 ⟨h, by rw [hu]; rfl⟩)

section
variable (c : Chip) {a : Nat} (bs : List Byte) (pz : Bool)

theorem write_of_inSpd (h : inSpd a = true) :
    (c.write a bs pz).spdMem = memWrite 0 c.spdMem (a - spdBase) bs ∧ (c.write a bs pz).lpMem = c.lpMem := by
  obtain ⟨_, _, _, hw⟩ | ⟨_, _, _, _, _, _, hs, _⟩ := write_eq c a bs pz
  · rw [hw]
    exact ⟨rfl, rfl⟩
  · rw [h] at hs
    cases hs

/-- Outside the scratchpad window a write is one to LPDDR5X, whose undefined granules have settled. -/
theorem write_of_notInSpd (h : inSpd a = false) : ∃ ps es ms ch, c.write a bs pz =
    { c.settle a bs.length with lpMem := memWrite 0 (c.settle a bs.length).lpMem a bs, lpPoison := ps, lpErr := es, macBad := ms, chans := ch } := by
  obtain ⟨_, _, hs, _⟩ | ⟨_, _, ps, es, ms, ch, _, hs, hw⟩ := write_eq c a bs pz
  · rw [h] at hs
    cases hs
  · exact ⟨ps, es, ms, ch, by rw [hw, hs]⟩

theorem write_spdMem_of_notInSpd (h : inSpd a = false) : (c.write a bs pz).spdMem = c.spdMem := by
  obtain ⟨_, _, _, _, hw⟩ := write_of_notInSpd c bs pz h
  obtain ⟨_, _, hs, _⟩ := settle_eq c a bs.length
  rw [hw, hs]

/-- A byte that is no tag, after a write to LPDDR5X. A byte written is defined; another reads as the same value even where its granule was
undefined and settles with the write (log 102). -/
theorem write_lpByte (h : inSpd a = false) (hm : Memory.wf 0 c.lpMem = true) {x : Nat} (hx : c.tagsAt x = none) :
    (c.write a bs pz).lpByte x = if a ≤ x ∧ x < a + bs.length then bs.getD (x - a) 0 else c.lpByte x := by
  obtain ⟨m, df, hs, settled⟩ := settle_eq c a bs.length
  obtain ⟨wf, same⟩ := settled hm
  obtain ⟨ps, es, ms, ch, hw⟩ := write_of_notInSpd c bs pz h
  rw [hs] at hw
  have tags : (c.write a bs pz).tagsAt x = none := by
    rw [hw]
    exact hx
  have landed := tblGet_memWrite 0 bs a x wf
  split
  case isTrue inside =>
    have defined : (c.write a bs pz).undefAt (x / 64) = none := by
      rw [hw, ← settle_undefAt c (mem_unitsOf inside.1 inside.2), hs]
      exact undefAt_congr rfl rfl _
    rw [if_pos inside] at landed
    unfold Chip.lpByte
    rw [tags, defined, hw]
    exact landed
  case isFalse outside =>
    rw [if_neg outside] at landed
    rw [← same x hx, hw]
    exact lpByte_congr rfl rfl rfl landed hx

end

/-! ### The rows of an attention request -/

section
variable {s : State} {t : TileId} {ch : ChanId} (hl : s.live = true)
include hl

theorem exec_attnQ : exec (.attnQ t) s = .next (after s (issueRow attnIssue (· == 0x50) t.toNat s.chip)) := onChip_live hl _
theorem exec_attnAdmit : exec .attnAdmit s = .next (after s (attnAdmit s.chip)) := onChip_live hl _
theorem exec_engineBlock : exec (.engineBlock ch) s = .next (after s (engineBlock ch.toNat s.chip)) := onChip_live hl _
theorem exec_engineRecord : exec (.engineRecord ch) s = .next (after s (engineRecord ch.toNat s.chip)) := onChip_live hl _
theorem exec_attnQComplete : exec (.attnQComplete t) s = .next (after s (attnQComplete t.toNat s.chip)) := onChip_live hl _

end

/-! ### ATTN_Q and its admission (R294 to R297, R303) -/

theorem attnIssue_run : attnIssue.run = attnRun := rfl

theorem attnAdmit_of_none {c : Chip} (h : firstReq (c.disp.reqs.filter c.canAdmit) = none) : attnAdmit c = c := by
  unfold attnAdmit
  rw [h]

/-- What becomes of a request of this module whose query and list have been read. -/
def Chip.judgeReq (d : Chip) (r : AttnReq) (q : QCmd) (es : List W64) (list : List Byte) : Chip :=
  if es.any (entBad (attFmt r.params)) then d.attnError r q
  else match r.away with
    | some st => (d.sendReq st r list).setWant r (listChans es).length
    | none => if es.any (fun e => !d.pageOk e) then d.attnError r q else (d.splitReq r es).setWant r (listChans es).length

theorem attnAdmit_of_first {c d : Chip} {r r' : AttnReq} {q : QCmd} {qs ls : List (Nat × Nat)} {a b : Chip × Pieces} {es : List W64}
    (hr : firstReq (c.disp.reqs.filter c.canAdmit) = some r) (hc : r.cmd = some q)
    (hqs : ((c.tile r.tile).hnd q.qH).ranges r.tile q.qOff (attHeads r.params * 512) = qs)
    (hls : ((c.tile r.tile).hnd q.listH).ranges r.tile q.listOff (attPages r.params * 8) = ls)
    (ha : c.readRanges (tileReader true) qs = a) (hb : a.1.readRanges (tileReader true) ls = b) (hd : b.1.takePort 2 (qs ++ ls) = d)
    (he : bytesWords (attPages r.params) b.2.bytes = es)
    (hr' : r' = { r with query := a.2.bytes, qPoison := (List.range (attHeads r.params * 8)).filter (fun g => a.2.bad (64 * g) 64) }) :
    attnAdmit c = d.judgeReq r' q es b.2.bytes := by
  subst hr' he hd hb ha hls hqs
  unfold attnAdmit
  simp only [hr, hc]
  rfl

section
variable {d : Chip} {r : AttnReq} {q : QCmd} {es : List W64} {list : List Byte}

theorem judgeReq_of_badEntry (h : ∃ e ∈ es, entBad (attFmt r.params) e = true) : d.judgeReq r q es list = d.attnError r q :=
  if_pos (List.any_eq_true.2 h)

section
variable (good : ∀ e ∈ es, entBad (attFmt r.params) e = false)
include good

theorem judgeReq_of_goodEntries : d.judgeReq r q es list =
    match r.away with
    | some st => (d.sendReq st r list).setWant r (listChans es).length
    | none => if es.any (fun e => !d.pageOk e) then d.attnError r q else (d.splitReq r es).setWant r (listChans es).length := by
  have noneBad : ¬es.any (entBad (attFmt r.params)) = true := by simpa using good
  exact if_neg noneBad

theorem judgeReq_of_away {st : Strait} (h : r.away = some st) :
    d.judgeReq r q es list = (d.sendReq st r list).setWant r (listChans es).length := by
  rw [judgeReq_of_goodEntries good, h]

theorem judgeReq_of_badPage (h : r.away = none) (hp : ∃ e ∈ es, d.pageOk e = false) : d.judgeReq r q es list = d.attnError r q := by
  rw [judgeReq_of_goodEntries good, h]
  exact if_pos (by simpa using hp)

theorem judgeReq_of_goodPages (h : r.away = none) (hp : ∀ e ∈ es, d.pageOk e = true) :
    d.judgeReq r q es list = (d.splitReq r es).setWant r (listChans es).length := by
  rw [judgeReq_of_goodEntries good, h]
  exact if_neg (by simpa using hp)

end
end

/-! ### A channel engine (R299 to R302, R305, R328) -/

/-- A request's heads after a block that was read: 16 tokens, then those of the second half of a coded FP8 layer (R328). -/
def AttnReq.foldBlock (r : AttnReq) (b : KvBlock) (hs : List Head) : List Head :=
  let first := subBlock r.params r.query b.k b.v 0 (min 16 b.tokens) hs
  if 16 < b.tokens then subBlock r.params r.query b.k b.v 16 (b.tokens - 16) first else first

/-- A sub-request with its first block folded into these heads. -/
def SubReq.fold (x : SubReq) (b : KvBlock) (rest : List KvBlock) (hs : List Head) : SubReq :=
  { x with heads := hs, tokens := x.tokens + b.tokens, poison := x.poison || b.bad, started := true, blocks := rest }

/-- An engine whose lanes end, in ac, a block of its first sub-request, which becomes y. -/
def Engine.endBlock (g : Engine) (ac : Nat) (params : W64) (b : KvBlock) (y : SubReq) : Engine :=
  { g.setHead y with blockCnt := addN g.blockCnt (cdiv b.tokens 16), busyCnt := addN g.busyCnt (blockAc params b), since := ac }

/-- The records of a sub-request in channel ch, one a head (R300, R302). -/
def SubReq.recs (x : SubReq) (r : AttnReq) (ch : Nat) : List Rec :=
  x.heads.zipIdx.map (fun h => ⟨ch, h.2, h.1, x.tokens, x.poison || r.qPoison.any (fun k => k / 8 == h.2)⟩)

/-- An engine that gives these records in ac, and takes what waits for it. -/
def Engine.endSub (g : Engine) (ac : Nat) (recs : List Rec) : Engine :=
  { ({ g with subs := g.subs.drop 1 } : Engine).take 8 with
    subCnt := g.subCnt + 1, since := ac + 40, poisonCnt := addN g.poisonCnt (recs.filter (fun e => e.poison)).length }

section
variable {c : Chip} {ch : Nat} {x : SubReq} {r : AttnReq} (head : c.engineHead ch = some (x, r))
include head

theorem engineBlock_of_unread (h : x.blocks = []) : engineBlock ch c = c := by
  unfold engineBlock
  simp only [head, h]

theorem engineBlock_of_working {b : KvBlock} {rest : List KvBlock} (h : x.blocks = b :: rest)
    (working : c.tide.acs.toNat < (c.engine ch).since + blockAc r.params b) : engineBlock ch c = c := by
  unfold engineBlock
  simp only [head, h, if_pos working]

theorem engineBlock_of_ended {b : KvBlock} {rest : List KvBlock} (h : x.blocks = b :: rest)
    (ended : (c.engine ch).since + blockAc r.params b ≤ c.tide.acs.toNat) (started : x.started = true) : engineBlock ch c =
    c.updEngine ch (fun g => g.endBlock c.tide.acs.toNat r.params b (x.fold b rest (r.foldBlock b x.heads))) := by
  unfold engineBlock
  simp only [head, h, if_neg (Nat.not_lt.2 ended), if_pos started]
  rfl

theorem engineRecord_of_unfinished (h : x.entries ≠ [] ∨ x.blocks ≠ [] ∨ c.tide.acs.toNat < (c.engine ch).since + 12 * x.heads.length) :
    engineRecord ch c = c := by
  unfold engineRecord
  rw [head]
  exact if_pos (by simpa [or_assoc] using h)

theorem engineRecord_of_finished (he : x.entries = []) (hb : x.blocks = [])
    (due : (c.engine ch).since + 12 * x.heads.length ≤ c.tide.acs.toNat) : engineRecord ch c =
    ((c.updEngine ch (fun g => g.endSub c.tide.acs.toNat (x.recs r ch))).giveRecs r (x.recs r ch)).traceCmd
      4 ch 2 0 r.cmdId.toNat 0 0 (BitVec.ofNat 64 (recBytes * (x.recs r ch).length)) 0 := by
  unfold engineRecord
  rw [head]
  exact if_neg (by simp [he, hb, due])

end

/-! ### ATTN_Q_COMPLETE (R304) -/

theorem attnQComplete_of_landed {c : Chip} {t : Nat} {a : AttnCmd} (landed : (c.tile t).attns.find? (fun a => a.want == some a.recs) = some a)
    (running : (c.tile t).st = .running) (hd : a.deadline = none) (hs : a.cmd.doneSyncNo = 63) : attnQComplete t c =
    c.updTile t (fun x => { x.sbFree a.cmd.idx with attns := x.attns.filter (fun b => b.num != a.num) }) := by
  unfold attnQComplete
  rw [landed]
  dsimp only
  rw [when_of (by simp [running]), hd, hs]
  exact if_pos rfl

end Sys2Proof.Machine

/-! ### The statements -/

namespace Sys2Proof
open Sys2Proof.Machine

/-- Settles O7: the write is one to scratchpad or, with what it touches settled first, one to LPDDR5X. That freed memory keeps the value it
reads as until it is written is the model's choice (log 102). -/
theorem writesKeepMemoryCanonicalAndReadBack : Obligations.WritesKeepMemoryCanonicalAndReadBack := by
  unfold Obligations.WritesKeepMemoryCanonicalAndReadBack
  refine ⟨write_wf, fun c a bs pz x h hw => ?_, fun c a bs pz x h hw => ⟨write_spdMem_of_notInSpd c bs pz h, write_lpByte c bs pz h hw⟩⟩
  obtain ⟨spd, lp⟩ := write_of_inSpd c bs pz h
  exact ⟨by rw [spd, tblGet_memWrite 0 bs _ x hw], lp⟩

/-- Settles O22: one case of a row for each clause, in the order of the rows. That the blocks of an engine end one after another, each 128 ac
a head and 16 tokens after the one before, and that 12 ac lie between two records, are the model's choices (log 119). -/
theorem attentionRequestsRunToTheirRecords : Obligations.AttentionRequestsRunToTheirRecords := by
  unfold Obligations.AttentionRequestsRunToTheirRecords
  refine ⟨?issue, ?idle, ?admission, ?engine, ?complete⟩
  case issue =>
    rintro s _ _ t q hl rfl rfl hi _ _ rfl rfl _ rfl
    rw [exec_attnQ hl, issueRow_run hi, attnIssue_run]
    rfl
  case idle =>
    rintro s _ hl rfl h
    rw [exec_attnAdmit hl, attnAdmit_of_none h, after_chip]
  case admission =>
    rintro s _ d r r' q qs ls a b es hl rfl hr hc hqs hls ha hb hd he hr'
    have params : r'.params = r.params := by rw [hr']
    have error : d.attnError r' q = (d.dropReq r.num).tileViolation r.tile 0x0A q.id q.opB 0 := by
      rw [hr']
      rfl
    rw [exec_attnAdmit hl, attnAdmit_of_first hr hc hqs hls ha hb hd he hr', ← params, ← error]
    refine ⟨fun h => ?_, fun good h hp => ?_, fun good h hp => ?_, fun good st h => ?_⟩
    · rw [judgeReq_of_badEntry h]
    · rw [judgeReq_of_badPage good h hp]
    · rw [judgeReq_of_goodPages good h hp]
    · rw [judgeReq_of_away good h]
  case engine =>
    rintro s _ ch x r hl rfl head
    rw [exec_engineBlock hl, exec_engineRecord hl]
    refine ⟨fun h => ?_, fun b rest h => ⟨fun working => ?_, ?_⟩, fun h => ?_, ?_⟩
    · rw [engineBlock_of_unread head h, after_chip]
    · rw [engineBlock_of_working head h working, after_chip]
    · rintro _ _ ended started rfl rfl
      rw [engineBlock_of_ended head h ended started]
      rfl
    · rw [engineRecord_of_unfinished head h, after_chip]
    · rintro he hb due _ rfl
      rw [engineRecord_of_finished head he hb due]
      rfl
  case complete =>
    rintro s _ t a hl rfl landed running hd hs
    rw [exec_attnQComplete hl, attnQComplete_of_landed landed running hd hs]

end Sys2Proof
end

section
/-! PROOFS of the family 09_codec: mem.table at its row and by its cases, the two ends of a held load, and the statement. -/
namespace Sys2Proof.Machine

/-! ### The rows of a table load -/

section
variable {s : State} (hl : s.live = true)
include hl

theorem exec_memTable {who : Issuer} {q : Req} (hr : Requested s.chip (issuerNum who) 0x0303 q) :
    exec (.memTable who) s = .next (after s (memTable (issuerNum who) q s.chip)) := onChip_onReq_of_requested hl rfl hr rfl _
theorem exec_tableRefsDrained {k : BitVec 7} :
    exec (.tableRefsDrained k) s = .next (after s (tableRefsDrained k.toNat s.chip)) := onChip_live hl _
theorem exec_tableLoadTimeout {k : BitVec 7} :
    exec (.tableLoadTimeout k) s = .next (after s (tableLoadTimeout k.toNat s.chip)) := onChip_live hl _

end

/-! ### mem.table (R313, R314, R333; the order of the refusals is the model's choice, log 31) -/

section
variable {c : Chip} {n : Nat} {q : Req}

/-- The slot that a mem.table names. -/
def tableSlot (q : Req) : Nat := fld (q.w 0) 6 0
/-- The table that it carries. -/
def tableBytes (q : Req) : List Byte := slice q.payload 8 144
/-- Its timeout, in tk. -/
def tableTime (q : Req) : Nat := fld (q.w 0) 63 32

/-- A module with memory, whose named slot has no other owner than the issuer. -/
structure TableAllowed (c : Chip) (n : Nat) (q : Req) : Prop where
  memory : c.boot.memOk = true
  ours   : (c.cslot (tableSlot q)).owner = none ∨ (c.cslot (tableSlot q)).owner = some n

/-- In addition no load uses the slot, and the table meets R314: nothing but references can keep it from being loaded. -/
structure TableLoadable (c : Chip) (n : Nat) (q : Req) : Prop extends TableAllowed c n q where
  idle  : c.slotBusy (tableSlot q) = false
  table : tabOk (tableBytes q) = true

/-- The references on the version that a load of the named slot writes. -/
def Chip.tableRefs (c : Chip) (q : Req) : Nat := c.slotRefs (tableSlot q) (c.cslot (tableSlot q)).next

theorem memTable_of_otherOwner {o : Nat} (hm : c.boot.memOk = true) (ho : (c.cslot (tableSlot q)).owner = some o) (hne : o ≠ n) :
    memTable n q c = c.answer n q stNotPermitted [] 0 := by
  have other : ((c.cslot (tableSlot q)).owner.isSome && (c.cslot (tableSlot q)).owner != some n) = true := by simp [ho, hne]
  exact (if_neg (by simp [hm])).trans (if_pos other)

/-- Past the checks of memory and owner, what is left are the slot's use, the table and the references. -/
theorem memTable_of_allowed (h : TableAllowed c n q) : memTable n q c =
    if c.slotBusy (tableSlot q) then c.answer n q stBusy [] 0
    else if !tabOk (tableBytes q) then c.answer n q stBadArg [] 8
    else if c.tableRefs q = 0 then (c.updCslot (tableSlot q) (fun z => z.load n (tableBytes q))).refuse n q stOk
    else if tableTime q = 0 then c.refuse n q stTableBusy
    else (c.updCslot (tableSlot q) (fun z => { z with held := true })).goBg n q
      (.table (tableSlot q) (tableBytes q) (c.up + tableTime q)) := by
  have own : ¬((c.cslot (tableSlot q)).owner.isSome && (c.cslot (tableSlot q)).owner != some n) = true := by
    rcases h.ours with ho | ho <;> simp [ho]
  exact (if_neg (by simp [h.memory])).trans (if_neg own)

theorem memTable_of_busy (h : TableAllowed c n q) (hb : c.slotBusy (tableSlot q) = true) :
    memTable n q c = c.answer n q stBusy [] 0 := (memTable_of_allowed h).trans (if_pos hb)

theorem memTable_of_badTable (h : TableAllowed c n q) (hb : c.slotBusy (tableSlot q) = false) (ht : tabOk (tableBytes q) = false) :
    memTable n q c = c.answer n q stBadArg [] 8 := by
  rw [memTable_of_allowed h, if_neg (ne_true_of_eq_false hb), if_pos (by simp [ht])]

/-- A load that nothing refuses is decided by the references and the timeout alone. -/
theorem memTable_of_loadable (h : TableLoadable c n q) : memTable n q c =
    if c.tableRefs q = 0 then (c.updCslot (tableSlot q) (fun z => z.load n (tableBytes q))).refuse n q stOk
    else if tableTime q = 0 then c.refuse n q stTableBusy
    else (c.updCslot (tableSlot q) (fun z => { z with held := true })).goBg n q
      (.table (tableSlot q) (tableBytes q) (c.up + tableTime q)) := by
  rw [memTable_of_allowed h.toTableAllowed, if_neg (ne_true_of_eq_false h.idle), if_neg (by simp [h.table])]

theorem memTable_of_unreferenced (h : TableLoadable c n q) (hr : c.tableRefs q = 0) :
    memTable n q c = (c.updCslot (tableSlot q) (fun z => z.load n (tableBytes q))).refuse n q stOk :=
  (memTable_of_loadable h).trans (if_pos hr)

theorem memTable_of_noTime (h : TableLoadable c n q) (hr : c.tableRefs q ≠ 0) (ht : tableTime q = 0) :
    memTable n q c = c.refuse n q stTableBusy := by
  rw [memTable_of_loadable h, if_neg hr, if_pos ht]

theorem memTable_of_held (h : TableLoadable c n q) (hr : c.tableRefs q ≠ 0) (ht : tableTime q ≠ 0) :
    memTable n q c = (c.updCslot (tableSlot q) (fun z => { z with held := true })).goBg n q
      (.table (tableSlot q) (tableBytes q) (c.up + tableTime q)) := by
  rw [memTable_of_loadable h, if_neg hr, if_neg ht]

end

/-! ### The ends of a held load (R333) -/

/-- The Keeper runs and slot k holds the load b, of this table, until ddl. -/
structure HoldsLoad (c : Chip) (k : Nat) (b : Bg) (tbl : List Byte) (ddl : Nat) : Prop where
  found   : c.tableBg k = some b
  kind    : b.kind = .table k tbl ddl
  running : c.keeper.state = .running

section
variable {c : Chip} {k : Nat} {b : Bg} {tbl : List Byte} {ddl : Nat} (h : HoldsLoad c k b tbl ddl)
include h

theorem tableRefsDrained_of_holdsLoad : tableRefsDrained k c =
    if c.slotRefs k (c.cslot k).next = 0 then (c.updCslot k (fun z => z.load b.who tbl)).endBg b stOk [] 0xFFFF 0 else c := by
  simp [tableRefsDrained, h.found, h.kind, h.running, Chip.when]

theorem tableLoadTimeout_of_holdsLoad : tableLoadTimeout k c =
    if c.slotRefs k (c.cslot k).next ≠ 0 ∧ ddl ≤ c.up then
      (c.updCslot k (fun z => { z with held := false })).endBg b stTableBusy [] 0xFFFF 0 else c := by
  simp [tableLoadTimeout, h.found, h.kind, h.running, Chip.when]

end
end Sys2Proof.Machine

/-! ### The statement -/

namespace Sys2Proof
open Sys2Proof.Machine

/-- Settles O34: each clause on mem.table is one case of `memTable`, each on a held load one of the two events that end it. The rules of a table
are R314's. The order of the refusals is the model's choice (log 31); it judges the owner before a held load, which R333's table lists first. -/
theorem tableLoadsWaitForTheirReferences : Obligations.TableLoadsWaitForTheirReferences := by
  unfold Obligations.TableLoadsWaitForTheirReferences
  refine ⟨?request, ?heldLoad⟩
  case request =>
    rintro s _ who _ q _ _ hl rfl rfl hr hm rfl rfl
    rw [exec_memTable hl hr]
    refine ⟨fun o ho hne => by rw [memTable_of_otherOwner hm ho hne], fun ours => ?_⟩
    have allowed : TableAllowed s.chip (issuerNum who) q := ⟨hm, ours⟩
    refine ⟨fun hb => by rw [memTable_of_busy allowed hb], fun hb ht => by rw [memTable_of_badTable allowed hb ht], fun hb ht => ?_⟩
    have loadable : TableLoadable s.chip (issuerNum who) q := ⟨allowed, hb, ht⟩
    refine ⟨fun h0 => ?_, fun h0 htime => ?_, fun h0 htime => ?_⟩
    · rw [memTable_of_unreferenced loadable h0]; rfl
    · rw [memTable_of_noTime loadable h0 htime]
    · rw [memTable_of_held loadable h0 htime]; rfl
  case heldLoad =>
    rintro s _ k b tbl ddl hl rfl hb hk hrun
    have held : HoldsLoad s.chip k.toNat b tbl ddl := ⟨hb, hk, hrun⟩
    rw [exec_tableLoadTimeout hl, exec_tableRefsDrained hl, tableRefsDrained_of_holdsLoad held, tableLoadTimeout_of_holdsLoad held]
    refine ⟨fun h0 => ⟨?_, ?_⟩, fun h0 => ⟨?_, fun early => ?_, fun due => ?_⟩⟩
    · rw [if_neg (fun h => h.1 h0), after_chip]
    · rw [if_pos h0]
    · rw [if_neg h0, after_chip]
    · rw [if_neg (fun h => Nat.not_le.2 early h.2), after_chip]
    · rw [if_pos ⟨h0, due⟩]

end Sys2Proof
end

section
/-! PROOFS of the family 10_ordering: the accesses of the host and of tray peers, the updates of sync objects, and the two statements. -/
namespace Sys2Proof.Machine

/-! ### The rows of accesses that PCIe carries (R342, R561) -/

/-- A module that runs and whose link carries requests to a function that is not in D3hot. -/
structure LinkReaches (s : State) (fn : CtxId) : Prop where
  live    : s.live = true
  carries : s.pcie.carries fn = true
  awake   : s.pcie.d3.getLsbD fn.toNat = false

theorem pcieWrite_of_bounds {a n : Nat} (h1 : 1 ≤ n) (h2 : n ≤ 512) (h3 : a % 4096 + n ≤ 4096) : pcieWrite a n = true := by
  simp [pcieWrite, h1, h2, h3]
theorem pcieRead_of_bounds {a n : Nat} (h1 : 1 ≤ n) (h3 : a % 4096 + n ≤ 4096) : pcieRead a n = true := by
  simp [pcieRead, h1, h3]

section
variable {s : State} {fn : CtxId} {rid : W16} {bar : Bar} {off : W64} {a : Addr} {k : SlotId} {data : List Byte} {ep : Bool} {len : Nat}

theorem exec_barWrite (h : LinkReaches s fn) (hw : pcieWrite off.toNat data.length = true) :
    exec (.barWrite fn rid bar off data ep) s = .next (after s (barWrite fn rid bar off.toNat data ep s.chip)) := by
  refine (onChip_live h.live _).trans ?_
  rw [when_of (by rw [h.carries, h.awake]; exact hw)]
  rfl

theorem exec_barRead (h : LinkReaches s fn) (hr : pcieRead off.toNat len = true) :
    exec (.barRead fn rid bar off len) s = .next (after s (barRead fn rid bar off.toNat len s.chip)) := by
  refine (onChip_live h.live _).trans ?_
  rw [when_of (by rw [h.carries]; exact hr), if_neg (ne_true_of_eq_false h.awake)]
  rfl

theorem exec_trayWriteArrival (h : LinkReaches s 0) (hw : pcieWrite a.toNat data.length = true) :
    exec (.trayWriteArrival k a data ep) s = .next (after s (trayWriteArrival k a.toNat data ep s.chip)) := by
  have awake : s.pcie.d3.getLsbD 0 = false := h.awake
  refine (onChip_live h.live _).trans ?_
  rw [when_of (by rw [h.carries, awake]; exact hw)]
  rfl

theorem exec_trayReadArrival (h : LinkReaches s 0) (hr : pcieRead a.toNat len = true) :
    exec (.trayReadArrival k a len) s = .next (after s (trayReadArrival k a.toNat len s.chip)) := by
  have awake : s.pcie.d3.getLsbD 0 = false := h.awake
  refine (onChip_live h.live _).trans ?_
  rw [when_of (by rw [h.carries]; exact hr), if_neg (ne_true_of_eq_false awake)]
  rfl

end

/-! ### BAR0 and BAR4 of a function's own context (R339, R340) -/

section
variable {c : Chip} {fn : CtxId} {rid : W16} {off len : Nat} {data : List Byte} {ep : Bool} (ht : c.trayRid fn rid = none)
include ht

theorem barWrite_bar4 (ho : off < 0x100_0000_0000) :
    barWrite fn rid .bar4 off data ep c = hostMemWrite fn (lpBase + off) data ep c := by
  have addr : barAddr .bar4 off = some (lpBase + off) := if_pos ho
  simp [barWrite, addr, ht]

theorem barRead_bar4 (ho : off < 0x100_0000_0000) : barRead fn rid .bar4 off len c = hostMemRead fn (lpBase + off) len c := by
  have addr : barAddr .bar4 off = some (lpBase + off) := if_pos ho
  simp [barRead, addr, ht]

theorem barWrite_bar0_otherPage (ho : off < 0x10_0000) (hp : off / 0x1_0000 ≠ fn.toNat) : barWrite fn rid .bar0 off data ep c = c := by
  have addr : barAddr .bar0 off = some off := if_pos ho
  simp [barWrite, addr, ht, bar0Write, hp]

theorem barRead_bar0_otherPage (ho : off < 0x10_0000) (hp : off / 0x1_0000 ≠ fn.toNat) :
    barRead fn rid .bar0 off len c = c.send (.completion fn (zeros len) false) := by
  have addr : barAddr .bar0 off = some off := if_pos ho
  simp [barRead, addr, ht, bar0Read, hp]

end

/-! ### A context's access to memory (R338, R341, R444) -/

theorem hostMemWrite_of_frozen {c : Chip} {n : CtxId} (h : (c.ctx n.toNat).frozen = true) (a : Nat) (data : List Byte) (ep : Bool) :
    hostMemWrite n a data ep c = c := if_pos (by simp [h])

/-- After the boot, an access of a context that is not frozen, beside the sync ports. -/
structure HostAccess (c : Chip) (n : CtxId) (a : Nat) : Prop where
  booted : c.booted = true
  free   : (c.ctx n.toNat).frozen = false
  memory : inPorts a = false

section
variable {c : Chip} {n : CtxId} {a : Nat} (h : HostAccess c n a)
include h

theorem hostMemWrite_of_access (data : List Byte) (ep : Bool) : hostMemWrite n a data ep c =
    if c.hitsImage a data.length then c.ctxViolation n.toNat 2 a
    else if c.hostReach n.toNat a data.length then c.outerWrite a data ep
    else c.ctxViolation n.toNat 1 a := by
  rw [hostMemWrite, if_neg (by simp [h.booted, h.free]), if_neg (ne_true_of_eq_false h.memory)]

theorem hostMemRead_of_access (len : Nat) : hostMemRead n a len c =
    if c.hostReach n.toNat a len then (c.outerRead a len).1.send (.completion n (c.outerRead a len).2.1 (c.outerRead a len).2.2)
    else (c.ctxViolation n.toNat 1 a).send (.completion n (zeros len) false) := by
  unfold hostMemRead
  dsimp only
  rw [if_neg (by simp [h.booted, h.free]), if_neg (ne_true_of_eq_false h.memory)]

end

/-! ### A tray peer's access to memory (R340, R345, R352) -/

/-- After the boot and with a run active, an access of a VALID slot whose ingress is not frozen, beside the sync ports and scratchpad. -/
structure TrayAccess (c : Chip) (k : SlotId) (a : Nat) (r : Run) : Prop where
  booted : c.booted = true
  valid  : c.tray.valid.getLsbD k.toNat = true
  free   : c.tray.frozen.getLsbD k.toNat = false
  memory : inPorts a = false
  lpddr  : inSpd a = false
  run    : c.run = some r

/-- Whether one READ entry with TRAY holds the range. -/
def Run.trayExports (r : Run) (a len : Nat) : Bool := r.exports.any (fun x => x.read && x.tray && within a len x.base x.size)

theorem trayReads_of_memory {a : Nat} (h : inPorts a = false) (r : Run) (len : Nat) : r.trayReads a len = r.trayExports a len :=
  if_neg (ne_true_of_eq_false h)

section
variable {c : Chip} {k : SlotId} {a : Nat} {r : Run} (h : TrayAccess c k a r)
include h

theorem trayWriteArrival_of_access (data : List Byte) (ep : Bool) : trayWriteArrival k a data ep c =
    if r.mayWrite (fun x => x.tray) false a data.length then c.outerWrite a data ep else c.trayViolation k a := by
  rw [trayWriteArrival, if_neg (by simp [h.booted]), if_pos h.valid, trayWrite, if_neg (ne_true_of_eq_false h.free),
    if_neg (ne_true_of_eq_false h.memory)]
  simp [h.run, h.lpddr]

theorem trayReadArrival_of_access (len : Nat) : trayReadArrival k a len c =
    if r.trayExports a len then (c.outerRead a len).1.send (.trayCompletion k (c.outerRead a len).2.1 (c.outerRead a len).2.2)
    else (c.trayViolation k a).send (.trayCompletion k (zeros len) false) := by
  rw [trayReadArrival, if_neg (by simp [h.booted]), if_pos h.valid, trayRead, if_neg (ne_true_of_eq_false h.free), h.run]
  dsimp only
  rw [trayReads_of_memory h.memory]
  cases r.trayExports a len <;> simp [h.lpddr, h.memory]

end

/-! ### The table of R355 -/

/-- The rows that allow an update of an object of a mode and a count, with the count that each leaves. -/
theorem syncNext_of_allowed {mode : BitVec 2} {i n : W32} {u : SyncUpd} (h :
    (∃ b p, u = .count b p ∧ mode = 1 ∧ n = i + BitVec.ofNat 32 b) ∨ (∃ b p, u = .count b p ∧ mode = 2 ∧ n = i + BitVec.ofNat 32 p) ∨
    (∃ v, u = .add v ∧ mode = 0 ∧ n = i + v) ∨ (∃ v, u = .add v ∧ mode = 3 ∧ n = i + 1) ∨ (∃ v, u = .set v ∧ mode = 0 ∧ n = v)) :
    syncNext mode i u = some n := by
  rcases h with ⟨_, _, rfl, rfl, rfl⟩ | ⟨_, _, rfl, rfl, rfl⟩ | ⟨_, rfl, rfl, rfl⟩ | ⟨_, rfl, rfl, rfl⟩ | ⟨_, rfl, rfl, rfl⟩
  all_goals rfl

/-- The rows that make an update a violation. -/
theorem syncNext_of_refused {mode : BitVec 2} {u : SyncUpd} (i : W32) (h :
    (∃ b p, u = .count b p ∧ (mode = 0 ∨ mode = 3)) ∨ (∃ v, u = .add v ∧ (mode = 1 ∨ mode = 2)) ∨ (∃ v, u = .set v ∧ mode ≠ 0)) :
    syncNext mode i u = none := by
  rcases h with ⟨_, _, rfl, rfl | rfl⟩ | ⟨_, rfl, rfl | rfl⟩ | ⟨_, rfl, set⟩
  case inr.inr => exact if_neg set
  all_goals rfl

/-! ### Updates of one ac (R359) -/

/-- An object after the updates of an ac, in their order, the last of which gives its scope and path. -/
def Sync.updated (x : Sync) (ac : Nat) (ups : List SyncArr) (last : SyncArr) : Sync :=
  { x with at_ := ac, was := x.count, wasScope := x.scope, wasPath := x.path, ups := ups, scope := last.scope, path := last.path,
           count := ups.foldl (fun n v => (syncNext x.mode n v.upd).getD n) x.count }

theorem take_of_first {x : Sync} {ac : Nat} (h : x.at_ ≠ ac) (a : SyncArr) : x.take ac a = x.updated ac [a] a := by
  rw [Sync.take, if_neg h]
  rfl

theorem take_updated (x : Sync) (ac : Nat) (ups : List SyncArr) (last a : SyncArr) :
    (x.updated ac ups last).take ac a = x.updated ac (rankInsert a ups) ((rankInsert a ups).getLast?.getD a) := by
  have same : (x.updated ac ups last).at_ = ac := rfl
  rw [Sync.take, if_pos same]
  rfl

section
variable {a b : SyncArr} (h : a.rank < b.rank)
include h

theorem rankInsert_earlier : rankInsert a [b] = [a, b] := if_pos h
theorem rankInsert_later : rankInsert b [a] = [a, b] := if_neg (Nat.lt_asymm h)

section
variable {x : Sync} {ac : Nat} (hx : x.at_ ≠ ac)
include hx

theorem take_earlier_then_later : (x.take ac a).take ac b = x.updated ac [a, b] b := by
  rw [take_of_first hx, take_updated, rankInsert_later h]
  rfl

theorem take_later_then_earlier : (x.take ac b).take ac a = x.updated ac [a, b] b := by
  rw [take_of_first hx, take_updated, rankInsert_earlier h]
  rfl

end
end

/-- A WAIT in the ac of the updates sees what they met. -/
theorem seen_updated (x : Sync) (ac : Nat) (ups : List SyncArr) (last : SyncArr) :
    (x.updated ac ups last).seen ac = (x.count, x.scope, x.path) := if_pos rfl

theorem count_updated_two {x : Sync} {ac : Nat} {a b last : SyncArr} {n m : W32} (ha : syncNext x.mode x.count a.upd = some n)
    (hb : syncNext x.mode n b.upd = some m) : (x.updated ac [a, b] last).count = m := by
  simp [Sync.updated, ha, hb]

/-! ### Updates of a tile's objects, and the violations of their senders (R352, R355) -/

section
variable {c : Chip} {t o : Nat} {u : SyncUpd}

theorem syncApply_of_allowed {n : W32} (h : syncNext ((c.tile t).sync o).mode ((c.tile t).sync o).count u = some n)
    (rank : Nat) (sc path : BitVec 3) : c.syncApply rank t o u sc path =
      some (c.updTile t (fun y => y.setSync o (((c.tile t).sync o).take c.nowAc ⟨rank, u, sc, path⟩))) := by
  simp [Chip.syncApply, h]

section
variable (h : syncNext ((c.tile t).sync o).mode ((c.tile t).sync o).count u = none)
include h

theorem syncApply_of_violation (rank : Nat) (sc path : BitVec 3) : c.syncApply rank t o u sc path = none := by
  simp [Chip.syncApply, h]

theorem syncLocal_of_violation (iss : Nat) (id : W16) (op : Byte) (sc : BitVec 3) :
    c.syncLocal iss id op t o u sc = c.tileViolation iss 0x0A id op 0 := by
  simp [Chip.syncLocal, Chip.syncBy, syncApply_of_violation h]

theorem portWrite_tray_of_violation {k : SlotId} {w : W64} (hw : portUpd w = some u) (hv : c.tray.valid.getLsbD k.toNat = true)
    (hf : c.tray.frozen.getLsbD k.toNat = false) : portWrite (.tray k) t o w c = c.trayViolation k (portAddr t o) := by
  have source : c.portSource (.tray k) = .tray k := if_pos hv
  simp only [portWrite, source, hf, hw, syncApply_of_violation h, ite_self, Bool.false_eq_true, if_false]

end
end
end Sys2Proof.Machine

/-! ### The statements -/

namespace Sys2Proof
open Sys2Proof.Machine

/-- Settles O30: each clause is one case of a context's access to memory, of an access to another page, or of a tray peer's access.
That a request with the requester ID of a slot not VALID is the function's own is the model's reading (log 51). -/
theorem hostAndTrayAccessesLandOrViolate : Obligations.HostAndTrayAccessesLandOrViolate := by
  unfold Obligations.HostAndTrayAccessesLandOrViolate
  refine ⟨?memory, ?otherPage, ?tray⟩
  case memory =>
    rintro s _ n rid off data ep _ hl rfl hc hd h1 h2 h3 ho rfl ht hb
    have link : LinkReaches s n := ⟨hl, hc, hd⟩
    have write := exec_barWrite (rid := rid) (bar := .bar4) (ep := ep) link (pcieWrite_of_bounds h1 h2 h3)
    have read := fun (len : Nat) (p1 : 1 ≤ len) (p3 : off.toNat % 4096 + len ≤ 4096) =>
      exec_barRead (rid := rid) (bar := .bar4) link (pcieRead_of_bounds p1 p3)
    refine ⟨fun hf => ?_, fun hf hp => ?_⟩
    · rw [write, barWrite_bar4 ht ho, hostMemWrite_of_frozen hf, after_chip]
    · have access : HostAccess s.chip n (lpBase + off.toNat) := ⟨hb, hf, hp⟩
      rw [write, barWrite_bar4 ht ho, hostMemWrite_of_access access]
      refine ⟨fun hi => ?_, fun hi hr => ?_, fun hi hr => ?_, ?_, fun len p1 p3 hr => ?_⟩
      · rw [if_pos hi]
      · rw [if_neg (ne_true_of_eq_false hi), if_pos hr]
      · rw [if_neg (ne_true_of_eq_false hi), if_neg (ne_true_of_eq_false hr)]
      · rintro len _ p1 p3 rfl hr
        rw [read len p1 p3, barRead_bar4 ht ho, hostMemRead_of_access access, if_pos hr]
      · rw [read len p1 p3, barRead_bar4 ht ho, hostMemRead_of_access access, if_neg (ne_true_of_eq_false hr)]
  case otherPage =>
    rintro s _ n rid off data ep hl rfl hc hd h1 h2 h3 ho ht hp
    have link : LinkReaches s n := ⟨hl, hc, hd⟩
    rw [exec_barWrite link (pcieWrite_of_bounds h1 h2 h3), exec_barRead link (pcieRead_of_bounds h1 h3),
      barWrite_bar0_otherPage ht ho hp, barRead_bar0_otherPage ht ho hp]
    exact ⟨rfl, rfl⟩
  case tray =>
    rintro s _ k a data ep r hl rfl hc hd hb hv hf hp hs hr h1 h2 h3
    have link : LinkReaches s 0 := ⟨hl, hc, hd⟩
    have access : TrayAccess s.chip k a.toNat r := ⟨hb, hv, hf, hp, hs, hr⟩
    have read := fun (len : Nat) (p1 : 1 ≤ len) (p3 : a.toNat % 4096 + len ≤ 4096) =>
      exec_trayReadArrival (k := k) link (pcieRead_of_bounds p1 p3)
    rw [exec_trayWriteArrival link (pcieWrite_of_bounds h1 h2 h3), trayWriteArrival_of_access access]
    refine ⟨fun he => ?_, fun he => ?_, ?_, fun len p1 p3 he => ?_⟩
    · rw [if_pos he]
    · rw [if_neg (ne_true_of_eq_false he)]
    · rintro len _ p1 p3 he rfl
      have exported : r.trayExports a.toNat len = true := he
      rw [read len p1 p3, trayReadArrival_of_access access, if_pos exported]
    · have refused : r.trayExports a.toNat len = false := he
      rw [read len p1 p3, trayReadArrival_of_access access, if_neg (ne_true_of_eq_false refused)]

/-- Settles O28: R355's table decides whether an update is allowed, and two of one ac come to the same list in the order of R359. Which place
a push's completions and a combined record take in it, and that a word of ADD or SET with PACKETS is no update, are the model's readings
(log 105, log 51). -/
theorem syncObjectsActByTheTable : Obligations.SyncObjectsActByTheTable := by
  unfold Obligations.SyncObjectsActByTheTable
  rintro c t o rank u sc path _ rfl
  refine ⟨fun n allowed => ?_, fun ac a b n m hx hab ha hb => ?_, fun refused => ?_⟩
  · have next := syncNext_of_allowed allowed
    refine ⟨syncApply_of_allowed next rank sc path, fun hx => ?_⟩
    rw [take_of_first hx]
    simp [Sync.updated, next]
  · rw [take_earlier_then_later hab hx, take_later_then_earlier hab hx]
    exact ⟨rfl, count_updated_two ha hb, seen_updated ..⟩
  · have none_ := syncNext_of_refused ((c.tile t).sync o).count refused
    exact ⟨syncApply_of_violation none_ rank sc path, fun iss id op => syncLocal_of_violation none_ iss id op sc,
      fun _ _ hw hv hf => portWrite_tray_of_violation none_ hw hv hf⟩

end Sys2Proof
end

section
/-! PROOFS of the family 11_straits: a flit from its checks to its delivery, the stall without credits, and the statement. -/
namespace Sys2Proof.Machine

/-! ### The rows -/

section
variable {s : State} {st : Strait} (hl : s.live = true)
include hl

theorem exec_flitReceive (bytes : List Byte) (n : Nat) (bad : Bool) :
    exec (.flitReceive st bytes n bad) s = .next (after s (flitReceive st bytes n bad s.chip)) := onChip_live hl _
theorem exec_creditStallTimeout : exec (.creditStallTimeout st) s = .next (after s (creditStallTimeout st s.chip)) := onChip_live hl _

end

/-! ### A flit (R387, R388, R391) -/

/-- What the FEC corrected and could not correct is counted (R388). -/
def Chip.countFec (c : Chip) (st : Strait) (n : Nat) (bad : Bool) : Chip :=
  c.setStr st { c.str st with fecCorr := addN (c.str st).fecCorr n, fecUncorr := addN (c.str st).fecUncorr (b2n bad) }

/-- The time of a header with a good CRC is kept and its ACK is taken. -/
def Chip.goodAck (c : Chip) (st : Strait) (h : W64) : Chip :=
  (c.updStr st (fun x => { x with lastGood := c.up })).takeAck st (BitVec.ofNat 12 (fld h 51 40))

/-- The NAK, CVC and CRED of a header are taken. -/
def Chip.nakAndCredits (c : Chip) (st : Strait) (h : W64) : Chip :=
  c.updStr st (fun x => (x.takeNak (bit h 39)).takeCred (BitVec.ofNat 2 (fld h 34 33)) (BitVec.ofNat 9 (fld h 32 24)) c.up)

/-- A flit with a good CRC, once its symbols are counted and its header is taken (R391). -/
def Chip.flitTaken (c : Chip) (st : Strait) (bytes : List Byte) (n : Nat) (bad : Bool) : Chip :=
  ((c.countFec st n bad).goodAck st (wordAt bytes 0)).nakAndCredits st (wordAt bytes 0)

section
variable {c : Chip} {st : Strait} {bytes : List Byte}

theorem flitReceive_of_closed (ha : (c.str st).train ≠ .align) (hi : (c.str st).train ≠ .identify) (hu : (c.str st).train ≠ .up)
    (n : Nat) (bad : Bool) : flitReceive st bytes n bad c = c := if_pos ⟨ha, hi, hu⟩

section
variable (ht : (c.str st).train = .align ∨ (c.str st).train = .identify ∨ (c.str st).train = .up)
include ht

theorem flitReceive_of_open (n : Nat) (bad : Bool) : flitReceive st bytes n bad c =
    if crc64 (slice bytes 0 248) ≠ leNat (slice bytes 248 8) then (c.countFec st n bad).badFlit st true
    else if fld (wordAt bytes 0) 7 5 ≠ 1 then c.flitTaken st bytes n bad
    else dataFlit st bytes bad (c.flitTaken st bytes n bad) :=
  if_neg fun ⟨ha, hi, hu⟩ => ht.elim ha (·.elim hi hu)

theorem flitReceive_of_badCrc (hc : crc64 (slice bytes 0 248) ≠ leNat (slice bytes 248 8)) (n : Nat) (bad : Bool) :
    flitReceive st bytes n bad c = (c.countFec st n bad).badFlit st true := by
  rw [flitReceive_of_open ht, if_pos hc]

section
variable (hc : crc64 (slice bytes 0 248) = leNat (slice bytes 248 8))
include hc

theorem flitReceive_of_otherKind (hk : fld (wordAt bytes 0) 7 5 ≠ 1) (n : Nat) (bad : Bool) :
    flitReceive st bytes n bad c = c.flitTaken st bytes n bad := by
  rw [flitReceive_of_open ht, if_neg (not_not_intro hc), if_pos hk]

theorem flitReceive_of_dataKind (hk : fld (wordAt bytes 0) 7 5 = 1) (n : Nat) (bad : Bool) :
    flitReceive st bytes n bad c = dataFlit st bytes bad (c.flitTaken st bytes n bad) := by
  rw [flitReceive_of_open ht, if_neg (not_not_intro hc), if_neg (not_not_intro hk)]

end
end

/-! ### A data flit with a good CRC (R390) -/

/-- The SEQ of a flit's header. -/
def flitSeq (bytes : List Byte) : BitVec 12 := BitVec.ofNat 12 (fld (wordAt bytes 0) 63 52)

/-- The next flit is expected, and no NAK is sent. -/
def Str.acceptFlit (x : Str) : Str := { x with expSeq := x.expSeq + 1, nakOut := false, nakRuns := 0, rxFlits := x.rxFlits + 1 }

theorem dataFlit_of_expected (hq : flitSeq bytes = (c.str st).expSeq) : dataFlit st bytes false c =
    (c.updStr st Str.acceptFlit).deliverFlit st (BitVec.ofNat 2 (fld (wordAt bytes 0) 38 37)) (bit (wordAt bytes 0) 36) (bit (wordAt bytes 0) 35)
      (slice bytes 8 (fld (wordAt bytes 0) 23 16)) (BitVec.ofNat 8 (fld (wordAt bytes 0) 15 8)) := if_pos ⟨hq, rfl⟩

theorem dataFlit_of_uncorrectable (hq : flitSeq bytes = (c.str st).expSeq) : dataFlit st bytes true c = c.badFlit st true := by
  have again : (flitSeq bytes == (c.str st).expSeq) = true := beq_iff_eq.mpr hq
  exact (if_neg (by simp)).trans ((if_neg fun behind => behind.2 hq).trans (congrArg _ again))

section
variable (hq : flitSeq bytes ≠ (c.str st).expSeq)
include hq

theorem dataFlit_of_behind (hb : ((c.str st).expSeq - flitSeq bytes).toNat < 2048) (bad : Bool) : dataFlit st bytes bad c = c :=
  (if_neg fun expected => hq expected.1).trans (if_pos ⟨hb, hq⟩)

theorem dataFlit_of_ahead (ha : 2048 ≤ ((c.str st).expSeq - flitSeq bytes).toNat) (bad : Bool) :
    dataFlit st bytes bad c = c.badFlit st false := by
  have other : (flitSeq bytes == (c.str st).expSeq) = false := beq_eq_false_iff_ne.mpr hq
  exact (if_neg fun expected => hq expected.1).trans ((if_neg fun behind => Nat.not_lt.mpr ha behind.1).trans (congrArg _ other))

end
end

/-! ### A strait without credits (R398) -/

/-- STALL_CYCLE of a strait without credits since a time, and the freeze, cause 0x06. -/
def Chip.creditStall (c : Chip) (st : Strait) (t : Nat) : Chip :=
  (c.evStr st 0x0204 (mkWord [(40, 8, 7)]) (BitVec.ofNat 64 t)).freezeStr st 0x06 0 0

/-- The time since which credits are missing, where that is 1 ms ago or more. -/
def Chip.stallDue (c : Chip) : Option Nat → Option Nat
  | some t => if t + msTk 1 ≤ c.up then some t else none
  | none => none

section
variable {c : Chip}

theorem stallDue_of_early {o : Option Nat} (h : ∀ u, o = some u → c.up < u + 117500) : c.stallDue o = none := by
  cases o with
  | none => rfl
  | some u => exact if_neg (Nat.not_le.mpr (h u rfl))

theorem stallDue_of_due {t : Nat} (h : t + 117500 ≤ c.up) : c.stallDue (some t) = some t := if_pos h

/-- VC-C's time goes before VC-M's, and a strait already frozen is left as it is. -/
theorem creditStallTimeout_eq (st : Strait) : creditStallTimeout st c =
    if (c.str st).frozen then c
    else ((c.stallDue (c.str st).noCreditC).or (c.stallDue (c.str st).noCreditM)).elim c (c.creditStall st) := by
  change (match c.stallDue (c.str st).noCreditC, c.stallDue (c.str st).noCreditM with
    | none, none => c
    | a, b => if (c.str st).frozen then c else c.creditStall st (a.getD (b.getD 0))) = _
  cases c.stallDue (c.str st).noCreditC with
  | some t => rfl
  | none =>
    cases c.stallDue (c.str st).noCreditM with
    | none => exact (ite_self c).symm
    | some t => rfl

section
variable {st : Strait}

theorem creditStallTimeout_of_early (h : ∀ u, ((c.str st).noCreditC = some u ∨ (c.str st).noCreditM = some u) → c.up < u + 117500) :
    creditStallTimeout st c = c := by
  rw [creditStallTimeout_eq, stallDue_of_early fun u hu => h u (.inl hu), stallDue_of_early fun u hu => h u (.inr hu)]
  exact ite_self c

theorem creditStallTimeout_of_frozen (hf : (c.str st).frozen = true) : creditStallTimeout st c = c := by
  rw [creditStallTimeout_eq, if_pos hf]

theorem creditStallTimeout_of_due {t : Nat}
    (h : (c.str st).noCreditC = some t ∨ ((c.str st).noCreditC = none ∧ (c.str st).noCreditM = some t)) (hd : t + 117500 ≤ c.up)
    (hf : (c.str st).frozen = false) : creditStallTimeout st c = c.creditStall st t := by
  rw [creditStallTimeout_eq, if_neg (ne_true_of_eq_false hf)]
  rcases h with hC | ⟨hC, hM⟩
  · rw [hC, stallDue_of_due hd]
    rfl
  · rw [hC, hM, stallDue_of_due hd]
    rfl

end
end
end Sys2Proof.Machine

/-! ### The statement -/

namespace Sys2Proof
open Sys2Proof.Machine

/-- Settles O43: each clause is one case of `flitReceive`, of `dataFlit` or of `creditStallTimeout`. That a flit whose CRC fails counts as a
failed data flit is the model's choice (log 22). -/
theorem flitsAreAcceptedRepeatedOrRefused : Obligations.FlitsAreAcceptedRepeatedOrRefused := by
  unfold Obligations.FlitsAreAcceptedRepeatedOrRefused
  refine ⟨?flit, ?stall⟩
  case flit =>
    rintro s _ st bytes n bad hl rfl
    rw [exec_flitReceive hl]
    refine ⟨fun ha hi hu => ?closed, ?opened⟩
    case closed => rw [flitReceive_of_closed ha hi hu, after_chip]
    case opened =>
      rintro ht d _ hd rfl
      have counted : s.chip.countFec st n bad = d := hd
      refine ⟨fun hc => ?badCrc, fun hc e f he hf => ?goodCrc⟩
      case badCrc => rw [flitReceive_of_badCrc ht hc, counted]
      case goodCrc =>
        have taken : s.chip.flitTaken st bytes n bad = f := by
          subst hd he hf
          rfl
        refine ⟨fun hk => ?otherKind, ?dataKind⟩
        case otherKind => rw [flitReceive_of_otherKind ht hc hk, taken]
        case dataKind =>
          rintro hk _ _ rfl rfl
          rw [flitReceive_of_dataKind ht hc hk, taken]
          refine ⟨?expected, ?uncorrectable, fun hq hb => ?behind, fun hq ha => ?ahead⟩
          case expected =>
            rintro hq rfl
            rw [dataFlit_of_expected hq]
            rfl
          case uncorrectable =>
            rintro hq rfl
            rw [dataFlit_of_uncorrectable hq]
          case behind => rw [dataFlit_of_behind hq hb]
          case ahead => rw [dataFlit_of_ahead hq ha]
  case stall =>
    rintro s _ st t hl rfl
    rw [exec_creditStallTimeout hl]
    refine ⟨fun early => ?_, fun hf => ?_, fun h hd hf => ?_⟩
    · rw [creditStallTimeout_of_early early, after_chip]
    · rw [creditStallTimeout_of_frozen hf, after_chip]
    · rw [creditStallTimeout_of_due h hd hf]
      rfl

end Sys2Proof
end

section
/-! PROOFS of the family 12_keeper: watches and harvests, the mailbox registers and the next request, the observation commands, attestation,
updates and the Keeper's restart, PCIe resets, the SMBus target, the data registers of the test port, and the seven statements. -/
namespace Sys2Proof.Machine

/-! ### The rows behind the front end -/

section
variable {s : State} {who : Issuer} (hl : s.live = true)
include hl

theorem exec_watchFire (t : TileId) : exec (.watchFire t) s = .next (after s (watchFire t.toNat s.chip)) := onChip_live hl _
theorem exec_watchCopyDone (t : TileId) (busErr : Bool) :
    exec (.watchCopyDone t busErr) s = .next (after s (watchCopyDone t.toNat busErr s.chip)) := onChip_live hl _
theorem exec_harvestStored : exec .harvestStored s = .next (after s (harvestStored s.chip)) := onChip_live hl _
theorem exec_mbxReqTailWrite (v : W32) :
    exec (.mbxReqTailWrite who v) s = .next (after s (mbxReqTail (issuerNum who) v s.chip)) := onChip_live hl _
theorem exec_mbxRspHeadWrite (v : W32) :
    exec (.mbxRspHeadWrite who v) s = .next (after s (mbxRspHead (issuerNum who) v s.chip)) := onChip_live hl _
theorem exec_mbxEvtHeadWrite (v : W32) :
    exec (.mbxEvtHeadWrite who v) s = .next (after s (mbxEvtHead (issuerNum who) v s.chip)) := onChip_live hl _
theorem exec_mailboxRequestRead :
    exec (.mailboxRequestRead who) s = .next (after s (mailboxRequestRead (issuerNum who) s.chip)) := onChip_live hl _

end

/-! ### Watches (R511, R512) -/

section
variable {c : Chip} {t : Nat} {w : Watch} (hw : c.watches.find? (fun w => w.tile = t) = some w)
include hw

theorem watchFire_of_ready (hr : w.ready = true) (hc : w.copying = false) (hrun : c.runsOn t = true) (hst : (c.tile t).st = .running)
    (hd : (c.tile t).cmdDone w.target ((c.pushes.e ++ c.pushes.w).filter (fun p => p.tile = t)) = true) :
    watchFire t c = (c.updWatch t (fun w => { w with ready := false, copying := true, fires := w.fires + 1 })).updTile t
      (fun x => { x with watchHold := true }) := by
  unfold watchFire
  rw [hw]
  exact when_of (by rw [hr, hc, hrun, hst, hd]; rfl) _ c

theorem watchFire_of_notReady (hr : w.ready = false) : watchFire t c = c := by
  unfold watchFire
  rw [hw]
  exact when_of_false (by simp [hr]) _ c

end

/-- The copy of a tile's watch is over, and issue resumes there. -/
def Chip.watchResumes (c : Chip) (t : Nat) : Chip :=
  (c.updWatch t (fun w => { w with copying := false })).updTile t (fun x => { x with watchHold := false })

/-- The header before a watch's copy; poison is whether a granule copied was poisoned (R512; the fields' places are log 19, DESIGN
CHOICE). -/
def Chip.watchHead (c : Chip) (t : Nat) (w : Watch) (poison : Bool) : List Byte :=
  wordsBytes [BitVec.ofNat 64 t, w.layer.setWidth 64, w.oper.setWidth 64, BitVec.ofNat 64 w.step, c.tide.count, BitVec.ofNat 64 w.len,
    BitVec.ofNat 64 w.fires, BitVec.ofNat 64 (b2n poison)]

/-- WATCH_DONE with its status and the bytes copied. -/
def Chip.watchDone (c : Chip) (t : Nat) (w : Watch) (st : W16) (len : Nat) : Chip :=
  c.raise w.ctx 0x0905 1 t (mkWord [(48, 16, st.toNat), (36, 12, t), (32, 4, w.fires)]) (BitVec.ofNat 64 len)

section
variable {c : Chip} {t : Nat} {w : Watch} (hw : c.watches.find? (fun w => w.tile = t) = some w) (hc : w.copying = true)
include hw hc

theorem watchCopyDone_of_landed {rs : List (Nat × Nat)} {r : Chip × List Byte × Bool} (hrs : (c.hnd t w.handle).ranges t w.off w.len = rs)
    (hr : c.fetchAll otherReader rs = r) : watchCopyDone t false c =
      ((((r.1.takePort 2 rs).hostWrite w.ref.toNat (c.watchHead t w r.2.2 ++ r.2.1)).watchResumes t).watchDone t w
        (if r.2.2 then stPoisoned else stOk) w.len) := by
  subst hrs hr
  unfold watchCopyDone
  rw [hw]
  exact when_of hc _ c

theorem watchCopyDone_of_busError : watchCopyDone t true c = (c.watchResumes t).watchDone t w stBounds 0 := by
  unfold watchCopyDone
  rw [hw]
  exact when_of hc _ c

end

/-! ### Harvests that the Keeper stores (R515, R516) -/

/-- HARVEST_READY, which names the slot. -/
def Chip.harvestReady (c : Chip) (h : HarvReq) (slot : Nat) : Chip :=
  c.evMod 0x0708 (mkWord [(61, 3, h.kind.toNat), (49, 12, h.id.toNat), (44, 5, slot)]) c.tide.count

section
variable {c : Chip} {h : HarvReq} {hs : List HarvReq} (hq : c.harvQ = h :: hs)
include hq

theorem harvestStored_of_stopped (hk : c.keeper.state ≠ .running) : harvestStored c = c := by
  unfold harvestStored
  rw [hq]
  exact when_of_false (beq_eq_false_iff_ne.mpr hk) _ c

section
variable (hk : c.keeper.state = .running)
include hk

theorem harvestStored_of_slot {k : Nat} (hf : c.harvestSlot = some k) : harvestStored c =
    ({ c with harvests := tblInsert c.harvests k ⟨h.kind, h.id, c.tide.count, c.harvestBytes h.kind h.id.toNat h.cause.toNat, false⟩,
              harvQ := hs } : Chip).harvestReady h k := by
  unfold harvestStored
  rw [hq]
  refine (when_of (beq_iff_eq.mpr hk) _ c).trans ?_
  rw [hf]
  rfl

theorem harvestStored_of_noSlot (hf : c.harvestSlot = none) : harvestStored c =
    ({ c with pan := { c.pan with harvLost := c.pan.harvLost + 1 }, harvQ := hs } : Chip).harvestReady h 31 := by
  unfold harvestStored
  rw [hq]
  refine (when_of (beq_iff_eq.mpr hk) _ c).trans ?_
  rw [hf]
  rfl

end
end

/-! ### The index registers of a mailbox (R432, R433, R562) -/

/-- The response ring's head moved, and what waited for room written. -/
def Chip.readRsps (c : Chip) (n : Nat) (v : W32) : Chip :=
  (fun d : Chip => flushRsps n (d.ctx n).rsps.length d) (c.updCtx n (fun x => { x with rspHead := v }))

section
variable {c : Chip} {n : Nat}

theorem index_writes_of_closed (h : c.pageOpen n = false) (v : W32) :
    mbxReqTail n v c = c ∧ mbxRspHead n v c = c ∧ mbxEvtHead n v c = c :=
  ⟨when_of_false h _ c, when_of_false h _ c, when_of_false h _ c⟩

section
variable (h : c.pageOpen n = true)
include h

theorem mbxReqTail_of_open (v : W32) : mbxReqTail n v c =
    c.updCtx n (fun _ => if 64 < (v - (c.ctx n).reqHead).toNat then { c.ctx n with badDoorbell := true } else { c.ctx n with reqTail := v }) :=
  when_of h _ c

theorem mbxRspHead_of_open (v : W32) : mbxRspHead n v c =
    if ((c.ctx n).rspTail - (c.ctx n).rspHead).toNat < (v - (c.ctx n).rspHead).toNat then c.updCtx n (fun x => { x with badDoorbell := true })
    else c.readRsps n v :=
  when_of h _ c

theorem mbxEvtHead_of_open (v : W32) : mbxEvtHead n v c =
    c.updCtx n (fun _ => if ((c.ctx n).evtTail - (c.ctx n).evtHead).toNat < (v - (c.ctx n).evtHead).toNat
      then { c.ctx n with badDoorbell := true } else { c.ctx n with evtHead := v }) :=
  when_of h _ c

end

/-! ### MAILBOX_REQUEST_READ (R435 to R440, R581) -/

/-- The entries of a mailbox's next request are passed, and the turn is its own. -/
def Chip.passReq (c : Chip) (n : Nat) : Chip :=
  { c.updCtx n (fun x => { x with reqHead := x.reqHead + BitVec.ofNat 32 (c.nextReq n).2.1 }) with keeper := { c.keeper with turn := n } }

theorem mailboxRequestRead_of_unreadable (h : c.canRead n = false ∨ c.inTurn n = false) : mailboxRequestRead n c = c :=
  if_pos (by rcases h with h | h <;> simp [h])

theorem mailboxRequestRead_of_readable (hr : c.canRead n = true) (ht : c.inTurn n = true) : mailboxRequestRead n c =
    if (c.nextReq n).2.2.1 then (c.passReq n).respond n (c.nextReq n).1 stBadArg [] 0xFFFF 0
    else match (c.passReq n).refusal n (c.nextReq n).1 (c.nextReq n).2.2.2 with
      | some r => (c.passReq n).respond n (c.nextReq n).1 r.1 [] r.2 0
      | none => (c.passReq n).updCtx n (fun x => { x with cur := some (c.nextReq n).1 }) :=
  if_neg (by simp [hr, ht])

end

/-! ### The observation rows -/

section
variable {s : State} {who : Issuer} {q : Req} (hl : s.live = true)
include hl

theorem exec_obsCounters (hr : Requested s.chip (issuerNum who) 0x0700 q) (busErr : Bool) :
    exec (.obsCounters who busErr) s = .next (after s (obsCounters (issuerNum who) busErr s.jtag q s.chip)) :=
  onChipJ_onReq_of_requested hl rfl hr rfl _
theorem exec_obsWatch (hr : Requested s.chip (issuerNum who) 0x0702 q) :
    exec (.obsWatch who) s = .next (after s (obsWatch (issuerNum who) q s.chip)) := onChip_onReq_of_requested hl rfl hr rfl _
theorem exec_obsHarvest (hr : Requested s.chip (issuerNum who) 0x0703 q) (busErr : Bool) :
    exec (.obsHarvest who busErr) s = .next (after s (obsHarvest (issuerNum who) busErr q s.chip)) := onChip_onReq_of_requested hl rfl hr rfl _

section
variable (hr : Requested s.chip (issuerNum who) 0x0701 q)
include hr

theorem exec_obsTraceConfigure (ho : q.traceOp = 0 ∨ 3 < q.traceOp) :
    exec (.obsTraceConfigure who) s = .next (after s (obsTraceConfigure (issuerNum who) q s.chip)) :=
  onChip_onReq_of_requested hl rfl hr (by simpa using ho) _
theorem exec_obsTraceArm (ho : q.traceOp = 1) :
    exec (.obsTraceArm who) s = .next (after s (obsTraceArm (issuerNum who) q s.chip)) :=
  onChip_onReq_of_requested (k := fun q => q.traceOp == 1) hl rfl hr (beq_iff_eq.mpr ho) _
theorem exec_obsTraceStop (ho : q.traceOp = 2) :
    exec (.obsTraceStop who) s = .next (after s (obsTraceStop (issuerNum who) q s.chip)) :=
  onChip_onReq_of_requested (k := fun q => q.traceOp == 2) hl rfl hr (beq_iff_eq.mpr ho) _
theorem exec_obsTraceRead (ho : q.traceOp = 3) (busErr : Bool) :
    exec (.obsTraceRead who busErr) s = .next (after s (obsTraceRead (issuerNum who) busErr q s.chip)) :=
  onChip_onReq_of_requested (k := fun q => q.traceOp == 3) hl rfl hr (beq_iff_eq.mpr ho) _

end
end

/-! ### obs.counters (R494) -/

/-- The first tile, the number of tiles and the blocks of a counter dump. -/
def countersFirst (q : Req) : Nat := fld (q.w 0) 11 0
def countersCount (q : Req) : Nat := fld (q.w 0) 24 12
def countersBlocks (q : Req) : List (Blk × Nat) := dumpBlocks (fld (q.w 0) 39 32) (countersFirst q) (countersCount q)

/-- Bytes of a counter dump: its header and its blocks. -/
def countersSize (q : Req) : Nat := 64 + (countersBlocks q).foldl (fun k b => k + 8 * b.2) 0

/-- Whether a counter dump holds a word that its issuer may not read. -/
def Chip.countersHidden (c : Chip) (n : Nat) (q : Req) : Bool :=
  (countersBlocks q).any (fun b => (List.range b.2).any (fun i => !c.sees n b.1 (8 * i)))

/-- The header of a counter dump, then its blocks. -/
def Chip.countersBytes (c : Chip) (j : Jtag) (q : Req) : List Byte :=
  wordsBytes [c.tide.count, mkWord [(32, 8, fld (q.w 0) 39 32), (12, 13, countersCount q), (0, 12, countersFirst q)],
    BitVec.ofNat 64 (countersSize q), 0, 0, 0, 0, 0] ++ (countersBlocks q).flatMap (fun b => c.blkBytes j b.1 b.2)

section
variable {c : Chip} {n : Nat} {q : Req}

theorem obsCounters_of_badRange (h : 4096 < countersFirst q + countersCount q) (busErr : Bool) (j : Jtag) :
    obsCounters n busErr j q c = c.answer n q stBadArg [] 0 := if_pos h

section
variable (ht : countersFirst q + countersCount q ≤ 4096)
include ht

theorem obsCounters_of_noRoom (h : q.room < countersSize q) (busErr : Bool) (j : Jtag) : obsCounters n busErr j q c = c.refuse n q stBadArg :=
  (if_neg (Nat.not_lt.mpr ht)).trans (if_pos h)

section
variable (hs : countersSize q ≤ q.room)
include hs

theorem obsCounters_of_hidden (h : c.countersHidden n q = true) (busErr : Bool) (j : Jtag) :
    obsCounters n busErr j q c = c.answer n q stNotPermitted [] 0 :=
  (if_neg (Nat.not_lt.mpr ht)).trans ((if_neg (Nat.not_lt.mpr hs)).trans (if_pos h))

theorem obsCounters_of_visible (h : c.countersHidden n q = false) (busErr : Bool) (j : Jtag) :
    obsCounters n busErr j q c = c.toRef n q busErr (c.countersBytes j q) [c.tide.count] :=
  (if_neg (Nat.not_lt.mpr ht)).trans ((if_neg (Nat.not_lt.mpr hs)).trans (if_neg (ne_true_of_eq_false h)))

end
end

/-! ### obs.trace: configure (R498 to R501; that it discards the last capture is log 33, DESIGN CHOICE) -/

/-- A spill region whose size is no multiple of 4 MiB from 4 MiB to 4 GiB. -/
def badSpill (q : Req) : Prop :=
  q.w 1 ≠ 0 ∧ ((q.w 2).toNat = 0 ∨ (q.w 2).toNat % 0x40_0000 ≠ 0 ∨ 0x1_0000_0000 < (q.w 2).toNat)

/-- Whether a configuration selects tiles or kinds that its issuer may not trace. -/
def Chip.traceHidden (c : Chip) (n : Nat) (q : Req) : Bool := !c.selAllowed n (fld (q.w 4) 63 52) (fld (q.w 4) 51 39) (fld (q.w 4) 8 0)

/-- Whether a spill region lies outside the issuer's memory. -/
def Chip.spillHidden (c : Chip) (n : Nat) (q : Req) : Bool :=
  decide (q.w 1 ≠ 0) && !(inLp (q.w 1).toNat && covered (c.ctxRegions n) (q.w 1).toNat (q.w 2).toNat)

/-- The pan configured by an issuer: idle and empty. -/
def Pan.configured (p : Pan) (n : Nat) (q : Req) : Pan :=
  { p with owner := some n, mode := BitVec.ofNat 2 (fld (q.w 0) 5 4), st := .idle, spill := q.w 1,
           spillSize := if q.w 1 = 0 then 0 else (q.w 2).toNat, post := fld (q.w 3) 63 32, pre := fld (q.w 3) 31 0,
           sel := [q.w 4, q.w 5, q.w 6, q.w 7], recs := [], total := 0, lostCap := 0, bufs := [] }

theorem obsTraceConfigure_of_reserved (h : q.traceOp ≠ 0 ∨ fld (q.w 0) 5 4 = 3) : obsTraceConfigure n q c = c.answer n q stBadArg [] 0 := if_pos h

section
variable (ho : q.traceOp = 0) (hm : fld (q.w 0) 5 4 ≠ 3)
include ho hm

theorem obsTraceConfigure_of_owned (hl : c.pan.live = true) (hn : c.pan.owner ≠ some n) : obsTraceConfigure n q c = c.refuse n q stBusy :=
  (if_neg (fun h => h.elim (· ho) hm)).trans (if_pos (by rw [hl, bne_iff_ne.mpr hn]; rfl))

section
variable (hp : c.pan.live = false ∨ c.pan.owner = some n)
include hp

theorem obsTraceConfigure_of_badSpill (h : badSpill q) : obsTraceConfigure n q c = c.answer n q stBadArg [] 16 :=
  (if_neg (fun h => h.elim (· ho) hm)).trans ((if_neg (by rcases hp with h | h <;> simp [h])).trans (if_pos h))

/-- A configuration whose MODE and spill region are good: a refusal, a window around a trigger that the pan or the spill region cannot hold
among them, or the pan taken. -/
theorem obsTraceConfigure_of_goodSpill (h : ¬badSpill q) : obsTraceConfigure n q c =
    if 4096 < fld (q.w 4) 51 39 then c.answer n q stBadArg [] 0x20
    else if 4 < fld (q.w 5) 63 60 then c.answer n q stBadArg [] 0x28
    else if c.traceHidden n q then c.answer n q stNotPermitted [] 0x20
    else if c.spillHidden n q then c.answer n q stNotPermitted [] 8
    else if fld (q.w 0) 5 4 = 2 ∧ (if q.w 1 = 0 then 524288 else (q.w 2).toNat / 32) < fld (q.w 3) 31 0 + fld (q.w 3) 63 32 + 2
      then c.refuse n q stNoSpace
    else ({ c with pan := c.pan.configured n q } : Chip).refuse n q stOk :=
  (if_neg (fun h => h.elim (· ho) hm)).trans ((if_neg (by rcases hp with h | h <;> simp [h])).trans (if_neg h))

end
end

/-! ### obs.trace: arm, stop and read (R498, R502; by the owner only is log 33, DESIGN CHOICE) -/

theorem obsTraceArm_of_other (h : c.pan.owner ≠ some n) : obsTraceArm n q c = c.refuse n q stNotPermitted := if_pos h
theorem obsTraceStop_of_other (h : c.pan.owner ≠ some n) : obsTraceStop n q c = c.refuse n q stNotPermitted := if_pos h
theorem obsTraceRead_of_other (h : c.pan.owner ≠ some n) (busErr : Bool) : obsTraceRead n busErr q c = c.refuse n q stNotPermitted := if_pos h

/-- The waiting records stamped before the present tick. -/
def Chip.olderBufs (c : Chip) : List PanBuf :=
  c.pan.bufs.map (fun b => { b with recs := b.recs.filter (fun r => decide (fld r.w0 63 16 ≠ c.now % 2 ^ 48)) })

/-- Those records taken into the capture as far as there is room. -/
def Chip.drainOlder (c : Chip) : Chip :=
  panDrain (c.olderBufs.foldl (fun k b => k + b.recs.length + 2) 0) { c with pan := { c.pan with bufs := c.olderBufs } }

section
variable (h : c.pan.owner = some n)
include h

theorem obsTraceArm_of_owner : obsTraceArm n q c = ({ c with pan := c.pan.arm } : Chip).refuse n q stOk := if_neg (not_not_intro h)

theorem obsTraceStop_of_idle (hl : c.pan.live = false) : obsTraceStop n q c = c.refuse n q stOk :=
  (if_neg (not_not_intro h)).trans (if_pos (by rw [hl]; rfl))

theorem obsTraceStop_of_live (hl : c.pan.live = true) : obsTraceStop n q c =
    ({ c.drainOlder with pan := { c.drainOlder.pan with st := .stopped, bufs := [] } } : Chip).refuse n q stOk :=
  (if_neg (not_not_intro h)).trans (if_neg (by rw [hl]; exact Bool.false_ne_true))

theorem obsTraceRead_of_running (hs : c.pan.st ≠ .stopped) (busErr : Bool) : obsTraceRead n busErr q c = c.refuse n q stBusy :=
  (if_neg (not_not_intro h)).trans (if_pos hs)

theorem obsTraceRead_of_stopped (hs : c.pan.st = .stopped) {bs : List Byte} (hb : c.traceHead ++ c.pan.recs.flatMap TRec.bytes = bs)
    (busErr : Bool) : obsTraceRead n busErr q c = if q.room < bs.length then c.refuse n q stBadArg else c.toRef n q busErr bs [] := by
  subst hb
  exact (if_neg (not_not_intro h)).trans (if_neg (not_not_intro hs))

end

/-! ### obs.watch (R511) -/

/-- The tile, the handle and the step that obs.watch names, and the command that it watches. -/
def watchTile (q : Req) : Nat := fld (q.w 0) 43 32
def watchHandle (q : Req) : Nat := fld (q.w 0) 49 44
def Chip.watchCmd (c : Chip) (r : Run) (q : Req) : Option Nat :=
  c.watchTarget r (watchTile q) (fld (q.w 0) 15 0) (fld (q.w 0) 31 16) (q.w 1).toNat

/-- A handle of neither kind that holds bytes, or a range that leaves it. -/
def Chip.badWatchRange (c : Chip) (q : Req) : Prop :=
  ((c.hnd (watchTile q) (watchHandle q)).kind ≠ 1 ∧ (c.hnd (watchTile q) (watchHandle q)).kind ≠ 2) ∨
    (c.hnd (watchTile q) (watchHandle q)).fits (q.w 2).toNat (q.w 3).toNat = false

theorem not_badWatchRange (hk : (c.hnd (watchTile q) (watchHandle q)).kind = 1 ∨ (c.hnd (watchTile q) (watchHandle q)).kind = 2)
    (hf : (c.hnd (watchTile q) (watchHandle q)).fits (q.w 2).toNat (q.w 3).toNat = true) : ¬c.badWatchRange q := by
  rintro (⟨h1, h2⟩ | h)
  · exact hk.elim h1 h2
  · exact ne_true_of_eq_false h hf

/-- A length that is no multiple of 64 B from 64 B to 64 MiB, or that the buffer cannot take behind a header. -/
def badWatchLen (q : Req) : Prop :=
  (q.w 3).toNat = 0 ∨ (q.w 3).toNat % 64 ≠ 0 ∨ 0x400_0000 < (q.w 3).toNat ∨ q.room < (q.w 3).toNat + 64

theorem not_badWatchLen (h0 : (q.w 3).toNat ≠ 0) (h64 : (q.w 3).toNat % 64 = 0) (hmax : (q.w 3).toNat ≤ 0x400_0000)
    (hr : (q.w 3).toNat + 64 ≤ q.room) : ¬badWatchLen q := by
  unfold badWatchLen
  omega

/-- The watch that is added: ready unless its command is done (log 31, DESIGN CHOICE). -/
def Chip.newWatch (c : Chip) (n : Nat) (q : Req) (ix : Nat) : Watch :=
  { tile := watchTile q, ctx := n, handle := watchHandle q, oper := BitVec.ofNat 16 (fld (q.w 0) 31 16),
    layer := BitVec.ofNat 16 (fld (q.w 0) 15 0), step := (q.w 1).toNat, off := (q.w 2).toNat, len := (q.w 3).toNat, ref := q.ref,
    target := ix, fires := 0, copying := false,
    ready := !((c.tile (watchTile q)).cmdDone ix ((c.pushes.e ++ c.pushes.w).filter (fun p => p.tile = watchTile q))) }

/-- Whether no further watch can be added for a tile: it has one, or there are eight. -/
def Chip.watchesFull (c : Chip) (t : Nat) : Bool := c.watches.any (fun v => v.tile == t) || decide (8 ≤ c.watches.length)

theorem watchesFull_iff {t : Nat} : c.watchesFull t = true ↔ c.watches.any (fun v => v.tile == t) = true ∨ 8 ≤ c.watches.length := by
  rw [Chip.watchesFull, Bool.or_eq_true, decide_eq_true_eq]

theorem obsWatch_of_noRun (h : c.run = none) : obsWatch n q c = c.refuse n q stNotPermitted := by
  unfold obsWatch
  dsimp only
  rw [h]

section
variable {r : Run} (hr : c.run = some r)
include hr

theorem obsWatch_of_noCommand (h : r.tiles.contains (watchTile q) = false ∨ c.watchCmd r q = none) :
    obsWatch n q c = c.answer n q stBadArg [] 0 := by
  have noneFound : (if r.tiles.contains (watchTile q) then c.watchCmd r q else none) = none := by
    rcases h with h | h
    · exact if_neg (ne_true_of_eq_false h)
    · rw [h, ite_self]
  unfold Chip.watchCmd watchTile at noneFound
  unfold obsWatch
  dsimp only
  rw [hr]
  dsimp only
  rw [noneFound]

section
variable {ix : Nat} (ht : r.tiles.contains (watchTile q) = true) (hc : c.watchCmd r q = some ix)
include ht hc

theorem obsWatch_of_command : obsWatch n q c =
    if ((c.hnd (watchTile q) (watchHandle q)).kind ≠ 1 ∧ (c.hnd (watchTile q) (watchHandle q)).kind ≠ 2) ∨
      (c.hnd (watchTile q) (watchHandle q)).fits (q.w 2).toNat (q.w 3).toNat = false then c.answer n q stBounds [] 16
    else if (q.w 3).toNat = 0 ∨ (q.w 3).toNat % 64 ≠ 0 ∨ 0x400_0000 < (q.w 3).toNat ∨ q.room < (q.w 3).toNat + 64
      then c.answer n q stBadArg [] 24
    else if c.watchesFull (watchTile q) then c.answer n q stNotPermitted [] 0
    else ({ c with watches := c.watches ++ [c.newWatch n q ix] } : Chip).refuse n q stOk := by
  have found : (if r.tiles.contains (watchTile q) then c.watchCmd r q else none) = some ix := (if_pos ht).trans hc
  unfold Chip.watchCmd watchTile at found
  unfold obsWatch
  dsimp only
  rw [hr]
  dsimp only
  rw [found]
  rfl

theorem obsWatch_of_badRange (h : c.badWatchRange q) : obsWatch n q c = c.answer n q stBounds [] 16 :=
  (obsWatch_of_command hr ht hc).trans (if_pos h)

section
variable (hb : ¬c.badWatchRange q)
include hb

theorem obsWatch_of_badLen (h : badWatchLen q) : obsWatch n q c = c.answer n q stBadArg [] 24 :=
  (obsWatch_of_command hr ht hc).trans ((if_neg hb).trans (if_pos h))

section
variable (hg : ¬badWatchLen q)
include hg

theorem obsWatch_of_full (h : c.watchesFull (watchTile q) = true) : obsWatch n q c = c.answer n q stNotPermitted [] 0 :=
  (obsWatch_of_command hr ht hc).trans ((if_neg hb).trans ((if_neg hg).trans (if_pos h)))

theorem obsWatch_of_place (h : ¬c.watchesFull (watchTile q) = true) :
    obsWatch n q c = ({ c with watches := c.watches ++ [c.newWatch n q ix] } : Chip).refuse n q stOk :=
  (obsWatch_of_command hr ht hc).trans ((if_neg hb).trans ((if_neg hg).trans (if_neg h)))

end
end
end
end

/-! ### obs.harvest (R490, R514, R516) -/

/-- The kind and the number of the master whose harvest is asked for. -/
def harvestKind (q : Req) : Nat := fld (q.w 0) 63 61
def harvestId (q : Req) : Nat := fld (q.w 0) 11 0

/-- A reserved kind of master, or a number that its kind does not have; kind 4 is the module. -/
def noHarvestMaster (kind id : Nat) : Prop := 4 < kind ∨ (kind = 1 ∧ 15 < id) ∨ (kind = 2 ∧ 3 < id) ∨ (kind = 3 ∧ 15 < id)

/-- A harvest's bytes written at REF, where they fit and no PCIe error is met. -/
def Chip.giveHarvest (c d : Chip) (n : Nat) (busErr : Bool) (q : Req) (bs : List Byte) : Chip :=
  if busErr || decide (q.room < bs.length) then c.refuse n q stBounds else d.toRef n q false bs []

/-- The stored harvest that is given: the newest of the master, and none of the module. -/
def Chip.keptHarvest (c : Chip) (q : Req) : Option (Nat × Harvest) :=
  if harvestKind q = 4 then none else c.newestHarvest (harvestKind q) (harvestId q)

/-- A stored harvest given and its slot freed, or one taken at once. -/
def Chip.giveKept (c : Chip) (n : Nat) (busErr : Bool) (q : Req) : Option (Nat × Harvest) → Chip
  | some e => c.giveHarvest { c with harvests := tblErase c.harvests e.1 } n busErr q e.2.bytes
  | none => c.giveHarvest c n busErr q
      (c.harvestBytes (BitVec.ofNat 3 (harvestKind q)) (harvestId q) (c.harvestCause (harvestKind q) (harvestId q)))

theorem obsHarvest_of_noMaster (h : noHarvestMaster (harvestKind q) (harvestId q)) (busErr : Bool) :
    obsHarvest n busErr q c = c.answer n q stBadArg [] 0 := if_pos h

section
variable (hm : ¬noHarvestMaster (harvestKind q) (harvestId q))
include hm

theorem obsHarvest_of_hidden (h : c.harvestOk n (harvestKind q) (harvestId q) = false) (busErr : Bool) :
    obsHarvest n busErr q c = c.answer n q stNotPermitted [] 0 :=
  (if_neg hm).trans (if_pos (congrArg (!·) h))

section
variable (h : c.harvestOk n (harvestKind q) (harvestId q) = true)
include h

theorem obsHarvest_of_visible (busErr : Bool) : obsHarvest n busErr q c = c.giveKept n busErr q (c.keptHarvest q) := by
  refine (if_neg hm).trans ((if_neg (ne_true_of_eq_false (congrArg (!·) h))).trans ?_)
  unfold Chip.keptHarvest harvestKind harvestId
  generalize (if fld (q.w 0) 63 61 = 4 then none else c.newestHarvest (fld (q.w 0) 63 61) (fld (q.w 0) 11 0)) = kept
  cases kept <;> rfl

theorem obsHarvest_of_stored {e : Nat × Harvest} (hk : harvestKind q ≠ 4) (he : c.newestHarvest (harvestKind q) (harvestId q) = some e)
    (busErr : Bool) : obsHarvest n busErr q c = c.giveHarvest { c with harvests := tblErase c.harvests e.1 } n busErr q e.2.bytes := by
  rw [obsHarvest_of_visible hm h, Chip.keptHarvest, if_neg hk, he]
  rfl

theorem obsHarvest_of_notStored {bs : List Byte} (hk : harvestKind q = 4 ∨ c.newestHarvest (harvestKind q) (harvestId q) = none)
    (hb : c.harvestBytes (BitVec.ofNat 3 (harvestKind q)) (harvestId q) (c.harvestCause (harvestKind q) (harvestId q)) = bs) (busErr : Bool) :
    obsHarvest n busErr q c = c.giveHarvest c n busErr q bs := by
  have noneKept : c.keptHarvest q = none := hk.elim (if_pos ·) fun hk => by rw [Chip.keptHarvest, hk, ite_self]
  rw [obsHarvest_of_visible hm h, noneKept, Chip.giveKept, hb]

end
end

section
variable {d : Chip} {busErr : Bool} {bs : List Byte}

theorem giveHarvest_of_refused (h : busErr = true ∨ q.room < bs.length) : c.giveHarvest d n busErr q bs = c.refuse n q stBounds :=
  if_pos (by simpa using h)
theorem giveHarvest_of_room (hb : busErr = false) (hr : bs.length ≤ q.room) : c.giveHarvest d n busErr q bs = d.toRef n q false bs [] :=
  if_neg (by simp [hb, hr])

end

end

/-! ### The security and watchdog rows -/

section
variable {s : State} {who : Issuer} {q : Req} (hl : s.live = true)
include hl

theorem exec_secAttest (hr : Requested s.chip (issuerNum who) 0x0800 q) (busErr : Bool) :
    exec (.secAttest who busErr) s = .next (after s (secAttest (issuerNum who) busErr q s.chip)) := onChip_onReq_of_requested hl rfl hr rfl _
theorem exec_secUpdate (hr : Requested s.chip (issuerNum who) 0x0801 q) (busErr : Bool) :
    exec (.secUpdate who busErr) s = .next (after s (secUpdate (issuerNum who) busErr q s.chip)) := onChip_onReq_of_requested hl rfl hr rfl _
theorem exec_secUpdateDone : exec .secUpdateDone s = .next (after s (secUpdateDone s.chip)) := onChip_live hl _
theorem exec_watchdogExpiry : exec .watchdogExpiry s = .next (after s (watchdogExpiry s.chip)) := onChip_live hl _
theorem exec_keeperRestart : exec .keeperRestart s = .next (after s (keeperRestart s.chip)) := onChip_live hl _

end

/-! ### A result at REF (R435) -/

theorem toRef_of_busError (c : Chip) (n : Nat) (q : Req) (bs : List Byte) (ws : List W64) : c.toRef n q true bs ws = c.refuse n q stBounds := rfl
theorem toRef_of_written (c : Chip) (n : Nat) (q : Req) (bs : List Byte) (ws : List W64) :
    c.toRef n q false bs ws = (c.hostWrite q.ref.toNat bs).answerRef n q stOk (wordsBytes ws) bs.length := rfl

/-! ### sec.attest (R538) -/

section
variable {c : Chip} {n : Nat} {q : Req}

theorem secAttest_of_noIdentity (h : c.boot.identityOk = false) (busErr : Bool) : secAttest n busErr q c = c.refuse n q stNotPermitted :=
  if_pos (by rw [h]; rfl)

section
variable (hi : c.boot.identityOk = true)
include hi

theorem secAttest_of_noRoom (hr : q.room < 1536) (busErr : Bool) : secAttest n busErr q c = c.refuse n q stBounds :=
  (if_neg (by simp [hi])).trans (if_pos hr)

/-- The report goes to REF; its signature, if asked for, uses up a fresh nonce. -/
theorem secAttest_of_room (hr : 1536 ≤ q.room) (busErr : Bool) : secAttest n busErr q c =
    ({ c with fresh := ⟨c.fresh.n + 1⟩ } : Chip).toRef n q busErr (c.report (q.payload.take 32) (bit (q.w 4) 0)) [1536] :=
  (if_neg (by simp [hi])).trans (if_neg (Nat.not_lt.mpr hr))

end

/-! ### sec.update (R539; its slot and the time of the erase are log 36, DESIGN CHOICE) -/

/-- The target that sec.update names: 0 firmware, 1 settings. -/
def updateTarget (q : Req) : BitVec 2 := BitVec.ofNat 2 (fld (q.w 0) 1 0)

/-- No buffer, or one that an image of the target cannot have. -/
def badUpdateBuffer (q : Req) : Prop :=
  q.ref = 0 ∨ (updateTarget q = 0 ∧ 0x180_0000 < q.refLen.toNat) ∨ (updateTarget q = 1 ∧ q.refLen.toNat ≠ 1280)

/-- The slot is erased and the image at REF copied into it in the background. -/
def Chip.beginUpdate (c : Chip) (n : Nat) (q : Req) : Chip :=
  (c.norErase (c.updateAt (updateTarget q)).1 (c.updateAt (updateTarget q)).2).goBg n q
    (.update (updateTarget q) (c.hostRead q.ref.toNat q.refLen.toNat))

theorem secUpdate_of_reservedTarget (h : 2 ≤ (updateTarget q).toNat) (busErr : Bool) : secUpdate n busErr q c = c.answer n q stBadArg [] 0 :=
  if_pos h

section
variable (ht : (updateTarget q).toNat < 2)
include ht

theorem secUpdate_of_badBuffer (h : badUpdateBuffer q) (busErr : Bool) : secUpdate n busErr q c = c.refuse n q stBadArg :=
  (if_neg (Nat.not_le.mpr ht)).trans (if_pos h)

section
variable (hb : ¬badUpdateBuffer q)
include hb

theorem secUpdate_of_noSettings (h0 : updateTarget q = 0) (hs : c.boot.setValid = false) (busErr : Bool) :
    secUpdate n busErr q c = c.refuse n q stNotPermitted :=
  (if_neg (Nat.not_le.mpr ht)).trans ((if_neg hb).trans (if_pos ⟨h0, by rw [hs]; rfl⟩))

theorem secUpdate_of_settings (hs : updateTarget q = 1 ∨ c.boot.setValid = true) (busErr : Bool) : secUpdate n busErr q c =
    if c.updateBg.isSome then c.refuse n q stBusy else if busErr then c.refuse n q stBounds else c.beginUpdate n q := by
  refine (if_neg (Nat.not_le.mpr ht)).trans ((if_neg hb).trans (if_neg ?_))
  rintro ⟨h0, hv⟩
  rcases hs with h1 | hs
  · exact absurd (h0.symm.trans h1) (by decide)
  · simp [hs] at hv

end
end

/-! ### The end of an update (R539) -/

theorem secUpdateDone_of_none (h : c.updateBg = none) : secUpdateDone c = c := by
  unfold secUpdateDone
  rw [h]

/-- The boot state record takes an image that is good. -/
def Chip.recordImage (c : Chip) (t : BitVec 2) (slot : Bool) : Chip :=
  c.nextBootRec (fun r => if t = 0 then { r with trialValid := true, trial := slot, attempts := 0 } else { r with set := slot })

/-- The end of an update whose slot holds the copy: a copy that differs from the image at REF, a bad image, or a good one. -/
def Chip.judgeImage (c : Chip) (b : Bg) (t : BitVec 2) (img : List Byte) (slot : Bool) : Chip :=
  if c.hostRead b.req.ref.toNat img.length ≠ img then c.endBg b stDigest [] 0xFFFF 0
  else (if c.updateVerdict t img = .ok then c.recordImage t slot else c).endBg b (c.updateVerdict t img).status [] 0xFFFF 0

section
variable {b : Bg} {t : BitVec 2} {img : List Byte} (hu : c.updateBg = some b) (hk : b.kind = .update t img)
include hu hk

theorem secUpdateDone_eq : secUpdateDone c =
    Chip.when (c.serves b.who) (fun c => (c.norProg (c.updateAt t).1 img).judgeImage b t img (c.updateSlot t)) c := by
  unfold secUpdateDone
  rw [hu]
  dsimp only
  rw [hk]
  rfl

theorem secUpdateDone_of_unserved (hs : c.serves b.who = false) : secUpdateDone c = c :=
  (secUpdateDone_eq hu hk).trans (when_of_false hs _ c)

theorem secUpdateDone_of_served (hs : c.serves b.who = true) :
    secUpdateDone c = (c.norProg (c.updateAt t).1 img).judgeImage b t img (c.updateSlot t) :=
  (secUpdateDone_eq hu hk).trans (when_of hs _ c)

end

section
variable {b : Bg} {t : BitVec 2} {img : List Byte} (slot : Bool)

theorem judgeImage_of_different (h : c.hostRead b.req.ref.toNat img.length ≠ img) :
    c.judgeImage b t img slot = c.endBg b stDigest [] 0xFFFF 0 := if_pos h
theorem judgeImage_of_bad (h : c.hostRead b.req.ref.toNat img.length = img) (hv : c.updateVerdict t img ≠ .ok) :
    c.judgeImage b t img slot = c.endBg b (c.updateVerdict t img).status [] 0xFFFF 0 := by
  rw [Chip.judgeImage, if_neg (not_not_intro h), if_neg hv]
theorem judgeImage_of_good (h : c.hostRead b.req.ref.toNat img.length = img) (hv : c.updateVerdict t img = .ok) :
    c.judgeImage b t img slot = (c.recordImage t slot).endBg b stOk [] 0xFFFF 0 := by
  rw [Chip.judgeImage, if_neg (not_not_intro h), if_pos hv, hv]
  rfl

end

/-! ### The Keeper's watchdog (R427, R540) -/

/-- Whether the watchdog expired at most 1 s ago. -/
def Chip.expiredLately (c : Chip) : Bool := (c.keeper.lastExpiry.map (fun t => decide (c.up ≤ t + secondTk))).getD false

/-- A forced slack, and what the reset of the Keeper loses. -/
def Chip.loseKeeper (c : Chip) : Chip := (c.forceSlack 0x07).loseRequests

theorem watchdogExpiry_of_stopped (h1 : c.keeper.state ≠ .running) (h2 : c.keeper.state ≠ .restarting) : watchdogExpiry c = c :=
  when_of_false (by simp [h1, h2]) _ c

theorem watchdogExpiry_of_active (h : c.keeper.state = .running ∨ c.keeper.state = .restarting) : watchdogExpiry c =
    { c.loseKeeper with keeper := { c.loseKeeper.keeper with
        state := if c.expiredLately then .halted else .restarting, lastExpiry := some c.loseKeeper.up,
        expiryCount := c.loseKeeper.tide.count } } :=
  when_of (by simpa using h) _ c

/-! ### The restart of the Keeper (R428, R457) -/

theorem keeperRestart_of_other (h : c.keeper.state ≠ .restarting) : keeperRestart c = c :=
  when_of_false (beq_eq_false_iff_ne.mpr h) _ c

/-- The Keeper's registers as its firmware starts again. -/
def Chip.rebootKeeper (c : Chip) : Chip :=
  { c with keeper := { c.keeper with state := .running, restartCnt := c.keeper.restartCnt + 1, wdtExpired := true, lostReqs := [] } }

/-- Every open mailbox's generation moves on, and the record of what was lost goes before any other (R457). -/
def Chip.restartMailboxes (c : Chip) : Chip :=
  (((List.range 17).filter c.isOpen).foldl (fun c n => c.updCtx n (fun x => { x with gen := x.gen + 1 })) c).lossRecord

/-- Requests that the reset lost are answered. -/
def Chip.answerLost (c : Chip) (lost : List (Nat × Req)) : Chip := lost.foldl (fun c q => c.respond q.1 q.2 stTimeout [] 0xFFFF 0) c

/-- Contexts whose close waited for the Keeper are closed. -/
def Chip.closeWaiting (c : Chip) : Chip := c.keeper.closing.foldl (fun c n => (c.closeReqs n).closeRun n) c

section
variable (h : c.keeper.state = .restarting)
include h

/-- Without LPDDR5X there is no copy of the firmware to restart from (log 35, DEDUCED). -/
theorem keeperRestart_of_noMemory (hm : c.boot.memOk = false) : keeperRestart c = { c with keeper := { c.keeper with state := .halted } } :=
  (when_of (beq_iff_eq.mpr h) _ c).trans (if_pos (by rw [hm]; rfl))

theorem keeperRestart_of_memory {d : Chip} (hm : c.boot.memOk = true) (hd : c.rebootKeeper.restartMailboxes.answerLost c.keeper.lostReqs = d) :
    keeperRestart c = (d.evMod 0x0701 d.keeper.restartCnt d.keeper.expiryCount).closeWaiting := by
  subst hd
  exact (when_of (beq_iff_eq.mpr h) _ c).trans (if_neg (by rw [hm]; exact Bool.false_ne_true))

end
end

/-! ### PERST# and its release (R558, R561) -/

/-- A link under reset: no BAR assigned, no virtual function enabled and none in D3hot. -/
def Pcie.underReset : Pcie := { perst := true, barsSet := false, vfEnable := false, d3 := 0 }

/-- A link that the host has set up again (DESIGN CHOICE, log 38). -/
def Pcie.assigned : Pcie := { perst := false, barsSet := true, vfEnable := true, d3 := 0 }

section
variable {s : State}

theorem exec_perst_of_up (h : s.live = true ∧ s.pcie.perst = false) :
    exec .perst s = .next { s with chip := s.chip.refErrors, pcie := Pcie.underReset } := by
  change execPerst s = _
  unfold execPerst
  rw [if_pos (by simp [h])]
  rfl

theorem exec_perst_of_down (h : ¬(s.live = true ∧ s.pcie.perst = false)) : exec .perst s = .next { s with pcie := Pcie.underReset } := by
  change execPerst s = _
  unfold execPerst
  rw [if_neg (by simpa using h)]
  rfl

theorem exec_perstRelease_of_running (h : s.pcie.perst = true ∧ s.live = true) :
    exec .perstRelease s = .next { s with pcie := Pcie.assigned } := by
  change execPerstRelease s = _
  unfold execPerstRelease
  rw [if_pos (by simp [h])]
  rfl

theorem exec_perstRelease_of_dark_or_high (h : ¬(s.pcie.perst = true ∧ s.live = true)) :
    exec .perstRelease s = .next { s with pcie := { s.pcie with perst := false } } := by
  change execPerstRelease s = _
  unfold execPerstRelease
  rw [if_neg (by simpa using h)]

/-! ### Resets of functions and VF Enable (R442, R561) -/

/-- The Keeper closes the context at once, or, where it does not run, when it runs again (log 43, DEDUCED). -/
theorem closeFor_eq {c d : Chip} {n : Nat} (hd : { c with keeper := { c.keeper with closing := setAdd c.keeper.closing n } } = d) :
    c.closeFor n = if d.keeper.state == .running then (d.closeReqs n).closeRun n else d := by
  subst hd
  rfl

theorem closeAll_of_booted {c : Chip} (h : c.booted = true) (ns : List Nat) : c.closeAll ns = ns.foldl Chip.closeFor c := when_of h _ c
theorem closeAll_of_booting {c : Chip} (h : c.booted = false) (ns : List Nat) : c.closeAll ns = c := when_of_false h _ c

section
variable {b : Bool} {k : Nat}

theorem onChip_close_of_answering (hl : s.live = true) (hb : b = true) (hk : s.chip.booted = true) :
    onChip (Chip.when b (Chip.closeAll [k])) s = .next (after s (s.chip.closeFor k)) := by
  rw [onChip_live hl, when_of hb, closeAll_of_booted hk]
  rfl

theorem onChip_close_of_silent (h : s.live = false ∨ b = false ∨ s.chip.booted = false) :
    onChip (Chip.when b (Chip.closeAll [k])) s = .next s := by
  cases hl : s.live with
  | false => exact onChip_dark hl _
  | true =>
    have same : Chip.when b (Chip.closeAll [k]) s.chip = s.chip := by
      rcases h with h | h | h
      · exact absurd hl (ne_true_of_eq_false h)
      · exact when_of_false h _ _
      · rw [Chip.when, closeAll_of_booting h, ite_self]
    rw [onChip_live hl, same]

end

theorem exec_vfEnableClear_of_answering (hl : s.live = true) (hc : s.pcie.carries 0 = true) (hv : s.pcie.vfEnable = true) :
    exec .vfEnableClear s =
      .next { s with chip := s.chip.closeAll ((List.range 15).map (· + 1)), pcie := { s.pcie with vfEnable := false } } :=
  if_pos (by rw [hl, hc, hv]; rfl)

theorem exec_vfEnableClear_of_silent (h : s.live = false ∨ s.pcie.carries 0 = false ∨ s.pcie.vfEnable = false) :
    exec .vfEnableClear s = .next s :=
  if_neg (by rw [Bool.and_assoc]; rcases h with h | h | h <;> rw [h] <;> simp)

end

/-! ### The SMBus target (R434, R563) -/

theorem Smb.fits_iff {m : Smb} {n : Nat} : m.fits n = true ↔ 1 ≤ n ∧ n ≤ 32 ∧ m.window + n ≤ 0x8000 := by
  simp [Smb.fits, and_assoc]

/-- A byte below 16 is spelled by its four low bits. -/
theorem eq_ofNat_of_low_bits {b : Byte} (h : b.toNat < 16) :
    b = BitVec.ofNat 8 (b2n (b.getLsbD 0) + 2 * b2n (b.getLsbD 1) + 4 * b2n (b.getLsbD 2) + 8 * b2n (b.getLsbD 3)) := by
  have digit : ∀ i, b2n (b.getLsbD i) = b.toNat / 2 ^ i % 2 := fun i => by
    rw [← Nat.toNat_testBit]
    unfold BitVec.getLsbD
    cases b.toNat.testBit i <;> rfl
  refine BitVec.eq_of_toNat_eq ?_
  rw [digit, digit, digit, digit, BitVec.toNat_ofNat]
  omega

/-- The status byte is the one below 16 with the Keeper's state, what is unread and the PEC error as its bits. -/
theorem smbStatus_unique {s : State} {b : Byte} (h0 : b.getLsbD 0 = (s.chip.keeper.state == .running)) (h1 : b.getLsbD 1 = s.chip.rspUnread)
    (h2 : b.getLsbD 2 = s.chip.evtUnread) (h3 : b.getLsbD 3 = s.smb.pecErr) (hb : b.toNat < 16) : s.smbStatus = b := by
  rw [State.smbStatus, ← h0, ← h1, ← h2, ← h3, ← eq_ofNat_of_low_bits hb]

theorem alert_iff {c : Chip} : c.alert = true ↔ (c.ctx 16).rspTail ≠ (c.ctx 16).rspHead ∨ (c.ctx 16).evtTail ≠ (c.ctx 16).evtHead := by
  simp [Chip.alert, Chip.rspUnread, Chip.evtUnread]

/-- The target's address, from the module's place in the tray. -/
theorem smbus_address (ga : BitVec 4) : BitVec.ofNat 8 (0x60 + ga.toNat) = 0x60 + BitVec.setWidth 8 ga :=
  BitVec.eq_of_toNat_eq (by simp)

section
variable {s : State} (hl : s.live = true)
include hl

theorem exec_smbusSetWindow (o : W32) : exec (.smbusSetWindow o true) s = .next
    (if o.toNat % 8 = 0 ∧ o.toNat < 0x8000 then { s with smb := { s.smb with window := o.toNat } } else s.smbSend .smbNack) :=
  congrArg _ (if_neg (by simp [hl]))

theorem exec_smbusDataWrite (d : List Byte) : exec (.smbusDataWrite d true) s = .next
    (if s.smb.fits d.length then
      { s with chip := pageWrite 16 s.smb.window d s.chip, smb := { s.smb with window := s.smb.window + d.length } }
    else s.smbSend .smbNack) :=
  congrArg _ (if_neg (by simp [hl]))

theorem exec_smbusDataRead (n : Nat) : exec (.smbusDataRead n) s = .next
    (if s.smb.fits n then
      { s.smbSend (.smbData (s.chip.pageRead 16 s.smb.window n)) with smb := { s.smb with window := s.smb.window + n } }
    else s.smbSend .smbNack) :=
  congrArg _ (if_neg (by simp [hl]))

theorem exec_smbusSetWindow_of_badPec (o : W32) : exec (.smbusSetWindow o false) s = .next s.badPec :=
  congrArg _ (if_neg (by simp [hl]))
theorem exec_smbusDataWrite_of_badPec (d : List Byte) : exec (.smbusDataWrite d false) s = .next s.badPec :=
  congrArg _ (if_neg (by simp [hl]))

theorem exec_smbusStatusRead : exec .smbusStatusRead s = .next
    { s.smbSend (.smbData [s.smbStatus]) with smb := { s.smb with pecErr := false } } :=
  congrArg _ (if_pos hl)

theorem exec_alertResponse : exec .alertResponse s = .next
    (if s.chip.alert = true then s.smbSend (.smbAddr (BitVec.ofNat 8 (0x60 + s.chip.pwr.ga.toNat))) else s) := by
  change execAlertResponse s = _
  unfold execAlertResponse
  rw [hl, Bool.true_and]

end

/-! ### Instructions of the hub die (R564 to R566) -/

/-- The test condition of R489 holds while the hub's TAP has an instruction other than BYPASS and IDCODE. -/
theorem test_of_irHub {j : Jtag} (h : (j.irHub != 0xFF && j.irHub != 0x01) = true) : j.test = true := by
  rw [Jtag.test, List.any_cons, h, Bool.true_or]

section
variable {s : State} (hp : s.front.powered = true)
include hp

theorem instr_hub {ir : Byte} (h : (ir != 0xFF && ir != 0x01) = true) : s.instr .hub ir =
    { s with jtag := { s.jtag with irHub := ir }, chip := { s.chip with pan := { s.chip.pan with test := true } } } := by
  have test : (s.jtag.load .hub ir).test = true := test_of_irHub h
  refine (if_pos hp).trans ?_
  change ({ s with jtag := s.jtag.load .hub ir,
                   chip := { s.chip with pan := { s.chip.pan with test := (s.jtag.load .hub ir).test } } } : State) = _
  rw [test]
  rfl

/-! ### MEMTEST (R570) -/

theorem memtest_of_powered (op : BitVec 2) (ch : ChanId) : s.memtest op ch =
    { s with jtag := { s.jtag with irHub := 0x20, pinsTaken := true, mtChan := ch, mtOp := op, mtDone := false, mtFail := 0 },
             chip := { s.chip with pan := { s.chip.pan with test := true } } } := by
  refine (if_pos hp).trans ?_
  rw [instr_hub hp rfl, State.takePins, if_pos hp]

theorem exec_memtestDone (f : BitVec 31) : exec (.memtestDone f) s = .next
    (if s.jtag.mtOp ≠ 0 ∧ s.jtag.mtDone = false then { s with jtag := { s.jtag with mtDone := true, mtFail := f } } else s) := by
  change execMemtestDone f s = _
  unfold execMemtestDone
  simp [hp]

/-! ### CTRL_ACCESS (R568) -/

theorem exec_ctrlAccess (a : Addr) : exec (.ctrlAccess a) s = .next
    { s with jtag := { s.jtag with irHub := 0x21, ctrlAddr := a.toNat, ctrlBusy := true },
             chip := { s.chip with pan := { s.chip.pan with test := true } } } := by
  refine congrArg _ ((if_pos hp).trans ?_)
  rw [instr_hub hp rfl]

omit hp in
theorem exec_ctrlAccessDone_of_idle (hb : s.jtag.ctrlBusy = false) : exec .ctrlAccessDone s = .next s :=
  congrArg _ (if_neg (by simp [hb]))

section
variable (hb : s.jtag.ctrlBusy = true)
include hb

theorem exec_ctrlAccessDone_of_nothing (hr : s.portRead s.jtag.ctrlAddr = none) : exec .ctrlAccessDone s = .next
    { s with jtag := { s.jtag with ctrlBusy := false, ctrlValid := false, ctrlData := 0 } } := by
  refine congrArg _ ((if_pos (by rw [hp, hb]; rfl)).trans ?_)
  rw [hr]
  rfl

theorem exec_ctrlAccessDone_of_word {w : W64} (hr : s.portRead s.jtag.ctrlAddr = some w) (hs : s.chip.slotAt s.jtag.ctrlAddr = none) :
    exec .ctrlAccessDone s = .next { s with jtag := { s.jtag with ctrlBusy := false, ctrlValid := true, ctrlData := w } } := by
  refine congrArg _ ((if_pos (by rw [hp, hb]; rfl)).trans ?_)
  rw [hr, hs]
  rfl

/-- A stored harvest read by the port counts as read (DESIGN CHOICE, log 123). -/
theorem exec_ctrlAccessDone_of_slot {w : W64} {k : Nat} (hr : s.portRead s.jtag.ctrlAddr = some w)
    (hs : s.chip.slotAt s.jtag.ctrlAddr = some k) : exec .ctrlAccessDone s = .next
      { s with jtag := { s.jtag with ctrlBusy := false, ctrlValid := true, ctrlData := w },
               chip := { s.chip with harvests :=
                                       s.chip.harvests.map (fun (e : Nat × Harvest) =>
                                         (e.1, if e.1 = k then { e.2 with readB := true } else e.2)) } } := by
  refine congrArg _ ((if_pos (by rw [hp, hb]; rfl)).trans ?_)
  rw [hr, hs]
  rfl

end

/-! ### NOR_ACCESS (R525, R569) -/

/-- An access is taken where none is in progress, at a multiple of 8 below 128 MiB (DESIGN CHOICE, log 123); one that writes or erases only
while the pins are taken. -/
def State.norTakes (s : State) (op : BitVec 2) (a : W32) : Prop :=
  (s.jtag.norBusy = false ∧ a.toNat % 8 = 0 ∧ a.toNat < 0x800_0000) ∧ (op = 0 ∨ s.jtag.pinsTaken = true)

theorem norTakes_iff {op : BitVec 2} {a : W32} : s.norTakes op a ↔
    (s.front.powered && !s.jtag.norBusy && decide (a.toNat % 8 = 0) && decide (a.toNat < 0x800_0000) && (op == 0 || s.jtag.pinsTaken)) = true := by
  simp [State.norTakes, hp, and_assoc]

theorem norAccess_of_taken {op : BitVec 2} {a : W32} (ha : s.norTakes op a) (data : W64) : s.norAccess op a data =
    { s with jtag := { s.jtag with irHub := 0x22, norAddr := a.toNat, norData := if op = 1 then data else s.jtag.norData,
                                   norBusy := true, norOp := op },
             chip := { s.chip with pan := { s.chip.pan with test := true } } } := by
  refine (if_pos ((norTakes_iff hp).mp ha)).trans ?_
  rw [instr_hub hp rfl]

theorem norAccess_of_ignored {op : BitVec 2} {a : W32} (ha : ¬s.norTakes op a) (data : W64) : s.norAccess op a data =
    { s with jtag := { s.jtag with irHub := 0x22 }, chip := { s.chip with pan := { s.chip.pan with test := true } } } :=
  (if_neg (ha ∘ (norTakes_iff hp).mpr)).trans (instr_hub hp rfl)

omit hp in
theorem exec_norAccessDone_of_idle (hb : s.jtag.norBusy = false) : exec .norAccessDone s = .next s :=
  congrArg _ (if_neg (by simp [hb]))

theorem exec_norAccessDone_of_busy (hb : s.jtag.norBusy = true) : exec .norAccessDone s = .next
    (if s.jtag.norOp = 1 then
      { s with jtag := { s.jtag with norBusy := false }, chip := s.chip.norProg s.jtag.norAddr (leBytes 8 s.jtag.norData.toNat) }
    else if s.jtag.norOp = 2 then
      { s with jtag := { s.jtag with norBusy := false }, chip := s.chip.norErase (s.jtag.norAddr / 0x1_0000 * 0x1_0000) 0x1_0000 }
    else { s with jtag := { s.jtag with norBusy := false, norData := wordAt (s.chip.norBytes s.jtag.norAddr 8) 0 } }) :=
  congrArg _ (if_pos (by rw [hp, hb]; rfl))

end

/-! ### A module without power -/

section
variable {s : State} (hp : s.front.powered = false)
include hp

theorem instr_of_unpowered (tap : Tap) (ir : Byte) : s.instr tap ir = s := if_neg (ne_true_of_eq_false hp)

theorem memtest_of_unpowered (op : BitVec 2) (ch : ChanId) : s.memtest op ch = s := by
  refine (if_neg (ne_true_of_eq_false hp)).trans ?_
  rw [instr_of_unpowered hp, State.takePins, if_neg (ne_true_of_eq_false hp)]

theorem norAccess_of_unpowered (op : BitVec 2) (a : W32) (data : W64) : s.norAccess op a data = s :=
  (if_neg (by simp [hp])).trans (instr_of_unpowered hp .hub 0x22)

theorem exec_ctrlAccess_of_unpowered (a : Addr) : exec (.ctrlAccess a) s = .next s :=
  congrArg _ ((if_neg (ne_true_of_eq_false hp)).trans (instr_of_unpowered hp .hub 0x21))

theorem exec_memtestDone_of_unpowered (f : BitVec 31) : exec (.memtestDone f) s = .next s := congrArg _ (if_neg (by simp [hp]))
theorem exec_ctrlAccessDone_of_unpowered : exec .ctrlAccessDone s = .next s := congrArg _ (if_neg (by simp [hp]))
theorem exec_norAccessDone_of_unpowered : exec .norAccessDone s = .next s := congrArg _ (if_neg (by simp [hp]))

end

/-! ### What the port reads (R429, R516, R568) -/

section
variable {s : State} {a : Nat}

theorem portRead_of_unaligned (h : a % 8 ≠ 0) : s.portRead a = none := if_pos h

theorem portRead_of_noSlot (h : a % 8 = 0) (hs : s.chip.slotAt a = none) : s.portRead a = s.chip.ctrlWord s.jtag a := by
  unfold State.portRead
  rw [if_neg (by omega), hs]

/-- Without trained channels, or once the pins are taken, no slot is read (log 39, DEDUCED). -/
theorem portRead_of_closedSlot {k : Nat} (hs : s.chip.slotAt a = some k) (h : s.chip.boot.memOk = false ∨ s.jtag.pinsTaken = true) :
    s.portRead a = none := by
  have shut : ¬(s.chip.boot.memOk && !s.jtag.pinsTaken) = true := by rcases h with h | h <;> simp [h]
  unfold State.portRead
  rw [hs]
  dsimp only
  rw [if_neg shut, ite_self]

theorem ctrlWord_of_registers {c : Chip} {j : Jtag} (h0 : a < 0x10_0000 ∨ 0x11_0000 ≤ a) (h1 : a < 0x100_0000 ∨ 0x120_0000 ≤ a) :
    c.ctrlWord j a = (blkOf a).bind (fun b => c.blkWord j b.1 b.2) := by
  rw [Chip.ctrlWord, if_neg (by omega), if_neg (by omega), Chip.ctlWord]
  cases blkOf a <;> rfl

end

end Sys2Proof.Machine

/-! ### The statements -/

namespace Sys2Proof
open Sys2Proof.Machine

/-- Settles O24: each clause is one case of `watchFire`, `watchCopyDone` or `harvestStored`. The header's places (log 19) and ST_POISONED
(log 21) are the model's choices. -/
theorem watchesFireAndHarvestsAreStored : Obligations.WatchesFireAndHarvestsAreStored := by
  unfold Obligations.WatchesFireAndHarvestsAreStored
  refine ⟨?watch, ?harvest⟩
  case watch =>
    rintro s _ d t w hl rfl hw
    rw [exec_watchFire hl, exec_watchCopyDone hl, exec_watchCopyDone hl]
    refine ⟨fun hr hc hrun hst hd => ?fires, fun hr => ?waits, fun hc r rs hrs hr => ⟨?landed, ?busError⟩⟩
    case fires => rw [watchFire_of_ready hw hr hc hrun hst hd]
    case waits => rw [watchFire_of_notReady hw hr, after_chip]
    case landed =>
      rintro _ rfl rfl
      rw [watchCopyDone_of_landed hw hc hrs hr]
      rfl
    case busError =>
      rw [watchCopyDone_of_busError hw hc]
      rfl
  case harvest =>
    rintro s _ e h hs hl rfl hq
    rw [exec_harvestStored hl]
    refine ⟨fun hk => ?stopped, fun hk => ⟨fun k hf => ?stored, fun hf => ?lost⟩⟩
    case stopped => rw [harvestStored_of_stopped hq hk, after_chip]
    case stored =>
      rintro rfl
      rw [harvestStored_of_slot hq hk hf]
      rfl
    case lost =>
      rintro rfl
      rw [harvestStored_of_noSlot hq hk hf]
      rfl

/-- Settles O31: an index write is its register's case below or past its bound; a request read is one branch of `mailboxRequestRead`. -/
theorem mailboxIndexWritesAreCheckedAndRequestsRead : Obligations.MailboxIndexWritesAreCheckedAndRequestsRead := by
  unfold Obligations.MailboxIndexWritesAreCheckedAndRequestsRead
  rintro s _ who _ v hl rfl rfl
  rw [exec_mbxReqTailWrite hl, exec_mbxRspHeadWrite hl, exec_mbxEvtHeadWrite hl, exec_mailboxRequestRead hl]
  refine ⟨fun ho => ?closed, fun ho => ⟨fun hb => ?reqTaken, fun hb => ?reqRefused, ?rspTaken, fun hb => ?rspRefused, fun hb => ?evtTaken,
    fun hb => ?evtRefused⟩, fun h => ?unreadable, ?readable⟩
  case closed =>
    obtain ⟨req, rsp, evt⟩ := index_writes_of_closed ho v
    rw [req, rsp, evt, after_chip]
    exact ⟨rfl, rfl, rfl⟩
  case reqTaken => rw [mbxReqTail_of_open ho, if_neg (Nat.not_lt.mpr hb)]
  case reqRefused => rw [mbxReqTail_of_open ho, if_pos hb]
  case rspTaken =>
    rintro hb _ rfl
    rw [mbxRspHead_of_open ho, if_neg (Nat.not_lt.mpr hb)]
    rfl
  case rspRefused => rw [mbxRspHead_of_open ho, if_pos hb]
  case evtTaken => rw [mbxEvtHead_of_open ho, if_neg (Nat.not_lt.mpr hb)]
  case evtRefused => rw [mbxEvtHead_of_open ho, if_pos hb]
  case unreadable => rw [mailboxRequestRead_of_unreadable h, after_chip]
  case readable =>
    rintro hr ht q k big bad _ e hn rfl he
    have passed : s.chip.passReq (issuerNum who) = e := by
      unfold Chip.passReq
      rw [hn]
      exact he
    rw [mailboxRequestRead_of_readable hr ht, passed, hn]
    dsimp only
    refine ⟨fun hb => ?tooLong, fun hb st off hf => ?refused, fun hb hf => ?inHand⟩
    case tooLong => rw [if_pos hb]
    case refused => rw [if_neg (ne_true_of_eq_false hb), hf]
    case inHand => rw [if_neg (ne_true_of_eq_false hb), hf]

/-- Settles O39: each clause is one case of `obsCounters`, of the four operations of obs.trace, of `obsWatch` or of `obsHarvest`. That a
configuration discards the capture, and that only the owner arms, stops and reads, are the model's choices (log 33). -/
theorem observationCommandsAnswer : Obligations.ObservationCommandsAnswer := by
  unfold Obligations.ObservationCommandsAnswer
  rintro s _ who _ busErr q hl rfl rfl
  refine ⟨fun hr => ?counters, fun hq hs hop => ⟨fun ho => ?reserved, fun ho hm => ?reservedMode,
    fun ho hm => ⟨fun hv hn => ?owned, ?configure⟩, fun ho => ?arm, fun ho => ?stop, fun ho => ?read⟩, fun hr => ?watch, fun hr => ?harvest⟩
  case counters =>
    rw [exec_obsCounters hl hr]
    rintro _ _ _ _ rfl rfl rfl rfl
    refine ⟨fun ht => ?_, fun ht hz => ?_, fun ht hz hv => ?_, fun ht hz hv => ?_⟩
    · rw [obsCounters_of_badRange ht]
    · rw [obsCounters_of_noRoom ht hz]
    · rw [obsCounters_of_hidden ht hz hv]
    · rw [obsCounters_of_visible ht hz hv]
      rfl
  case reserved => rw [exec_obsTraceConfigure hl ⟨hq, hs, hop⟩ (.inr ho), obsTraceConfigure_of_reserved (.inl (by omega))]
  case reservedMode => rw [exec_obsTraceConfigure hl ⟨hq, hs, hop⟩ (.inl ho), obsTraceConfigure_of_reserved (.inr hm)]
  case owned => rw [exec_obsTraceConfigure hl ⟨hq, hs, hop⟩ (.inl ho), obsTraceConfigure_of_owned ho hm hv hn]
  case configure =>
    rintro hp _ rfl
    rw [exec_obsTraceConfigure hl ⟨hq, hs, hop⟩ (.inl ho)]
    refine ⟨fun hb => by rw [obsTraceConfigure_of_badSpill ho hm hp hb], fun hb => ?_⟩
    rw [obsTraceConfigure_of_goodSpill ho hm hp hb]
    refine ⟨fun hc => by rw [if_pos hc], fun hc => ?_⟩
    rw [if_neg (Nat.not_lt.mpr hc)]
    refine ⟨fun ht => by rw [if_pos ht], fun ht => ?_⟩
    rw [if_neg (Nat.not_lt.mpr ht)]
    refine ⟨fun ha => ?hidden, fun ha => ?visible⟩
    case hidden =>
      have hidden : s.chip.traceHidden (issuerNum who) q = true := congrArg (!·) ha
      rw [if_pos hidden]
    case visible =>
      have visible : s.chip.traceHidden (issuerNum who) q = false := congrArg (!·) ha
      rw [if_neg (ne_true_of_eq_false visible)]
      intro bad hx
      have spill : s.chip.spillHidden (issuerNum who) q = bad := hx
      rw [spill]
      refine ⟨fun hx => by rw [if_pos hx], fun hx hn => ?_, fun hx hn => ?_⟩
      · rw [if_neg (ne_true_of_eq_false hx), if_pos hn]
      · rw [if_neg (ne_true_of_eq_false hx), if_neg hn]
        rfl
  case arm =>
    rw [exec_obsTraceArm hl ⟨hq, hs, hop⟩ ho]
    exact ⟨fun h => by rw [obsTraceArm_of_other h], fun h => by rw [obsTraceArm_of_owner h]⟩
  case stop =>
    rw [exec_obsTraceStop hl ⟨hq, hs, hop⟩ ho]
    refine ⟨fun h => by rw [obsTraceStop_of_other h], fun h hv => by rw [obsTraceStop_of_idle h hv], ?_⟩
    rintro h hv _ _ rfl rfl
    rw [obsTraceStop_of_live h hv]
    rfl
  case read =>
    rw [exec_obsTraceRead hl ⟨hq, hs, hop⟩ ho]
    refine ⟨fun h => by rw [obsTraceRead_of_other h], fun h hst => by rw [obsTraceRead_of_running h hst], fun h hst bs hb => ?_⟩
    rw [obsTraceRead_of_stopped h hst hb]
    exact ⟨fun hn => by rw [if_pos hn], fun hn => by rw [if_neg (Nat.not_lt.mpr hn)]⟩
  case watch =>
    rw [exec_obsWatch hl hr]
    refine ⟨fun h => by rw [obsWatch_of_noRun h], ?_⟩
    rintro r _ _ _ _ _ h rfl rfl rfl rfl rfl
    refine ⟨fun hc => by rw [obsWatch_of_noCommand h hc], fun ix ht hc => ?_⟩
    refine ⟨fun hb => by rw [obsWatch_of_badRange h ht hc hb], fun hk hf => ?_⟩
    have range := not_badWatchRange hk hf
    refine ⟨fun hb => by rw [obsWatch_of_badLen h ht hc range hb], fun h0 h64 hmax hroom => ?_⟩
    have len := not_badWatchLen h0 h64 hmax hroom
    refine ⟨fun hw => by rw [obsWatch_of_full h ht hc range len (watchesFull_iff.mpr hw)], fun hw hn => ?_⟩
    have place : ¬s.chip.watchesFull (watchTile q) = true := fun full =>
      (watchesFull_iff.mp full).elim (ne_true_of_eq_false hw) (Nat.not_le.mpr hn)
    rw [obsWatch_of_place h ht hc range len place]
    rfl
  case harvest =>
    rw [exec_obsHarvest hl hr]
    rintro _ _ rfl rfl
    refine ⟨fun hm => by rw [obsHarvest_of_noMaster hm], fun hm => ⟨fun hv => by rw [obsHarvest_of_hidden hm hv], fun hv hk e he => ?_, ?_⟩⟩
    · rw [obsHarvest_of_stored hm hv hk he]
      exact ⟨fun h => by rw [giveHarvest_of_refused h], fun hb hn => by rw [giveHarvest_of_room hb hn]⟩
    · intro hv hk bs hbs
      rw [obsHarvest_of_notStored hm hv hk hbs]
      exact ⟨fun h => by rw [giveHarvest_of_refused h], fun hb hn => by rw [giveHarvest_of_room hb hn]⟩

/-- Settles O41: each clause is one case of `secAttest`, `secUpdate`, `secUpdateDone`, `watchdogExpiry` or `keeperRestart`. An update's slot
and its erase (log 36), an expiry while the Keeper restarts and the restart without LPDDR5X (log 35) are the model's choices. -/
theorem attestationUpdatesAndTheKeeperRestart : Obligations.AttestationUpdatesAndTheKeeperRestart := by
  unfold Obligations.AttestationUpdatesAndTheKeeperRestart
  rintro s _ who _ busErr q hl rfl rfl
  rw [exec_secUpdateDone hl, exec_watchdogExpiry hl, exec_keeperRestart hl]
  refine ⟨fun hr => ?attest, fun hr => ?update, fun hu => ?noUpdate, fun b t img hu hk => ⟨fun hs => ?unserved, ?updateEnds⟩, ?expiry,
    fun h => ?stopped, fun h => ?noRestart, fun h hm => ?noMemory, ?restart⟩
  case attest =>
    rw [exec_secAttest hl hr]
    refine ⟨fun hi => ?_, fun hi hs => ?_, ?_, ?_⟩
    · rw [secAttest_of_noIdentity hi]
    · rw [secAttest_of_noRoom hi hs]
    · rintro hi hs rfl
      rw [secAttest_of_room hi hs, toRef_of_busError]
    · rintro hi hs rfl _ rfl
      rw [secAttest_of_room hi hs, toRef_of_written]
  case update =>
    rw [exec_secUpdate hl hr]
    rintro _ _ rfl rfl
    refine ⟨fun ht => ?_, fun ht hb => ?_, fun ht hb => ⟨fun h0 hv => ?_, fun hv => ?_⟩⟩
    · rw [secUpdate_of_reservedTarget ht]
    · rw [secUpdate_of_badBuffer ht hb]
    · rw [secUpdate_of_noSettings ht hb h0 hv]
    · rw [secUpdate_of_settings ht hb hv]
      exact ⟨fun hu => by rw [if_pos hu], fun hu he => by rw [if_neg (ne_true_of_eq_false hu), if_pos he],
        fun hu he => by rw [if_neg (ne_true_of_eq_false hu), if_neg (ne_true_of_eq_false he)]; rfl⟩
  case noUpdate => rw [secUpdateDone_of_none hu, after_chip]
  case unserved => rw [secUpdateDone_of_unserved hu hk hs, after_chip]
  case updateEnds =>
    rintro hs _ rfl
    rw [secUpdateDone_of_served hu hk hs]
    exact ⟨fun h => by rw [judgeImage_of_different _ h], fun h hv => by rw [judgeImage_of_bad _ h hv],
      fun h hv => by rw [judgeImage_of_good _ h hv]; rfl⟩
  case expiry =>
    rintro h _ rfl k hk
    have next : (if s.chip.expiredLately then KState.halted else .restarting) = k := by
      rcases hk with ⟨lately, rfl⟩ | ⟨lately, rfl⟩
      · exact if_pos lately
      · exact if_neg (ne_true_of_eq_false lately)
    rw [watchdogExpiry_of_active h, next]
    rfl
  case stopped => rw [watchdogExpiry_of_stopped h.1 h.2, after_chip]
  case noRestart => rw [keeperRestart_of_other h, after_chip]
  case noMemory => rw [keeperRestart_of_noMemory h hm]
  case restart =>
    rintro h hm _ _ _ _ rfl rfl rfl rfl
    rw [keeperRestart_of_memory h hm rfl]
    rfl

/-- Settles O52: each event is one case of the link's state, and a close is `Chip.closeFor`. The host's assignment at PERST_RELEASE (log 38)
and the close that waits for the Keeper (log 43) are the model's choices. -/
theorem pcieResetsCloseContextsNotTheModule : Obligations.PcieResetsCloseContextsNotTheModule := by
  unfold Obligations.PcieResetsCloseContextsNotTheModule
  intro s
  refine ⟨?perst, exec_perstRelease_of_running, exec_perstRelease_of_dark_or_high,
    fun n => ⟨?vfFlr, ?vfSilent, fun h => ?d3, fun h => ?d3Silent⟩, fun hl hc hb => ?pfFlr, ?pfSilent, ?vfClear,
    exec_vfEnableClear_of_silent, ?close⟩
  case perst =>
    by_cases h : s.live = true ∧ s.pcie.perst = false
    · rw [exec_perst_of_up h, if_pos h]
      rfl
    · rw [exec_perst_of_down h, if_neg h]
      rfl
  case vfFlr =>
    intro hl hn hc hb
    exact onChip_close_of_answering hl (by rw [hc, bne_iff_ne.mpr hn]; rfl) hb
  case vfSilent =>
    rintro (hl | rfl | hc | hb)
    · exact onChip_close_of_silent (.inl hl)
    · exact onChip_close_of_silent (.inr (.inl rfl))
    · exact onChip_close_of_silent (.inr (.inl (by rw [hc, Bool.and_false])))
    · exact onChip_close_of_silent (.inr (.inr hb))
  case d3 =>
    have answers : (s.live && s.pcie.carries n) = true := by rw [h.1, h.2]; rfl
    exact ⟨congrArg _ (if_pos answers), congrArg _ (if_pos answers)⟩
  case d3Silent =>
    have silent : ¬(s.live && s.pcie.carries n) = true := by rwa [Bool.and_eq_true]
    exact ⟨congrArg _ (if_neg silent), congrArg _ (if_neg silent)⟩
  case pfFlr => exact onChip_close_of_answering hl hc hb
  case pfSilent => exact onChip_close_of_silent
  case vfClear =>
    rintro hl hc hv _ rfl
    rw [exec_vfEnableClear_of_answering hl hc hv]
    rfl
  case close =>
    intro c n d hd
    rw [closeFor_eq hd]
    exact ⟨fun h => if_pos (beq_iff_eq.mpr h), fun h => if_neg (by simpa using h)⟩

/-- Settles O53: each command is one case of the window, the transfer's length, the PEC or what is unread. The NACK of a window that is no
multiple of 8 is the model's choice (log 38). -/
theorem smbusReachesTheManagementPage : Obligations.SmbusReachesTheManagementPage := by
  unfold Obligations.SmbusReachesTheManagementPage
  intro s
  refine ⟨fun hl => ?dark, fun hl => ⟨exec_smbusSetWindow_of_badPec hl, exec_smbusDataWrite_of_badPec hl,
    fun o => ?window, fun d => ?write, fun k => ?read, fun b h0 h1 h2 h3 hb => ?status, fun h => ?alert, fun h => ?quiet⟩⟩
  case dark =>
    have dark : (!s.live) = true := by rw [hl]; rfl
    have off : ¬s.live = true := ne_true_of_eq_false hl
    exact ⟨fun _ _ => congrArg _ (if_pos dark), fun _ _ => congrArg _ (if_pos dark), fun _ => congrArg _ (if_pos dark),
      congrArg _ (if_neg off), congrArg _ (if_neg fun h => off (Bool.and_eq_true_iff.mp h).1)⟩
  case window =>
    rw [exec_smbusSetWindow hl]
    exact ⟨fun h => by rw [if_pos h], fun h => by rw [if_neg (by omega)]; rfl⟩
  case write =>
    rw [exec_smbusDataWrite hl, ← Smb.fits_iff]
    exact ⟨fun h => by rw [if_pos h], fun h => by rw [if_neg h]; rfl⟩
  case read =>
    rw [exec_smbusDataRead hl, ← Smb.fits_iff]
    exact ⟨fun h => by rw [if_pos h]; rfl, fun h => by rw [if_neg h]; rfl⟩
  case status =>
    rw [exec_smbusStatusRead hl, smbStatus_unique h0 h1 h2 h3 hb]
    rfl
  case alert =>
    rw [exec_alertResponse hl, if_pos (alert_iff.mpr h), smbus_address]
    rfl
  case quiet =>
    rw [exec_alertResponse hl, if_neg (by simpa [alert_iff] using h)]

/-- Settles O55: each row is its case of power, of what is in progress and of the pins. A slot that counts as read and an access that is
ignored are the model's choices (log 123). -/
theorem testPortReadsNorControlSpaceAndNets : Obligations.TestPortReadsNorControlSpaceAndNets := by
  unfold Obligations.TestPortReadsNorControlSpaceAndNets
  intro s
  refine ⟨fun hp => ?dark, fun hp => ⟨?start, fun f => ?netsDone, exec_ctrlAccessDone_of_idle, fun hb => ?ctrlDone, exec_norAccessDone_of_idle,
    ?norDone⟩, fun a => ⟨portRead_of_unaligned, ?registers, fun k hs => portRead_of_closedSlot hs⟩⟩
  case dark =>
    refine ⟨fun ch => ⟨congrArg _ (memtest_of_unpowered hp 1 ch), congrArg _ (memtest_of_unpowered hp 2 ch)⟩, exec_memtestDone_of_unpowered hp,
      exec_ctrlAccess_of_unpowered hp, exec_ctrlAccessDone_of_unpowered hp, fun a d => ⟨?_, ?_, ?_⟩, exec_norAccessDone_of_unpowered hp⟩
    · exact congrArg _ (norAccess_of_unpowered hp 0 a 0)
    · exact congrArg _ (norAccess_of_unpowered hp 1 a d)
    · exact congrArg _ (norAccess_of_unpowered hp 2 a 0)
  case start =>
    rintro ir _ _ rfl rfl
    refine ⟨?memtest, ?ctrl, ?nor⟩
    case memtest =>
      rintro rfl ch
      exact ⟨congrArg _ (memtest_of_powered hp 1 ch), congrArg _ (memtest_of_powered hp 2 ch)⟩
    case ctrl =>
      rintro rfl a
      exact exec_ctrlAccess hp a
    case nor =>
      rintro rfl a d
      refine ⟨fun ha => ⟨?_, fun ht => ⟨?_, ?_⟩, fun ht => ?_⟩, fun ha => ⟨?_, ?_, ?_⟩⟩
      · exact congrArg _ (norAccess_of_taken hp ⟨ha, .inl rfl⟩ 0)
      · exact congrArg _ (norAccess_of_taken hp ⟨ha, .inr ht⟩ d)
      · exact congrArg _ (norAccess_of_taken hp ⟨ha, .inr ht⟩ 0)
      · have pinsFree : ∀ op : BitVec 2, op ≠ 0 → ¬s.norTakes op a := fun _ ho h => h.2.elim ho (ne_true_of_eq_false ht)
        exact ⟨congrArg _ (norAccess_of_ignored hp (pinsFree 1 (by decide)) d), congrArg _ (norAccess_of_ignored hp (pinsFree 2 (by decide)) 0)⟩
      · exact congrArg _ (norAccess_of_ignored hp (fun h => ha h.1) 0)
      · exact congrArg _ (norAccess_of_ignored hp (fun h => ha h.1) d)
      · exact congrArg _ (norAccess_of_ignored hp (fun h => ha h.1) 0)
  case netsDone =>
    rw [exec_memtestDone hp]
    exact ⟨fun h => by rw [if_pos h], fun h => by rw [if_neg h]⟩
  case ctrlDone =>
    exact ⟨exec_ctrlAccessDone_of_nothing hp hb,
      fun w hr => ⟨exec_ctrlAccessDone_of_word hp hb hr, fun k => exec_ctrlAccessDone_of_slot hp hb hr⟩⟩
  case norDone =>
    rintro hb _ rfl
    rw [exec_norAccessDone_of_busy hp hb]
    exact ⟨fun h => by rw [if_pos h], fun h => by rw [if_neg (by rw [h]; decide), if_pos h], fun h1 h2 => by rw [if_neg h1, if_neg h2]⟩
  case registers =>
    intro h8 hs _ h0 h1
    rw [portRead_of_noSlot h8 hs, ctrlWord_of_registers h0 h1]

end Sys2Proof
end

section
/-! PROOFS of the families 14_observability, 15_boot_identity and 16_connectors: what every command answers and keeps, the front end and its
sensors, the host link, the test access ports, the pan, and the nine statements. -/
namespace Sys2Proof.Machine

/-! ### What a command acts on -/

/-- The rows that act on the host link or the SMBus target, or that start the boot. -/
inductive LinkRow : Instr → Prop
  | powerOnBoot (b : BootInputs) : LinkRow (.powerOnBoot b)
  | vfEnableClear : LinkRow .vfEnableClear
  | d3hot (n : CtxId) : LinkRow (.d3hot n)
  | d3hotExit (n : CtxId) : LinkRow (.d3hotExit n)
  | smbusSetWindow (o : W32) (pec : Bool) : LinkRow (.smbusSetWindow o pec)
  | smbusDataWrite (d : List Byte) (pec : Bool) : LinkRow (.smbusDataWrite d pec)
  | smbusDataRead (n : Nat) : LinkRow (.smbusDataRead n)
  | smbusStatusRead : LinkRow .smbusStatusRead
  | alertResponse : LinkRow .alertResponse

/-- The rows of the front end's controller (R550 to R553, R555) and of PERST# (R558). -/
inductive BoardRow : Instr → Prop
  | perst : BoardRow .perst
  | perstRelease : BoardRow .perstRelease
  | pwrEnRise : BoardRow .pwrEnRise
  | pwrEnFall : BoardRow .pwrEnFall
  | inputUndervoltage : BoardRow .inputUndervoltage
  | inputOvervoltage : BoardRow .inputOvervoltage
  | inputRestored : BoardRow .inputRestored
  | inputOvercurrent : BoardRow .inputOvercurrent
  | coreOvercurrent : BoardRow .coreOvercurrent
  | thermalShutdown (x : Sensor) : BoardRow (.thermalShutdown x)

/-- The rows of the test access ports (R564 to R570). -/
inductive TestPortRow : Instr → Prop
  | tapReset : TestPortRow .tapReset
  | bypass (tap : Tap) : TestPortRow (.bypass tap)
  | idcode (tap : Tap) : TestPortRow (.idcode tap)
  | samplePreload (tap : Tap) (bits : List Bool) : TestPortRow (.samplePreload tap bits)
  | extest (tap : Tap) : TestPortRow (.extest tap)
  | extestPulse (tap : Tap) : TestPortRow (.extestPulse tap)
  | extestTrain (tap : Tap) : TestPortRow (.extestTrain tap)
  | clamp (tap : Tap) : TestPortRow (.clamp tap)
  | highz (tap : Tap) : TestPortRow (.highz tap)
  | memtestDq (ch : ChanId) : TestPortRow (.memtestDq ch)
  | memtestCa (ch : ChanId) : TestPortRow (.memtestCa ch)
  | memtestDone (fail : BitVec 31) : TestPortRow (.memtestDone fail)
  | ctrlAccess (a : Addr) : TestPortRow (.ctrlAccess a)
  | ctrlAccessDone : TestPortRow .ctrlAccessDone
  | norAccessRead (a : W32) : TestPortRow (.norAccessRead a)
  | norAccessWrite (a : W32) (data : W64) : TestPortRow (.norAccessWrite a data)
  | norAccessErase (a : W32) : TestPortRow (.norAccessErase a)
  | norAccessDone : TestPortRow .norAccessDone

/-- Every other row acts on the module behind the front end alone. -/
theorem exec_onChip_or_row (i : Instr) (s : State) :
    (∃ f, exec i s = onChip f s) ∨ LinkRow i ∨ BoardRow i ∨ TestPortRow i := by
  cases i
  case powerOnBoot | vfEnableClear | d3hot | d3hotExit | smbusSetWindow | smbusDataWrite | smbusDataRead
      | smbusStatusRead | alertResponse => exact .inr (.inl (by constructor))
  case perst | perstRelease | pwrEnRise | pwrEnFall | inputUndervoltage | inputOvervoltage | inputRestored | inputOvercurrent | coreOvercurrent
      | thermalShutdown => exact .inr (.inr (.inl (by constructor)))
  case tapReset | bypass | idcode | samplePreload | extest | extestPulse | extestTrain | clamp | highz | memtestDq | memtestCa
      | memtestDone | ctrlAccess | ctrlAccessDone | norAccessRead | norAccessWrite | norAccessErase | norAccessDone =>
    exact .inr (.inr (.inr (by constructor)))
  case tideCtrlWrite who v => exact .inl ⟨fun c => (c.regWrite s.jtag (issuerNum who) 0x20_0000 v).2, rfl⟩
  case kprTrayWrite who off v => exact .inl ⟨fun c => (c.regWrite s.jtag (issuerNum who) (0x20_2000 + off.toNat) v).2, rfl⟩
  case pwrCtrlWrite who v => exact .inl ⟨fun c => (c.regWrite s.jtag (issuerNum who) 0x20_5008 v).2, rfl⟩
  case formationDecision d => exact .inl ⟨fun c => c.decided d, rfl⟩
  case formationAgree r => exact .inl ⟨fun c => c.takeAgree r, rfl⟩
  case berthRelease r => exact .inl ⟨fun c => c.releaseBerth r.toNat, rfl⟩
  all_goals exact .inl ⟨_, rfl⟩


/-! ### A die set that does not run (R550, R566) -/

section
variable {s : State} (hl : s.live = false)
include hl

theorem linkRow_of_stopped {i : Instr} (h : LinkRow i) : exec i s = .next s := by
  have off : ∀ b, ¬(s.live && b) = true := fun b => by rw [hl, Bool.false_and]; exact Bool.false_ne_true
  have dark : (!s.live) = true := by rw [hl]; rfl
  cases h with
  | powerOnBoot b => exact congrArg _ (if_neg (by rw [Bool.and_assoc]; exact off _))
  | vfEnableClear => exact if_neg (by rw [Bool.and_assoc]; exact off _)
  | d3hot | d3hotExit | alertResponse => exact congrArg _ (if_neg (off _))
  | smbusSetWindow | smbusDataWrite | smbusDataRead => exact congrArg _ (if_pos dark)
  | smbusStatusRead => exact congrArg _ (if_neg (ne_true_of_eq_false hl))

/-- A command that does not act on the front end, PERST# or the test port finds nothing that runs. -/
theorem exec_of_stopped {i : Instr} (ho : i.outside = false) : exec i s = .next s := by
  obtain ⟨f, hf⟩ | h | h | h := exec_onChip_or_row i s
  · rw [hf, onChip_dark hl]
  · exact linkRow_of_stopped hl h
  · cases h <;> cases ho
  · cases h <;> cases ho

end

/-! ### What a command keeps -/

/-- What a row that reaches no further than the module and its test port can do: with the front end open, nothing. -/
structure Behind (s t : State) : Prop where
  frame : t = { s with chip := t.chip, jtag := t.jtag }
  dark  : s.front.powered = false → t = s

/-- What every command keeps: the queue of waiting ones, and the invariant of the front end, the link and the test port. -/
structure Kept (s t : State) : Prop where
  pending : t.pending = s.pending
  front   : FrontKept s → FrontKept t

section
variable {s t : State} {c : Chip} {j : Jtag}

theorem powered_of_live (h : s.live = true) : s.front.powered = true := (Bool.and_eq_true_iff.mp h).1

theorem Kept.refl (s : State) : Kept s s := ⟨rfl, id⟩

theorem Behind.refl (s : State) : Behind s s := ⟨rfl, fun _ => rfl⟩

/-- A further change of the module and the test port. -/
theorem Behind.write (h : Behind s t) (hp : s.front.powered = true) : Behind s { t with chip := c, jtag := j } :=
  ⟨by rw [h.frame], fun off => absurd hp (ne_true_of_eq_false off)⟩

/-- A further change under a condition that only a powered module meets. -/
theorem Behind.change (h : Behind s t) {b : Bool} (hb : b = true → s.front.powered = true) :
    Behind s (if b then { t with chip := c, jtag := j } else t) := by
  cases b with
  | false => exact h
  | true => exact h.write (hb rfl)

theorem Behind.powered (h : Behind s t) : t.front.powered = s.front.powered := by rw [h.frame]

theorem Behind.kept (h : Behind s t) : Kept s t := by
  refine ⟨by rw [h.frame], fun k => ?_⟩
  cases hp : s.front.powered with
  | false => rw [h.dark hp]; exact k
  | true =>
    rw [h.frame]
    exact ⟨k.closed, fun off => absurd hp (ne_true_of_eq_false off), k.perst, k.window⟩

theorem onChip_behind (f : Chip → Chip) (s : State) : ∃ t, onChip f s = .next t ∧ Behind s t :=
  ⟨_, rfl, (Behind.refl s).change powered_of_live⟩

end

/-! ### The front end (R550 to R553, R557) -/

section
variable {s : State}

section
variable (hp : s.front.powered = true) (cause : Byte)
include hp

theorem powerDown_of_closed : s.powerDown cause = { s.dark with front := { s.front with powered := false, cause := cause } } := if_pos hp

theorem latchOff_of_closed : s.latchOff cause = { s.dark with front := { s.front with powered := false, cause := cause, latched := true } } := by
  rw [State.latchOff, if_pos hp, powerDown_of_closed hp]

theorem inputOut_of_closed : s.inputOut cause = { s.dark with front := { s.front with powered := false, cause := cause, waiting := true } } := by
  rw [State.inputOut, powerDown_of_closed hp]

theorem exec_pwrEnFall_of_closed : exec .pwrEnFall s =
    .next { s.dark with front := { s.front with powered := false, cause := 0x00, pwrEn := false, latched := false } } := by
  change execPwrEnFall s = _
  rw [execPwrEnFall, powerDown_of_closed hp]

end

section
variable (hp : s.front.powered = false) (cause : Byte)
include hp

theorem powerDown_of_open : s.powerDown cause = s := if_neg (ne_true_of_eq_false hp)

theorem latchOff_of_open : s.latchOff cause = s := if_neg (ne_true_of_eq_false hp)

theorem inputOut_of_open : s.inputOut cause = { s with front := { s.front with waiting := true } } := by
  rw [State.inputOut, powerDown_of_open hp]

theorem exec_pwrEnFall_of_open : exec .pwrEnFall s = .next { s with front := { s.front with pwrEn := false, latched := false } } := by
  change execPwrEnFall s = _
  rw [execPwrEnFall, powerDown_of_open hp]

end

theorem exec_pwrEnRise_of_held (h : s.front.powered = true ∨ s.front.latched = true ∨ s.front.waiting = true) :
    exec .pwrEnRise s = .next { s with front := { s.front with pwrEn := true } } :=
  congrArg _ (if_pos (by simpa [or_assoc] using h))

/-- PWR_EN closes the front end, and the module is at its reset values (R557). -/
theorem exec_pwrEnRise_of_free (hp : s.front.powered = false) (hl : s.front.latched = false) (hw : s.front.waiting = false) :
    exec .pwrEnRise s = .next { s.dark with front := { s.front with powered := true, pwrEn := true } } :=
  congrArg _ (if_neg (by simp [hp, hl, hw]))

/-- Whether the input's return closes the front end again. -/
def FrontEnd.Recloses (f : FrontEnd) : Prop := f.waiting = true ∧ f.pwrEn = true ∧ f.latched = false ∧ f.powered = false

theorem recloses_iff {f : FrontEnd} : f.Recloses ↔ (f.waiting && f.pwrEn && !f.latched && !f.powered) = true := by
  simp [FrontEnd.Recloses, and_assoc]

theorem exec_inputRestored_of_recloses (h : s.front.Recloses) :
    exec .inputRestored s = .next { s.dark with front := { s.front with waiting := false, powered := true } } :=
  congrArg _ (if_pos (recloses_iff.mp h))

theorem exec_inputRestored_of_stays (h : ¬s.front.Recloses) :
    exec .inputRestored s = .next { s with front := { s.front with waiting := false } } :=
  congrArg _ (if_neg (h ∘ recloses_iff.mpr))

/-- What a closed front end must show (R550, R553). -/
def FrontEnd.Sound (f : FrontEnd) : Prop := f.powered = true → f.pwrEn = true ∧ f.latched = false ∧ f.waiting = false

theorem sound_of_open {f : FrontEnd} (h : f.powered = false) : f.Sound := fun hp => absurd hp (ne_true_of_eq_false h)

/-- A front end that has opened or closed leaves everything behind it at its reset value. -/
theorem frontKept_dark {f : FrontEnd} (hf : f.Sound) : FrontKept { s.dark with front := f } :=
  ⟨hf, fun _ => ⟨rfl, rfl, rfl, rfl, rfl, rfl⟩, fun _ => ⟨rfl, rfl, rfl⟩, Nat.zero_le _⟩

theorem frontKept_front (h : FrontKept s) {f : FrontEnd} (hp : f.powered = s.front.powered) (hf : f.Sound) :
    FrontKept { s with front := f } :=
  ⟨hf, fun off => h.dark (hp.symm.trans off), h.perst, h.window⟩

theorem latchOff_kept (s : State) (cause : Byte) : Kept s (s.latchOff cause) := by
  cases hp : s.front.powered with
  | false => rw [latchOff_of_open hp]; exact .refl s
  | true => rw [latchOff_of_closed hp]; exact ⟨rfl, fun _ => frontKept_dark (sound_of_open rfl)⟩

theorem inputOut_kept (s : State) (cause : Byte) : Kept s (s.inputOut cause) := by
  cases hp : s.front.powered with
  | false => rw [inputOut_of_open hp]; exact ⟨rfl, fun h => frontKept_front h rfl (sound_of_open hp)⟩
  | true => rw [inputOut_of_closed hp]; exact ⟨rfl, fun _ => frontKept_dark (sound_of_open rfl)⟩

theorem exec_pwrEnRise_kept (s : State) : ∃ t, exec .pwrEnRise s = .next t ∧ Kept s t := by
  by_cases held : s.front.powered = true ∨ s.front.latched = true ∨ s.front.waiting = true
  · exact ⟨_, exec_pwrEnRise_of_held held, rfl, fun h => frontKept_front h rfl fun hp => ⟨rfl, (h.closed hp).2⟩⟩
  · simp only [not_or, Bool.not_eq_true] at held
    obtain ⟨hp, hl, hw⟩ := held
    exact ⟨_, exec_pwrEnRise_of_free hp hl hw, rfl, fun _ => frontKept_dark fun _ => ⟨rfl, hl, hw⟩⟩

theorem exec_pwrEnFall_kept (s : State) : ∃ t, exec .pwrEnFall s = .next t ∧ Kept s t := by
  cases hp : s.front.powered with
  | false => exact ⟨_, exec_pwrEnFall_of_open hp, rfl, fun h => frontKept_front h rfl (sound_of_open hp)⟩
  | true => exact ⟨_, exec_pwrEnFall_of_closed hp, rfl, fun _ => frontKept_dark (sound_of_open rfl)⟩

theorem exec_inputRestored_kept (s : State) : ∃ t, exec .inputRestored s = .next t ∧ Kept s t := by
  by_cases hr : s.front.Recloses
  · exact ⟨_, exec_inputRestored_of_recloses hr, rfl, fun _ => frontKept_dark fun _ => ⟨hr.2.1, hr.2.2.1, rfl⟩⟩
  · refine ⟨_, exec_inputRestored_of_stays hr, rfl, fun h => frontKept_front h rfl fun hp => ?_⟩
    obtain ⟨enabled, unlatched, -⟩ := h.closed hp
    exact ⟨enabled, unlatched, rfl⟩

/-! ### Sensors that shut the module down (R555) -/

theorem exec_thermalShutdown_of_cool {p : BitVec 4} (h : s.chip.memHotHeld p.toNat = false) :
    exec (.thermalShutdown (.package p)) s = .next s :=
  congrArg _ (if_neg (ne_true_of_eq_false h))

theorem exec_thermalShutdown_of_hot {p : BitVec 4} (h : s.chip.memHotHeld p.toNat = true) :
    exec (.thermalShutdown (.package p)) s = .next (s.latchOff 0x07) :=
  congrArg _ (if_pos h)

theorem exec_thermalShutdown_kept (x : Sensor) (s : State) : ∃ t, exec (.thermalShutdown x) s = .next t ∧ Kept s t := by
  cases x with
  | die => exact ⟨_, rfl, latchOff_kept s 0x05⟩
  | regulator => exact ⟨_, rfl, latchOff_kept s 0x06⟩
  | inlet => exact ⟨_, rfl, .refl s⟩
  | package p =>
    cases h : s.chip.memHotHeld p.toNat with
    | false => exact ⟨_, exec_thermalShutdown_of_cool h, .refl s⟩
    | true => exact ⟨_, exec_thermalShutdown_of_hot h, latchOff_kept s 0x07⟩

end

/-! ### The test access ports (R564 to R570) -/

section
variable {s t : State} (h : Behind s t)
include h

theorem Behind.instr (tap : Tap) (ir : Byte) : Behind s (t.instr tap ir) := h.change h.powered.symm.trans
theorem Behind.takePins : Behind s t.takePins := h.change h.powered.symm.trans
theorem Behind.tdo (tap : Tap) (bits : List Bool) : Behind s (t.tdo tap bits) := h.change h.powered.symm.trans
theorem Behind.capture (tap : Tap) : Behind s (t.capture tap) := by
  unfold State.capture
  split
  case isFalse => exact h
  case isTrue hp => exact (h.tdo tap _).write (h.powered.symm.trans hp)

end

section
variable (s : State)

theorem memtest_behind (op : BitVec 2) (ch : ChanId) : Behind s (s.memtest op ch) := ((Behind.refl s).instr .hub 0x20).takePins.change id

theorem norAccess_behind (op : BitVec 2) (a : W32) (data : W64) : Behind s (s.norAccess op a data) :=
  ((Behind.refl s).instr .hub 0x22).change (by simp +contextual)

theorem norAccessDone_behind : ∃ t, exec .norAccessDone s = .next t ∧ Behind s t := by
  have start := Behind.refl s
  cases hp : s.front.powered with
  | false => exact ⟨_, exec_norAccessDone_of_unpowered hp, start⟩
  | true =>
    cases hb : s.jtag.norBusy with
    | false => exact ⟨_, exec_norAccessDone_of_idle hb, start⟩
    | true =>
      refine ⟨_, exec_norAccessDone_of_busy hp hb, ?_⟩
      split
      · exact start.write hp
      · split <;> exact start.write hp

end

theorem testPortRow_behind {i : Instr} (h : TestPortRow i) (s : State) : ∃ t, exec i s = .next t ∧ Behind s t := by
  have start := Behind.refl s
  cases h with
  | tapReset => exact ⟨_, rfl, ((start.instr .hub 0x01).instr .c0 0x01).instr .c1 0x01⟩
  | bypass tap => exact ⟨_, rfl, (start.instr tap 0xFF).tdo tap [false]⟩
  | idcode tap => exact ⟨_, rfl, (start.instr tap 0x01).tdo tap _⟩
  | samplePreload tap bits => exact ⟨_, rfl, ((start.instr tap 0x02).capture tap).change id⟩
  | extest tap => exact ⟨_, rfl, (start.instr tap 0x06).takePins.capture tap⟩
  | extestPulse tap => exact ⟨_, rfl, (start.instr tap 0x07).takePins.capture tap⟩
  | extestTrain tap => exact ⟨_, rfl, (start.instr tap 0x08).takePins.capture tap⟩
  | clamp tap => exact ⟨_, rfl, (start.instr tap 0x09).takePins.tdo tap [false]⟩
  | highz tap => exact ⟨_, rfl, (start.instr tap 0x0A).takePins.tdo tap [false]⟩
  | memtestDq ch => exact ⟨_, rfl, memtest_behind s 1 ch⟩
  | memtestCa ch => exact ⟨_, rfl, memtest_behind s 2 ch⟩
  | memtestDone f => exact ⟨_, rfl, start.change (by simp +contextual)⟩
  | ctrlAccess a => exact ⟨_, rfl, (start.instr .hub 0x21).change id⟩
  | ctrlAccessDone => exact ⟨_, rfl, start.change (by simp +contextual)⟩
  | norAccessRead a => exact ⟨_, rfl, norAccess_behind s 0 a 0⟩
  | norAccessWrite a data => exact ⟨_, rfl, norAccess_behind s 1 a data⟩
  | norAccessErase a => exact ⟨_, rfl, norAccess_behind s 2 a 0⟩
  | norAccessDone => exact norAccessDone_behind s

/-! ### The host link, the SMBus target and the boot (R558, R561, R563) -/

section
variable {s : State} {c : Chip} {p : Pcie} {m : Smb}

/-- What the invariant asks of the host link while PERST# is asserted. -/
def Pcie.Quiet (p : Pcie) : Prop := p.perst = true → p.barsSet = false ∧ p.vfEnable = false ∧ p.d3 = 0

theorem quiet_of_high {p : Pcie} (h : p.perst = false) : p.Quiet := fun hp => absurd hp (ne_true_of_eq_false h)

/-- While the module runs, its link and its SMBus window keep the invariant by themselves. -/
theorem kept_of_live (hl : s.live = true) (hp : FrontKept s → p.Quiet) (hm : FrontKept s → m.window ≤ 0x8000) :
    Kept s { s with chip := c, pcie := p, smb := m } :=
  ⟨rfl, fun h => ⟨h.closed, fun off => absurd (powered_of_live hl) (ne_true_of_eq_false off), hp h, hm h⟩⟩

/-- A running module whose link and window stay. -/
theorem kept_of_live_chip (hl : s.live = true) : Kept s { s with chip := c } := kept_of_live hl FrontKept.perst FrontKept.window
theorem kept_of_live_link (hl : s.live = true) (hp : FrontKept s → p.Quiet) : Kept s { s with chip := c, pcie := p } :=
  kept_of_live hl hp FrontKept.window
theorem kept_of_live_smb (hl : s.live = true) (hm : FrontKept s → m.window ≤ 0x8000) : Kept s { s with chip := c, smb := m } :=
  kept_of_live hl FrontKept.perst hm

theorem perst_kept (s : State) : ∃ t, exec .perst s = .next t ∧ Kept s t := by
  by_cases up : s.live = true ∧ s.pcie.perst = false
  · exact ⟨_, exec_perst_of_up up, kept_of_live_link up.1 fun _ _ => ⟨rfl, rfl, rfl⟩⟩
  · refine ⟨_, exec_perst_of_down up, rfl, fun h => ⟨h.closed, fun off => ?_, fun _ => ⟨rfl, rfl, rfl⟩, h.window⟩⟩
    obtain ⟨chip, jtag, -, -, -, window⟩ := h.dark off
    exact ⟨chip, jtag, rfl, rfl, rfl, window⟩

theorem perstRelease_kept (s : State) : ∃ t, exec .perstRelease s = .next t ∧ Kept s t := by
  by_cases up : s.pcie.perst = true ∧ s.live = true
  · exact ⟨_, exec_perstRelease_of_running up, kept_of_live_link (c := s.chip) up.2 fun _ => quiet_of_high rfl⟩
  · exact ⟨_, exec_perstRelease_of_dark_or_high up, rfl, fun h => ⟨h.closed, h.dark, quiet_of_high rfl, h.window⟩⟩

/-- A function that answers is on a link that is not under reset. -/
theorem perst_of_carries {fn : CtxId} (h : p.carries fn = true) : p.perst = false := by
  simp only [Pcie.carries, Bool.and_eq_true, Bool.not_eq_true'] at h
  exact h.1.1

theorem powerOnBoot_kept (hl : s.live = true) (b : BootInputs) : ∃ t, exec (.powerOnBoot b) s = .next t ∧ Kept s t := by
  refine ⟨_, rfl, ?_⟩
  split
  case isFalse => exact .refl s
  case isTrue =>
    refine kept_of_live_link hl fun h => ?_
    split
    case isTrue => exact h.perst
    case isFalse hp => exact quiet_of_high (Bool.eq_false_iff.mpr hp)

/-- A change of VF Enable or of a D3hot bit by a function that answers. -/
theorem kept_of_carries {fn : CtxId} (h : (s.live && s.pcie.carries fn) = true) (hp : p.perst = s.pcie.perst) :
    Kept s { s with chip := c, pcie := p } :=
  have ⟨hl, hc⟩ := Bool.and_eq_true_iff.mp h
  kept_of_live_link hl fun _ => quiet_of_high (hp.trans (perst_of_carries hc))

theorem vfEnableClear_kept (s : State) : ∃ t, exec .vfEnableClear s = .next t ∧ Kept s t := by
  change ∃ t, execVfEnableClear s = .next t ∧ Kept s t
  unfold execVfEnableClear
  split
  case isFalse => exact ⟨_, rfl, .refl s⟩
  case isTrue h => exact ⟨_, rfl, kept_of_carries (Bool.and_eq_true_iff.mp h).1 rfl⟩

section
variable (hl : s.live = true)
include hl

theorem badPec_kept : Kept s s.badPec := kept_of_live_smb (c := s.chip) hl FrontKept.window
theorem smbSend_kept (o : Out) : Kept s (s.smbSend o) := kept_of_live_chip hl

theorem smbusSetWindow_kept (o : W32) (pec : Bool) : ∃ t, exec (.smbusSetWindow o pec) s = .next t ∧ Kept s t := by
  cases pec with
  | false => exact ⟨_, exec_smbusSetWindow_of_badPec hl o, badPec_kept hl⟩
  | true =>
    refine ⟨_, exec_smbusSetWindow hl o, ?_⟩
    split
    case isTrue h => exact kept_of_live_smb (c := s.chip) hl fun _ => Nat.le_of_lt h.2
    case isFalse => exact smbSend_kept hl _

theorem smbusDataWrite_kept (d : List Byte) (pec : Bool) : ∃ t, exec (.smbusDataWrite d pec) s = .next t ∧ Kept s t := by
  cases pec with
  | false => exact ⟨_, exec_smbusDataWrite_of_badPec hl d, badPec_kept hl⟩
  | true =>
    refine ⟨_, exec_smbusDataWrite hl d, ?_⟩
    split
    case isTrue h => exact kept_of_live_smb hl fun _ => (Smb.fits_iff.mp h).2.2
    case isFalse => exact smbSend_kept hl _

theorem smbusDataRead_kept (n : Nat) : ∃ t, exec (.smbusDataRead n) s = .next t ∧ Kept s t := by
  refine ⟨_, exec_smbusDataRead hl n, ?_⟩
  split
  case isTrue h => exact kept_of_live_smb hl fun _ => (Smb.fits_iff.mp h).2.2
  case isFalse => exact smbSend_kept hl _

theorem alertResponse_kept : ∃ t, exec .alertResponse s = .next t ∧ Kept s t := by
  refine ⟨_, exec_alertResponse hl, ?_⟩
  split
  case isTrue => exact smbSend_kept hl _
  case isFalse => exact .refl s

theorem linkRow_kept_of_live {i : Instr} (h : LinkRow i) : ∃ t, exec i s = .next t ∧ Kept s t := by
  cases h with
  | powerOnBoot b => exact powerOnBoot_kept hl b
  | vfEnableClear => exact vfEnableClear_kept s
  | d3hot fn | d3hotExit fn =>
    refine ⟨_, rfl, ?_⟩
    split
    case isTrue h => exact kept_of_carries h rfl
    case isFalse => exact .refl s
  | smbusSetWindow o pec => exact smbusSetWindow_kept hl o pec
  | smbusDataWrite d pec => exact smbusDataWrite_kept hl d pec
  | smbusDataRead n => exact smbusDataRead_kept hl n
  | smbusStatusRead => exact ⟨_, exec_smbusStatusRead hl, kept_of_live_smb hl FrontKept.window⟩
  | alertResponse => exact alertResponse_kept hl

end
end

theorem linkRow_kept {i : Instr} (h : LinkRow i) (s : State) : ∃ t, exec i s = .next t ∧ Kept s t := by
  cases hl : s.live with
  | false => exact ⟨s, linkRow_of_stopped hl h, .refl s⟩
  | true => exact linkRow_kept_of_live hl h

theorem boardRow_kept {i : Instr} (h : BoardRow i) (s : State) : ∃ t, exec i s = .next t ∧ Kept s t := by
  cases h with
  | perst => exact perst_kept s
  | perstRelease => exact perstRelease_kept s
  | pwrEnRise => exact exec_pwrEnRise_kept s
  | pwrEnFall => exact exec_pwrEnFall_kept s
  | inputUndervoltage => exact ⟨_, rfl, inputOut_kept s 0x01⟩
  | inputOvervoltage => exact ⟨_, rfl, inputOut_kept s 0x02⟩
  | inputRestored => exact exec_inputRestored_kept s
  | inputOvercurrent => exact ⟨_, rfl, latchOff_kept s 0x03⟩
  | coreOvercurrent => exact ⟨_, rfl, latchOff_kept s 0x04⟩
  | thermalShutdown x => exact exec_thermalShutdown_kept x s

/-! ### Every command, and a step -/

theorem exec_kept (i : Instr) (s : State) : ∃ t, exec i s = .next t ∧ Kept s t := by
  obtain ⟨f, hf⟩ | h | h | h := exec_onChip_or_row i s
  · obtain ⟨t, ht, hb⟩ := onChip_behind f s
    exact ⟨t, hf.trans ht, hb.kept⟩
  · exact linkRow_kept h s
  · exact boardRow_kept h s
  · obtain ⟨t, ht, hb⟩ := testPortRow_behind h s
    exact ⟨t, ht, hb.kept⟩

/-- The passing of an arithmetic cycle changes at most the module of one that runs. -/
theorem passAc_behind {s t : State} (h : passAc s = .next t) : Behind s t := by
  unfold passAc at h
  split at h
  case isTrue => cases h; exact .refl s
  case isFalse live =>
    split at h
    case isTrue => cases h
    case isFalse => cases h; exact (Behind.refl s).write (powered_of_live (by simpa using live))

/-- The queue is no part of the invariant. -/
theorem frontKept_pending {s : State} (h : FrontKept s) (q : List Instr) : FrontKept { s with pending := q } :=
  ⟨h.closed, h.dark, h.perst, h.window⟩

theorem frontKept_step {s t : State} (h : FrontKept s) (hs : step s = .next t) : FrontKept t := by
  unfold step at hs
  split at hs
  next i rest _ =>
    obtain ⟨u, hu, kept⟩ := exec_kept i { s with pending := rest }
    cases hu.symm.trans hs
    exact kept.front (frontKept_pending h rest)
  next => exact (passAc_behind hs).kept.front h

theorem frontKept_reset : FrontKept State.reset :=
  ⟨fun _ => ⟨rfl, rfl, rfl⟩, fun off => absurd off (by decide), fun _ => ⟨rfl, rfl, rfl⟩, Nat.zero_le _⟩

/-! ### Instructions of any TAP (R564 to R566) -/

/-- The module under the test condition that the instructions of a test port make (R489). -/
def Chip.underTest (c : Chip) (j : Jtag) : Chip := { c with pan := { c.pan with test := j.test } }

/-- The levels of the pins, which are open values (log 10), shifted out of a TAP. -/
def Chip.captured (c : Chip) (x : Tap) : Chip :=
  { c.send (.tdo x (Config.pinSample c.fresh.n)) with fresh := ⟨c.fresh.n + 1⟩ }

/-- IDCODE in every TAP is no test condition (R489). -/
theorem test_idcodes (j : Jtag) : ({ j with irHub := 0x01, irC0 := 0x01, irC1 := 0x01 } : Jtag).test = false := by
  simp [Jtag.test]

theorem load_idcodes (j : Jtag) : ((j.load .hub 0x01).load .c0 0x01).load .c1 0x01 = { j with irHub := 0x01, irC0 := 0x01, irC1 := 0x01 } := rfl

theorem load_eq (j : Jtag) (x : Tap) (ir : Byte) : j.load x ir =
    if x = .hub then { j with irHub := ir } else if x = .c0 then { j with irC0 := ir } else { j with irC1 := ir } := by
  cases x <;> rfl

section
variable {s : State} (hp : s.front.powered = true)
include hp

theorem instr_of_powered (x : Tap) (ir : Byte) :
    s.instr x ir = { s with jtag := s.jtag.load x ir, chip := s.chip.underTest (s.jtag.load x ir) } := if_pos hp
/-- A further instruction: the test condition is that of the TAPs as they then stand. -/
theorem instr_again (x : Tap) (ir : Byte) (j : Jtag) : State.instr x ir { s with jtag := j, chip := s.chip.underTest j } =
    { s with jtag := j.load x ir, chip := s.chip.underTest (j.load x ir) } := if_pos hp

theorem takePins_of_powered : s.takePins = { s with jtag := { s.jtag with pinsTaken := true } } := if_pos hp
theorem tdo_of_powered (x : Tap) (bits : List Bool) : s.tdo x bits = { s with chip := s.chip.send (.tdo x bits) } := if_pos hp

theorem capture_of_powered (x : Tap) : s.capture x = { s with chip := s.chip.captured x } := by
  rw [State.capture, if_pos hp, tdo_of_powered hp]
  rfl

theorem instr_powered (x : Tap) (ir : Byte) : (s.instr x ir).front.powered = true := ((Behind.refl s).instr x ir).powered.trans hp
theorem takePins_powered : s.takePins.front.powered = true := (Behind.refl s).takePins.powered.trans hp

theorem exec_tapReset_of_powered : exec .tapReset s = .next { s with
    jtag := { s.jtag with irHub := 0x01, irC0 := 0x01, irC1 := 0x01 }, chip := { s.chip with pan := { s.chip.pan with test := false } } } := by
  change Host.Outcome.next (((s.instr .hub 0x01).instr .c0 0x01).instr .c1 0x01) = _
  rw [instr_of_powered hp, instr_again hp, instr_again hp, load_idcodes, Chip.underTest, test_idcodes]

theorem instr_tdo_of_powered (x : Tap) (ir : Byte) (bits : List Bool) : (s.instr x ir).tdo x bits =
    { s with jtag := s.jtag.load x ir, chip := (s.chip.underTest (s.jtag.load x ir)).send (.tdo x bits) } := by
  rw [tdo_of_powered (instr_powered hp x ir), instr_of_powered hp]

/-- An instruction that takes the pins of every die and shifts out the bypass register. -/
theorem instr_takePins_tdo_of_powered (x : Tap) (ir : Byte) (bits : List Bool) : ((s.instr x ir).takePins).tdo x bits =
    { s with jtag := { s.jtag.load x ir with pinsTaken := true }, chip := (s.chip.underTest (s.jtag.load x ir)).send (.tdo x bits) } := by
  have loaded := instr_powered hp x ir
  rw [tdo_of_powered (takePins_powered loaded), takePins_of_powered loaded, instr_of_powered hp]

/-- One that takes them and captures the boundary register. -/
theorem instr_takePins_capture_of_powered (x : Tap) (ir : Byte) : ((s.instr x ir).takePins).capture x =
    { s with jtag := { s.jtag.load x ir with pinsTaken := true }, chip := (s.chip.underTest (s.jtag.load x ir)).captured x } := by
  have loaded := instr_powered hp x ir
  rw [capture_of_powered (takePins_powered loaded), takePins_of_powered loaded, instr_of_powered hp]

theorem exec_samplePreload_of_powered (x : Tap) (bits : List Bool) : exec (.samplePreload x bits) s = .next { s with
    jtag := { s.jtag.load x 0x02 with preload := tblPut [] (s.jtag.load x 0x02).preload (tapNum x) bits },
    chip := (s.chip.underTest (s.jtag.load x 0x02)).captured x } := by
  refine congrArg _ ((if_pos hp).trans ?_)
  rw [capture_of_powered (instr_powered hp x 0x02), instr_of_powered hp]

end

section
variable {s : State} (hp : s.front.powered = false)
include hp

theorem takePins_of_unpowered : s.takePins = s := if_neg (ne_true_of_eq_false hp)
theorem tdo_of_unpowered (x : Tap) (bits : List Bool) : s.tdo x bits = s := if_neg (ne_true_of_eq_false hp)
theorem capture_of_unpowered (x : Tap) : s.capture x = s := if_neg (ne_true_of_eq_false hp)

theorem instr_tdo_of_unpowered (x : Tap) (ir : Byte) (bits : List Bool) : (s.instr x ir).tdo x bits = s := by
  rw [instr_of_unpowered hp, tdo_of_unpowered hp]
theorem instr_takePins_tdo_of_unpowered (x : Tap) (ir : Byte) (bits : List Bool) : ((s.instr x ir).takePins).tdo x bits = s := by
  rw [instr_of_unpowered hp, takePins_of_unpowered hp, tdo_of_unpowered hp]
theorem instr_takePins_capture_of_unpowered (x : Tap) (ir : Byte) : ((s.instr x ir).takePins).capture x = s := by
  rw [instr_of_unpowered hp, takePins_of_unpowered hp, capture_of_unpowered hp]

theorem exec_tapReset_of_unpowered : exec .tapReset s = .next s := by
  change Host.Outcome.next (((s.instr .hub 0x01).instr .c0 0x01).instr .c1 0x01) = _
  rw [instr_of_unpowered hp, instr_of_unpowered hp, instr_of_unpowered hp]

theorem exec_samplePreload_of_unpowered (x : Tap) (bits : List Bool) : exec (.samplePreload x bits) s = .next s := by
  refine congrArg _ ((if_neg (ne_true_of_eq_false hp)).trans ?_)
  rw [instr_of_unpowered hp, capture_of_unpowered hp]

end

/-- The fields of the IDCODE as a number (R564): revision, part, manufacturer, 1. -/
theorem idcodeOf_toNat (rev : W16) (x : Tap) : (idcodeOf rev x).toNat =
    rev.toNat % 16 * 2 ^ 28 + (if x = .hub then 0xD4A0 else 0xD4A1) * 2 ^ 12 + Config.manufacturer.toNat * 2 + 1 := by
  have width := Config.manufacturer.isLt
  cases x <;> exact (BitVec.toNat_ofNat _ _).trans (Nat.mod_eq_of_lt (by dsimp only; omega))

theorem idcodeOf_field (rev : W16) (x : Tap) (lo n : Nat) :
    ((idcodeOf rev x).extractLsb' lo n).toNat = (idcodeOf rev x).toNat / 2 ^ lo % 2 ^ n := by
  rw [BitVec.extractLsb'_toNat, Nat.shiftRight_eq_div_pow]

theorem idcodeOf_revision (rev : W16) (x : Tap) : (idcodeOf rev x).extractLsb' 28 4 = rev.extractLsb' 0 4 := by
  have width := Config.manufacturer.isLt
  refine BitVec.eq_of_toNat_eq ?_
  rw [idcodeOf_field, idcodeOf_toNat, BitVec.extractLsb'_toNat]
  split <;> omega

theorem idcodeOf_manufacturer (rev : W16) (x : Tap) : (idcodeOf rev x).extractLsb' 1 11 = Config.manufacturer := by
  have width := Config.manufacturer.isLt
  refine BitVec.eq_of_toNat_eq ?_
  rw [idcodeOf_field, idcodeOf_toNat]
  split <;> omega

theorem idcodeOf_part (rev : W16) (x : Tap) : ((idcodeOf rev x).extractLsb' 12 16).toNat = if x = .hub then 0xD4A0 else 0xD4A1 := by
  have width := Config.manufacturer.isLt
  rw [idcodeOf_field, idcodeOf_toNat]
  split <;> omega

theorem idcodeOf_one (rev : W16) (x : Tap) : (idcodeOf rev x).getLsbD 0 = true := by
  rw [BitVec.getLsbD, Nat.testBit_zero, idcodeOf_toNat]
  exact decide_eq_true (by omega)

/-! ### POWER_SAMPLE and its alerts (R551, R571, R573) -/

section
variable (c : Chip)

/-- The averages of the input and the open readings of the core, written. -/
def Chip.sampled (mv ma dw : W16) : Chip :=
  { c with pwr := { c.pwr with volt := mv, curr := ma, power := dw, coreVolt := Config.coreMillivolts c.fresh.n,
                               coreCurr := Config.coreCurrent c.fresh.n }, fresh := ⟨c.fresh.n + 1⟩ }

/-- OVER is set, and raised where its last alert is 100 ms ago. -/
def Chip.noteOver : Chip :=
  if c.alertDue c.pwr.overAt then ({ c with pwr := { c.pwr with overIn := true, overAt := some c.up } } : Chip).powerAlert 1
  else { c with pwr := { c.pwr with overIn := true } }

/-- MARGIN likewise. -/
def Chip.noteMargin : Chip :=
  if c.alertDue c.pwr.marginAt then ({ c with pwr := { c.pwr with margin := true, marginAt := some c.up } } : Chip).powerAlert 2
  else { c with pwr := { c.pwr with margin := true } }

theorem powerSample_eq (mv ma dw : W16) : powerSample mv ma dw c =
    Chip.when (decide (mv.toNat < 41000) || decide (59000 < mv.toNat)) Chip.noteMargin
      (Chip.when (decide (7500 < dw.toNat)) Chip.noteOver (c.sampled mv ma dw)) := by
  have overStage : Chip.noteOver = fun c =>
      let due := c.alertDue c.pwr.overAt
      let c : Chip := { c with pwr := { c.pwr with overIn := true, overAt := if due then some c.up else c.pwr.overAt } }
      if due then c.powerAlert 1 else c := by
    funext c
    unfold Chip.noteOver
    cases c.alertDue c.pwr.overAt <;> simp only [reduceIte, Bool.false_eq_true]
  have marginStage : Chip.noteMargin = fun c =>
      let due := c.alertDue c.pwr.marginAt
      let c : Chip := { c with pwr := { c.pwr with margin := true, marginAt := if due then some c.up else c.pwr.marginAt } }
      if due then c.powerAlert 2 else c := by
    funext c
    unfold Chip.noteMargin
    cases c.alertDue c.pwr.marginAt <;> simp only [reduceIte, Bool.false_eq_true]
  rw [overStage, marginStage]
  rfl

theorem when_decide (p : Prop) [Decidable p] (f : Chip → Chip) : Chip.when (decide p) f c = if p then f c else c := by
  by_cases h : p <;> simp [h]

end

/-! ### THERMAL_WARNING (R555; the threshold itself warns, DESIGN CHOICE, log 37) -/

section
variable (t : Byte) (c : Chip)

theorem thermalWarning_die : thermalWarning .die t c = Chip.when (decide (95 ≤ degrees t))
    (fun c => Chip.thermal { c with pwr := { c.pwr with hot := true, tDie := t } } 0 0 t) c := rfl
theorem thermalWarning_regulator : thermalWarning .regulator t c = Chip.when (decide (105 ≤ degrees t))
    (fun c => Chip.thermal { c with pwr := { c.pwr with hot := true, tReg := t } } 1 0 t) c := rfl
theorem thermalWarning_inlet : thermalWarning .inlet t c = Chip.when (decide (40 ≤ degrees t))
    (fun c => Chip.thermal { c with pwr := { c.pwr with inletHot := true, tInlet := t } } 3 0 t) c := rfl

end

section
variable {s : State} (hl : s.live = true)
include hl

theorem exec_powerSample (mv ma dw : W16) : exec (.powerSample mv ma dw) s = .next (after s (powerSample mv ma dw s.chip)) := onChip_live hl _
theorem exec_thermalWarning (x : Sensor) (t : Byte) : exec (.thermalWarning x t) s = .next (after s (thermalWarning x t s.chip)) :=
  onChip_live hl _

/-- A sensor with a threshold warns at it and above, and below it does nothing. -/
theorem exec_thermalWarning_of_threshold {x : Sensor} {t : Byte} {limit : Int} {f : Chip → Chip}
    (hx : thermalWarning x t s.chip = Chip.when (decide (limit ≤ degrees t)) f s.chip) :
    (degrees t < limit → exec (.thermalWarning x t) s = .next s) ∧
    (limit ≤ degrees t → exec (.thermalWarning x t) s = .next (after s (f s.chip))) := by
  rw [exec_thermalWarning hl, hx, when_decide]
  exact ⟨fun below => by rw [if_neg (not_le.mpr below), after_chip], fun reached => by rw [if_pos reached]⟩

end

/-! ### What the pan's mode survives (R498 to R501) -/

section
variable (c : Chip)

theorem raiseTo_pan (tgt : Nat) (e : Ev) : (c.raiseTo tgt e).pan = c.pan := by
  obtain ⟨k, x, o, h⟩ := raiseTo_eq c tgt e
  rw [h]

theorem panLoss_pan (first : Bool) (kind idx : Nat) : (c.panLoss first kind idx).pan = c.pan := by
  obtain ⟨k, x, o, h⟩ := panLoss_eq c first kind idx
  rw [h]

theorem traceRaw_mode (kind idx : Nat) (r : TRec) : (c.traceRaw kind idx r).1.pan.mode = c.pan.mode := by
  unfold Chip.traceRaw
  dsimp only
  split <;> rfl

theorem raise_mode (tgt : Nat) (code : W16) (kind : BitVec 4) (id : Nat) (d0 d1 : W64) :
    (c.raise tgt code kind id d0 d1).pan.mode = c.pan.mode := by
  unfold Chip.raise
  dsimp only
  split
  case isTrue => rw [panLoss_pan, traceRaw_mode, raiseTo_pan]
  case isFalse => rw [raiseTo_pan]

theorem evTile_mode (t : Nat) (code : W16) (d0 d1 : W64) : (c.evTile t code d0 d1).pan.mode = c.pan.mode := raise_mode ..
theorem evChan_mode (ch : Nat) (code : W16) (d0 d1 : W64) : (c.evChan ch code d0 d1).pan.mode = c.pan.mode := raise_mode ..

theorem foldl_mode {β : Type} {f : Chip → β → Chip} (h : ∀ c x, (f c x).pan.mode = c.pan.mode) (xs : List β) :
    (xs.foldl f c).pan.mode = c.pan.mode := by
  induction xs generalizing c with
  | nil => rfl
  | cons x xs ih => exact (ih (f c x)).trans (h c x)

theorem write_pan (a : Nat) (bs : List Byte) (pz : Bool) : (c.write a bs pz).pan = c.pan := by
  obtain ⟨_, _, _, h⟩ | ⟨_, _, _, _, _, _, _, _, h⟩ := write_eq c a bs pz <;> rw [h]

theorem faultLog_pan (kind arg : Nat) : (c.faultLog kind arg).pan = c.pan := by
  unfold Chip.faultLog
  dsimp only
  split
  case isTrue => rw [norErase_pan, norProg_pan]
  case isFalse => rw [norProg_pan]

theorem checkUse_pan (sched wr : Bool) (g : Nat) : (c.checkUse sched wr g).pan = c.pan := updChan_pan ..

theorem takeBurst_pan (by_ : Reader) (g : Nat) : (c.takeBurst by_ g).pan = c.pan := by
  unfold Chip.takeBurst
  split
  case isTrue => rfl
  case isFalse => rw [updChan_pan]

/-- A read that is not the run's starts no recovery (R461). -/
theorem detect_of_otherReader (d e : Chip) : (if otherReader.run then d else e) = e := rfl

theorem spdPart_mode (p : Nat) : (c.spdPart p otherReader).pan.mode = c.pan.mode := by
  unfold Chip.spdPart
  dsimp only
  split
  case isTrue => rfl
  case isFalse =>
    split
    case isTrue => rfl
    case isFalse => rw [detect_of_otherReader, evTile_mode, updTile_pan]

theorem lpEcc_mode (g : Nat) : (c.lpEcc g otherReader).pan.mode = c.pan.mode := by
  unfold Chip.lpEcc
  dsimp only
  split
  case isTrue => rw [checkUse_pan]
  case isFalse =>
    split
    case isTrue =>
      split
      case isTrue => rw [checkUse_pan]
      case isFalse => split <;> rw [updChan_pan, checkUse_pan]
    case isFalse =>
      rw [detect_of_otherReader, evChan_mode, faultLog_pan, updChan_pan]
      exact congrArg Pan.mode (checkUse_pan c otherReader.sched false g)

theorem lpMac_mode (g : Nat) : (c.lpMac g otherReader).pan.mode = c.pan.mode := by
  unfold Chip.lpMac
  split
  case isFalse => rfl
  case isTrue =>
    dsimp only
    rw [detect_of_otherReader, evChan_mode, updChan_pan]

theorem mergeLp_mode (g : Nat) : (c.mergeLp g otherReader).pan.mode = c.pan.mode := by
  have read : ((c.lpEcc g otherReader).lpMac g otherReader).pan.mode = c.pan.mode := by rw [lpMac_mode, lpEcc_mode]
  unfold Chip.mergeLp
  dsimp only
  split <;> exact read

theorem merge_mode (a n : Nat) : (c.merge a n otherReader).pan.mode = c.pan.mode := by
  unfold Chip.merge
  split
  case isTrue => exact foldl_mode c (fun c p => spdPart_mode c p) _
  case isFalse =>
    split
    case isTrue => exact foldl_mode c (fun c g => mergeLp_mode c g) _
    case isFalse => rfl

theorem checkWrite_mode (by_ : Reader) (a n : Nat) : (c.checkWrite by_ a n).pan.mode = c.pan.mode := by
  unfold Chip.checkWrite
  split
  case isTrue => exact foldl_mode c (fun c g => by rw [checkUse_pan, takeBurst_pan]) _
  case isFalse => rfl

theorem writePieces_mode (ps : List (Nat × List Byte × Bool)) : (c.writePieces ps).pan.mode = c.pan.mode := by
  unfold Chip.writePieces Chip.writeBy
  dsimp only
  rw [foldl_mode _ (fun c p => by rw [write_pan]), foldl_mode _ (fun c p => by rw [checkWrite_mode, write_pan, merge_mode])]

theorem keepRec_mode (r : TRec) : (c.keepRec r).pan.mode = c.pan.mode := by
  change (c.spillRec r).pan.mode = c.pan.mode
  unfold Chip.spillRec
  split
  case isTrue => rfl
  case isFalse => exact writePieces_mode c _

theorem trigger_mode (v : W64) : (c.trigger v).pan.mode = c.pan.mode := by
  unfold Chip.trigger
  dsimp only
  rw [raise_mode]
  exact keepRec_mode c _

theorem acceptRec_mode (r : TRec) : (c.acceptRec r).pan.mode = c.pan.mode := by
  have kept := keepRec_mode c r
  unfold Chip.acceptRec
  dsimp only
  split
  case isTrue => exact kept
  case isFalse =>
    split
    case isTrue => split <;> exact kept
    case isFalse =>
      split
      case isTrue =>
        split
        · rw [trigger_mode, kept]
        · exact kept
      case isFalse => exact kept

theorem panAccept_mode : c.panAccept.pan.mode = c.pan.mode := by
  unfold Chip.panAccept
  split
  case isTrue => rfl
  case isFalse =>
    split
    case h_1 => rfl
    case h_2 =>
      split
      case isTrue => rw [acceptRec_mode]
      case isFalse =>
        split
        · rfl
        · rw [acceptRec_mode]

/-! ### PAN_RECORD and STAMP_WRAP (R497 to R500, R503) -/

/-- Whether an armed capture waits for a tide count, and that count has come. -/
def Chip.countReached (c : Chip) : Bool :=
  c.pan.st == .armed && decide (c.pan.mode = 2) && decide (fld (c.pan.sel.getD 1 0) 63 60 = 4) && decide ((c.pan.sel.getD 2 0).toNat ≤ c.now)

/-- Whether accepting records has filled a capture that stops when full. -/
def Chip.stopsFull (c d : Chip) : Bool := c.pan.live && d.pan.st == .stopped && decide (d.pan.mode = 0)

/-- A LOSS record for the first engine that lost some, where one did (DESIGN CHOICE, log 20). -/
def Chip.keepLoss (d : Chip) : Chip :=
  match d.pan.bufs.find? (fun b => decide (0 < b.lost)) with
  | some b => d.keepRec (lossRec d b)
  | none => d

/-- Two records accepted in one fabric cycle, and the LOSS record of a capture that stops full. -/
def Chip.acceptTwo (c : Chip) : Chip :=
  if c.stopsFull c.panAccept.panAccept then c.panAccept.panAccept.keepLoss else c.panAccept.panAccept

theorem panRecord_eq : panRecord c = Chip.acceptTwo (if c.countReached then c.trigger c.tide.count else c) := by
  unfold panRecord
  unfold Chip.countReached
  extract_lets d
  rfl

theorem acceptTwo_of_goesOn (h : c.stopsFull c.panAccept.panAccept = false) : c.acceptTwo = c.panAccept.panAccept :=
  if_neg (ne_true_of_eq_false h)

/-- A capture of another mode than STOP_ON_FULL goes on. -/
theorem acceptTwo_of_mode (h : c.pan.mode ≠ 0) : c.acceptTwo = c.panAccept.panAccept := by
  have other : c.panAccept.panAccept.pan.mode ≠ 0 := by rwa [panAccept_mode, panAccept_mode]
  exact acceptTwo_of_goesOn c (by rw [Chip.stopsFull, decide_eq_false other, Bool.and_false])

theorem acceptTwo_of_full {d : Chip} {b : PanBuf} (hd : c.panAccept.panAccept = d) (live : c.pan.live = true)
    (stopped : d.pan.st = .stopped) (mode : d.pan.mode = 0) (lost : d.pan.bufs.find? (fun b => decide (0 < b.lost)) = some b) :
    c.acceptTwo = d.keepRec (lossRec d b) := by
  have full : c.stopsFull d = true := by rw [Chip.stopsFull, live, stopped, decide_eq_true mode]; rfl
  rw [Chip.acceptTwo, hd, if_pos full, Chip.keepLoss, lost]

end

section
variable {s : State} (hl : s.live = true)
include hl

theorem exec_panRecord : exec .panRecord s = .next (after s (panRecord s.chip)) := onChip_live hl _
theorem exec_stampWrap : exec .stampWrap s = .next (after s (stampWrap s.chip)) := onChip_live hl _

end

section
variable {c : Chip}

theorem countReached_of_armed (armed : c.pan.st = .armed) (mode : c.pan.mode = 2) (waits : fld (c.pan.sel.getD 1 0) 63 60 = 4)
    (come : (c.pan.sel.getD 2 0).toNat ≤ c.now) : c.countReached = true := by
  rw [Chip.countReached, armed, decide_eq_true mode, decide_eq_true waits, decide_eq_true come]
  rfl

/-- A capture of another mode than the trigger's waits for no tide count. -/
theorem countReached_of_mode (h : c.pan.mode ≠ 2) : c.countReached = false := by
  rw [Chip.countReached, decide_eq_false h, Bool.and_false, Bool.false_and, Bool.false_and]

theorem stampWrap_of_other (h : c.now % 2 ^ 48 ≠ 0) : stampWrap c = c := when_of_false (by rw [decide_eq_false h, Bool.false_and]) _ c

theorem stampWrap_of_wrap (h : c.now % 2 ^ 48 = 0) (h0 : 0 < c.now) : stampWrap c =
    (if c.pan.live then
      let q := c.traceRaw 8 0 (traceRec c 5 0 false 0 0 0 8 0 (BitVec.ofNat 64 (c.now / 2 ^ 48)) 0)
      q.1.panLoss q.2 8 0
    else c).evMod 0x0901 (BitVec.ofNat 64 (c.now / 2 ^ 48)) 0 := when_of (by rw [decide_eq_true h, decide_eq_true h0]; rfl) _ c

end

end Sys2Proof.Machine

/-! ### The statements -/

namespace Sys2Proof
open Sys2Proof.Machine

/-- Settles O4: the test port and the meanings on the module change nothing the invariant speaks of while the front end is closed, and nothing
at all while it is open; the link's rows and the front end's own are the rest. -/
theorem frontEndLinkAndTestPortKept : Obligations.FrontEndLinkAndTestPortKept := by
  unfold Obligations.FrontEndLinkAndTestPortKept
  intro s t
  exact frontKept_step

/-- Settles O5. -/
theorem resetKeepsFrontEndLinkAndTestPort : Obligations.ResetKeepsFrontEndLinkAndTestPort := frontKept_reset

/-- Settles O2: what `exec_kept` says of each class of rows. -/
theorem everyCommandAnswersAndLeavesTheQueue : Obligations.EveryCommandAnswersAndLeavesTheQueue := by
  unfold Obligations.EveryCommandAnswersAndLeavesTheQueue
  intro i s
  obtain ⟨t, ht, kept⟩ := exec_kept i s
  exact ⟨t, ht, kept.pending⟩

/-- Settles O1: the case of a queue that holds a command (log 4, DESIGN CHOICE). -/
theorem stepRunsTheOldestWaitingCommand : Obligations.StepRunsTheOldestWaitingCommand := fun _ _ _ => rfl

/-- Settles O6: rows behind the front end, and the link's and the SMBus target's, ask first whether the die set runs. `Tests.test_pins` and
`Tests.test_front_cause` hold modules whose die set does not. -/
theorem stoppedDiesDoNothing : Obligations.StoppedDiesDoNothing := by
  unfold Obligations.StoppedDiesDoNothing
  intro i s hl ho
  exact exec_of_stopped hl ho

/-- Settles O50: each row is its case of a closed or an open front end. That PWR_EN low is held 10 ms (log 37) and the host's assignment at the
boot (log 38) are the model's choices. -/
theorem frontEndOpensClosesAndLatches : Obligations.FrontEndOpensClosesAndLatches := by
  unfold Obligations.FrontEndOpensClosesAndLatches
  intro s
  refine ⟨exec_pwrEnRise_of_held, exec_pwrEnRise_of_free, fun hp => ?opened, ?closed, exec_inputRestored_of_recloses,
    exec_inputRestored_of_stays, fun b => ?boot⟩
  case opened =>
    exact ⟨exec_pwrEnFall_of_open hp, congrArg _ (inputOut_of_open hp 0x01), congrArg _ (inputOut_of_open hp 0x02),
      congrArg _ (latchOff_of_open hp 0x03), congrArg _ (latchOff_of_open hp 0x04)⟩
  case closed =>
    rintro hp _ rfl
    exact ⟨exec_pwrEnFall_of_closed hp, congrArg _ (inputOut_of_closed hp 0x01), congrArg _ (inputOut_of_closed hp 0x02),
      congrArg _ (latchOff_of_closed hp 0x03), congrArg _ (latchOff_of_closed hp 0x04)⟩
  case boot =>
    have starts : (s.live && s.chip.keeper.state == .booting && s.chip.boot.stage == 0) = true ↔
        s.live = true ∧ s.chip.keeper.state = .booting ∧ s.chip.boot.stage = 0 := by simp [and_assoc]
    exact ⟨fun h => congrArg _ (if_pos (starts.mpr h)), fun h => congrArg _ (if_neg (h ∘ starts.mp))⟩

/-- Settles O51: a sample is its two alerts in turn, a warning its sensor's threshold, a shutdown `State.latchOff`. That the threshold itself warns
is the model's choice (log 37). -/
theorem sensorsAlertWarnAndShutDown : Obligations.SensorsAlertWarnAndShutDown := by
  unfold Obligations.SensorsAlertWarnAndShutDown
  rintro s _ rfl
  refine ⟨?sample, fun hl t => ?warning, rfl, fun hp x => ?unpowered, fun p => exec_thermalShutdown_of_cool, ?shutdown⟩
  case sample =>
    rintro hl mv ma dw _ _ rfl rfl
    rw [exec_powerSample hl, powerSample_eq, when_decide]
    refine ⟨fun inRange => ?_, fun outside => ⟨fun due => ?_, fun early => ?_⟩⟩
    · rw [when_of_false (by simpa using inRange)]
      rfl
    · rw [when_of (by simpa using outside), Chip.noteMargin]
      exact congrArg (Host.Outcome.next <| after s ·) (if_pos due)
    · rw [when_of (by simpa using outside), Chip.noteMargin]
      exact congrArg (Host.Outcome.next <| after s ·) (if_neg (ne_true_of_eq_false early))
  case warning =>
    obtain ⟨dieCool, dieWarns⟩ := exec_thermalWarning_of_threshold hl (thermalWarning_die t _)
    obtain ⟨regCool, regWarns⟩ := exec_thermalWarning_of_threshold hl (thermalWarning_regulator t _)
    obtain ⟨inletCool, inletWarns⟩ := exec_thermalWarning_of_threshold hl (thermalWarning_inlet t _)
    exact ⟨dieCool, dieWarns, regCool, regWarns, inletCool, inletWarns, fun p => exec_thermalWarning hl _ t⟩
  case unpowered =>
    cases x with
    | die => exact congrArg _ (latchOff_of_open hp 0x05)
    | regulator => exact congrArg _ (latchOff_of_open hp 0x06)
    | inlet => rfl
    | package p =>
      cases h : s.chip.memHotHeld p.toNat with
      | false => exact exec_thermalShutdown_of_cool h
      | true => exact (exec_thermalShutdown_of_hot h).trans (congrArg _ (latchOff_of_open hp 0x07))
  case shutdown =>
    rintro hp _ rfl
    exact ⟨congrArg _ (latchOff_of_closed hp 0x05), congrArg _ (latchOff_of_closed hp 0x06),
      fun p h => (exec_thermalShutdown_of_hot h).trans (congrArg _ (latchOff_of_closed hp 0x07))⟩

/-- Settles O54: each instruction is its load, then what it does to the pins, then what it shifts out; the levels captured are open values
(log 10). -/
theorem testPortsLoadCaptureAndTakeThePins : Obligations.TestPortsLoadCaptureAndTakeThePins := by
  unfold Obligations.TestPortsLoadCaptureAndTakeThePins
  intro s
  refine ⟨fun hp => ?unpowered, fun hp => ⟨exec_tapReset_of_powered hp, ?loaded⟩, ?stopped, fun rev x => ?layout⟩
  case unpowered =>
    refine ⟨exec_tapReset_of_unpowered hp, fun x bs => ⟨?_, ?_, exec_samplePreload_of_unpowered hp x bs, ?_, ?_, ?_, ?_, ?_⟩⟩
    · exact congrArg _ (instr_tdo_of_unpowered hp x 0xFF _)
    · exact congrArg _ (instr_tdo_of_unpowered hp x 0x01 _)
    · exact congrArg _ (instr_takePins_capture_of_unpowered hp x 0x06)
    · exact congrArg _ (instr_takePins_capture_of_unpowered hp x 0x07)
    · exact congrArg _ (instr_takePins_capture_of_unpowered hp x 0x08)
    · exact congrArg _ (instr_takePins_tdo_of_unpowered hp x 0x09 _)
    · exact congrArg _ (instr_takePins_tdo_of_unpowered hp x 0x0A _)
  case loaded =>
    rintro x ir _ rfl _ rfl
    rw [← load_eq]
    refine ⟨?bypass, ?idcode, ?capture, ?clamp, ?highz⟩
    case bypass =>
      rintro rfl
      exact congrArg _ (instr_tdo_of_powered hp x 0xFF _)
    case idcode =>
      rintro rfl
      exact congrArg _ (instr_tdo_of_powered hp x 0x01 _)
    case capture =>
      rintro _ rfl
      refine ⟨?_, ?_, ?_, ?_⟩
      · rintro rfl bs
        exact exec_samplePreload_of_powered hp x bs
      · rintro rfl
        exact congrArg _ (instr_takePins_capture_of_powered hp x 0x06)
      · rintro rfl
        exact congrArg _ (instr_takePins_capture_of_powered hp x 0x07)
      · rintro rfl
        exact congrArg _ (instr_takePins_capture_of_powered hp x 0x08)
    case clamp =>
      rintro rfl
      exact congrArg _ (instr_takePins_tdo_of_powered hp x 0x09 _)
    case highz =>
      rintro rfl
      exact congrArg _ (instr_takePins_tdo_of_powered hp x 0x0A _)
  case stopped =>
    intro taken
    rw [State.live, taken, Bool.not_true, Bool.and_false]
  case layout =>
    refine ⟨idcodeOf_revision rev x, idcodeOf_manufacturer rev x, idcodeOf_one rev x, fun hub => ?_, fun compute => ?_⟩
    · exact BitVec.eq_of_toNat_eq ((idcodeOf_part rev x).trans (if_pos hub))
    · exact BitVec.eq_of_toNat_eq ((idcodeOf_part rev x).trans (if_neg compute))

/-- Settles O25: a fabric cycle of the pan is `Chip.acceptTwo` behind the count trigger; a triggered capture keeps its mode, so it is not one that
stops when full. The engine of the last LOSS record is the model's choice (log 20). -/
theorem panRecordsTriggersAndWraps : Obligations.PanRecordsTriggersAndWraps := by
  unfold Obligations.PanRecordsTriggersAndWraps
  refine ⟨?records, ?wraps⟩
  case records =>
    rintro s _ d hl rfl
    rw [exec_panRecord hl, panRecord_eq]
    refine ⟨?triggers, fun hm => ?accepts⟩
    case triggers =>
      rintro armed mode waits come rfl
      rw [if_pos (countReached_of_armed armed mode waits come), acceptTwo_of_mode _ (by rw [trigger_mode, mode]; decide)]
    case accepts =>
      rintro rfl
      rw [if_neg (ne_true_of_eq_false (countReached_of_mode hm))]
      exact ⟨fun goesOn => by rw [acceptTwo_of_goesOn _ goesOn],
        fun live stopped mode b lost => by rw [acceptTwo_of_full _ rfl live stopped mode lost]⟩
  case wraps =>
    rintro s _ hl rfl
    rw [exec_stampWrap hl]
    refine ⟨fun h => ?other, fun h h0 idle => ?idle, fun h h0 live q hq => ?running⟩
    case other => rw [stampWrap_of_other h, after_chip]
    case idle => rw [stampWrap_of_wrap h h0, if_neg (ne_true_of_eq_false idle)]
    case running =>
      subst hq
      rw [stampWrap_of_wrap h h0, if_pos live]

end Sys2Proof
end

section
/-! PROOFS of the statements that earlier sittings left, the issue of commands and the time exchange: TIME_EXCHANGE_TIMER, TIME_REQUEST and
TIME_REPLY, WAIT, FENCE and SIGNAL, the matrix commands, and the three statements. -/
namespace Sys2Proof.Machine

/-! ### The time exchange (R47, R48) -/

section
variable {s : State} {st : Strait} (hl : s.live = true)
include hl

theorem exec_timeExchangeTimer : exec (.timeExchangeTimer st) s = .next (after s (timeExchangeTimer st s.chip)) := onChip_live hl _
theorem exec_timeRequest (frac : BitVec 9) : exec (.timeRequest st frac) s = .next (after s (timeRequest st frac s.chip)) := onChip_live hl _
theorem exec_timeReply (frac : BitVec 9) : exec (.timeReply st frac) s = .next (after s (timeReply st frac s.chip)) := onChip_live hl _

end

/-- The exchange of a hop that sends its next request. -/
def HopX.ask (x : HopX) (up : Nat) : HopX := { x with seq := x.seq + 1, waiting := true, due := up + 65536 }

section
variable {c : Chip} {st : Strait}

theorem timeExchangeTimer_of_due (hh : c.hopRuns st = true) (hd : (c.tide.xch.get st).due ≤ c.up) :
    timeExchangeTimer st c = Chip.sendM { c with tide := { c.tide with xch := c.tide.xch.set st ((c.tide.xch.get st).ask c.up) } } st
      (timeBytes (c.str st).pver.toNat false ((c.tide.xch.get st).seq + 1) 0 0 0) := by
  unfold timeExchangeTimer
  dsimp only
  rw [when_of (by simp [hh, hd])]
  rfl

variable {r : RxTxn} (h : Arrived c st 3 7 (fun k => decide (k % 2 = 1)) r) (frac : BitVec 9)
include h

theorem timeReply_of_otherSeq (hs : fld (wordAt r.txn.bytes 8) 63 48 ≠ (c.tide.xch.get st).seq.toNat) : timeReply st frac c = c.popRx st 3 :=
  (onRx_arrived h).trans (if_pos (by simp [hs]))

theorem timeReply_of_awaited (hw : (c.tide.xch.get st).waiting = true)
    (hs : fld (wordAt r.txn.bytes 8) 63 48 = (c.tide.xch.get st).seq.toNat) {e : Int × Int}
    (he : e = exchange2 (wordAt r.txn.bytes 16) (wordAt r.txn.bytes 24) (wordAt r.txn.bytes 32) ((c.popRx st 3).stamp frac)) :
    timeReply st frac c = ((((c.popRx st 3).addExchange st (wordAt r.txn.bytes 16) e.1 e.2).track st).xsync st) := by
  subst he
  exact (onRx_arrived h).trans (if_neg (by simp [hs, hw]))

end

/-- A difference of two stamps, read as a signed word, is their difference while both are far from the wrap of R48. -/
theorem signed_sub_of_near {a b : W64} (ha : a.toNat < 2 ^ 62) (hb : b.toNat < 2 ^ 62) : signed 64 (b - a).toNat = (b.toNat : Int) - a.toNat := by
  rw [signed, BitVec.toNat_sub]
  split <;> omega

/-! ### The issue of WAIT, FENCE, SIGNAL and the matrix commands (R59, R364 to R367) -/

section
variable {s : State} {t : TileId} (hl : s.live = true)
include hl

theorem exec_wait : exec (.wait t) s = .next (after s (issueRow waitIssue (· == 0x01) t.toNat s.chip)) := onChip_live hl _
theorem exec_fence : exec (.fence t) s = .next (after s (issueRow fenceIssue (· == 0x03) t.toNat s.chip)) := onChip_live hl _
theorem exec_signal : exec (.signal t) s = .next (after s (issueRow signalIssue (· == 0x02) t.toNat s.chip)) := onChip_live hl _
theorem exec_matmul : exec (.matmul t) s = .next (after s (issueRow matmulIssue (· == 0x10) t.toNat s.chip)) := onChip_live hl _
theorem exec_loadw : exec (.loadw t) s = .next (after s (issueRow loadwIssue (· == 0x11) t.toNat s.chip)) := onChip_live hl _
theorem exec_swapw : exec (.swapw t) s = .next (after s (issueRow swapwIssue (· == 0x12) t.toNat s.chip)) := onChip_live hl _
theorem exec_gang : exec (.gang t) s = .next (after s (issueRow gangIssue (· == 0x13) t.toNat s.chip)) := onChip_live hl _

end

theorem waitIssue_run (c : Chip) (t : Nat) (q : QCmd) : waitIssue.run c t q = (c.scopeCheck t q).traceIssue t q := rfl
theorem fenceIssue_run (c : Chip) (t : Nat) (q : QCmd) : fenceIssue.run c t q = c.traceIssue t q := rfl
theorem signalIssue_run : signalIssue.run = signalRun := rfl
theorem matmulIssue_run (c : Chip) (t : Nat) (q : QCmd) : matmulIssue.run c t q =
    c.updTile t (fun x => (x.enqueue q (BitVec.ofNat 4 (fld (q.w 3) 43 40)) c.nowAc).startRamp c.nowAc) := rfl
theorem loadwIssue_run (c : Chip) (t : Nat) (q : QCmd) : loadwIssue.run c t q =
    c.updTile t (fun x => (x.enqueue q (BitVec.ofNat 4 (fld (q.w 3) 35 32)) c.nowAc).startRamp c.nowAc) := rfl
theorem swapwIssue_run (c : Chip) (t : Nat) (q : QCmd) : swapwIssue.run c t q =
    c.updTile t (fun x => (x.enqueue q (BitVec.ofNat 4 (fld (q.w 2) 3 0)) c.nowAc).startRamp c.nowAc) := rfl
theorem gangIssue_run (c : Chip) (t : Nat) (q : QCmd) : gangIssue.run c t q = c.updTile t (fun x => x.enqueue q 15 c.nowAc) := rfl

section
variable {i : Issue} {ops : Nat → Bool} {c : Chip} {t : Nat} {q : QCmd}

/-- A command that passes its checks and is held stays at the head. -/
theorem issueRow_of_held (head : c.readyHead t = some q) (unpoisoned : q.poisoned = false) (defined_ : opDefined q.op = true)
    (opcode : ops q.op = true) (passes : (i.checks c t q).first (c.tile t) q = none) (held : i.hold c t q ≠ Hold.none) :
    issueRow i ops t c = c := by
  unfold issueRow
  rw [head]
  dsimp only
  rw [if_neg (ne_true_of_eq_false unpoisoned), if_neg (by simp [defined_]), if_neg (by simp [opcode]), passes]
  exact if_pos held

theorem waitIssue_holds_of_unmet (h : waitMet (c.tile t) c.nowAc q = false) : waitIssue.hold c t q ≠ Hold.none := by
  simp [waitIssue, h]

end

/-! ### What a SIGNAL sends (R59) -/

section
variable {c : Chip} {t : Nat} {q : QCmd}

/-- The object of a tile of this module that a SIGNAL updates, and how. -/
def Chip.signalHere (c : Chip) (t : Nat) (q : QCmd) (u : SyncUpd) : Chip :=
  (c.traceIssue t q).syncLocal t q.id q.opB (fld (q.w 2) 43 32) (fld (q.w 2) 5 0) u (BitVec.ofNat 3 (fld (q.w 2) 29 27))

theorem signalRun_of_here (hr : fld (q.w 2) 63 61 = 0) : signalRun c t q =
    c.signalHere t q (if fld (q.w 2) 31 30 = 0 then .add (BitVec.ofNat 32 (fld (q.w 3) 31 0)) else .set (BitVec.ofNat 32 (fld (q.w 3) 31 0))) :=
  if_pos (.inl hr)

theorem signalRun_of_slot (hr : fld (q.w 2) 63 61 = 1) (hs : fld (q.w 2) 51 48 ≠ (c.traceIssue t q).tray.self.toNat) : signalRun c t q =
    ((c.traceIssue t q).send (.trayWrite (BitVec.ofNat 4 (fld (q.w 2) 51 48))
      ((c.traceIssue t q).trayPcie (fld (q.w 2) 51 48) (portAddr (fld (q.w 2) 43 32) (fld (q.w 2) 5 0)))
      (portWord (fld (q.w 2) 31 30) (fld (q.w 2) 29 27) 0 (fld (q.w 3) 31 0)) false)).ledgerTray (fld (q.w 2) 51 48) t q.idx :=
  (if_neg (by simp [hr, hs])).trans (if_pos hr)

theorem signalRun_of_strait (hr : 4 ≤ fld (q.w 2) 63 61) : signalRun c t q =
    (c.traceIssue t q).sendSignal (routeStrait (fld (q.w 2) 63 61)) (fld (q.w 2) 31 30) q.id.toNat (fld (q.w 2) 43 32)
      (fld (q.w 2) 29 27) (fld (q.w 2) 5 0) (fld (q.w 3) 31 0) (.signal t q.idx) :=
  (if_neg (by omega)).trans (if_neg (by omega))

end

/-- A command that joins all four arrays joins the end of each queue (R139). -/
theorem enqueue_all (x : Tile) (q : QCmd) (ac : Nat) : x.enqueue q 15 ac = { x with
    a0 := { x.a0 with queue := x.a0.queue ++ [newMCmd q 15 x.issueMode ac] }, a1 := { x.a1 with queue := x.a1.queue ++ [newMCmd q 15 x.issueMode ac] },
    a2 := { x.a2 with queue := x.a2.queue ++ [newMCmd q 15 x.issueMode ac] }, a3 := { x.a3 with queue := x.a3.queue ++ [newMCmd q 15 x.issueMode ac] } } := by
  have four : maskArrays 15 = [0, 1, 2, 3] := by decide
  rw [Tile.enqueue, four]
  rfl

end Sys2Proof.Machine

namespace Sys2Proof
open Sys2Proof.Machine

/-- Settles O10: each row on a hop, or on the transaction that has arrived, is its one case. `exchange2` gives the differences of R48 before
they are halved: the halves, which round up (log 7, DEDUCED), are taken where the sums and the last offset are kept. -/
theorem timeExchangeMeasuresAHop : Obligations.TimeExchangeMeasuresAHop := by
  unfold Obligations.TimeExchangeMeasuresAHop
  refine ⟨?_, ?_, ?_, ?_, ?_⟩
  · rintro s _ st _ hl rfl rfl hh hd
    rw [exec_timeExchangeTimer hl, timeExchangeTimer_of_due hh hd]
    rfl
  · rintro s _ st frac r hl rfl h
    rw [exec_timeRequest hl, timeRequest, onRx_arrived h]
  · rintro s _ st frac r e hl rfl h hw hs he
    rw [exec_timeReply hl, timeReply_of_awaited h frac hw hs he]
  · rintro s st frac r hl h hs
    rw [exec_timeReply hl, timeReply_of_otherSeq h frac hs]
  · intro t1 t2 t3 t4 h1 h2 h3 h4
    rw [exchange2, signed_sub_of_near h1 h2, signed_sub_of_near h3 h4]

/-- Settles O11: WAIT, FENCE and SIGNAL that issue run their rows, an unmet WAIT is held, and a SIGNAL has one case for each place it reaches. -/
theorem waitFenceAndSignalIssue : Obligations.WaitFenceAndSignalIssue := by
  unfold Obligations.WaitFenceAndSignalIssue
  rintro s _ _ t q hl rfl rfl
  refine ⟨fun h => ?_, fun head unpoisoned opcode passes unmet => ?_, fun h => ?_, fun h hr ho => ?_, fun h hr ho => ?_, fun h hr hs => ?_,
    fun h hr => ?_⟩
  · rw [exec_wait hl, issueRow_run h, waitIssue_run]
  · rw [exec_wait hl, issueRow_of_held head unpoisoned (by rw [opcode]; decide) (by rw [opcode]; rfl) passes (waitIssue_holds_of_unmet unmet),
      after_chip]
  · rw [exec_fence hl, issueRow_run h, fenceIssue_run]
  · rw [exec_signal hl, issueRow_run h, signalIssue_run, signalRun_of_here hr, if_pos ho, Chip.signalHere]
  · rw [exec_signal hl, issueRow_run h, signalIssue_run, signalRun_of_here hr, if_neg (by omega), Chip.signalHere]
  · rw [exec_signal hl, issueRow_run h, signalIssue_run, signalRun_of_slot hr hs]
  · rw [exec_signal hl, issueRow_run h, signalIssue_run, signalRun_of_strait hr]

/-- Settles O13: a matrix command that issues runs its row. The mode it joins in is that of the last GANG issued (log 14, DEDUCED). -/
theorem matrixCommandsEnterTheArrayQueues : Obligations.MatrixCommandsEnterTheArrayQueues := by
  unfold Obligations.MatrixCommandsEnterTheArrayQueues
  rintro s _ _ t q hl rfl rfl
  refine ⟨fun h => ?_, fun h => ?_, fun h => ?_, fun h => ?_, fun x ac => enqueue_all x q ac⟩
  · rw [exec_matmul hl, issueRow_run h, matmulIssue_run]
  · rw [exec_loadw hl, issueRow_run h, loadwIssue_run]
  · rw [exec_swapw hl, issueRow_run h, swapwIssue_run]
  · rw [exec_gang hl, issueRow_run h, gangIssue_run]

end Sys2Proof
end

section
/-! PROOFS of the statements that earlier sittings left, transfers: RESERVATION_CHECK_DONE, CHANNEL_SERVICE_SLOT, TRAY_READ_COMPLETION and
TRANSFER_COMPLETE, and the statement. -/
namespace Sys2Proof.Machine

section
variable {s : State} {t : TileId} {k : StreamId} (hl : s.live = true)
include hl

theorem exec_reservationCheckDone :
    exec (.reservationCheckDone t k) s = .next (after s (reservationCheckDone t.toNat k.toNat s.chip)) := onChip_live hl _
theorem exec_channelServiceSlot (ch : ChanId) :
    exec (.channelServiceSlot ch) s = .next (after s (channelServiceSlot ch.toNat s.chip)) := onChip_live hl _
theorem exec_trayReadCompletion (data : List Byte) (ep : Bool) :
    exec (.trayReadCompletion t k data ep) s = .next (after s (trayReadCompletion t.toNat k.toNat data ep s.chip)) := onChip_live hl _
theorem exec_transferComplete :
    exec (.transferComplete t k) s = .next (after s (transferComplete t.toNat k.toNat s.chip)) := onChip_live hl _

end

/-! ### The comparison of a receive space (R238, R239) -/

section
variable {c : Chip} {t k : Nat} {x : Xfer} {sp : Nat × Nat} (hx : ((c.tile t).stream k).active = some x)
  (hs : ((c.tile t).stream k).space = some sp) (checking : ((c.tile t).stream k).checking = true) (running : (c.tile t).st = .running)
include hx hs checking running

theorem reservationCheckDone_of_checking : reservationCheckDone t k c = Chip.when (decide (x.readyAc ≤ c.nowAc)) (fun c =>
    if c.spaceClash t k sp.1 sp.2 ((c.tile t).stream k).accum x.readyAc then c.tileViolation t 0x0D x.cmd.id x.cmd.opB sp.1
    else c.updTile t (fun y => y.setStream k { (c.tile t).stream k with checking := false })) c := by
  unfold reservationCheckDone
  simp only [hx, hs]
  by_cases due : x.readyAc ≤ c.nowAc <;> simp [hx, hs, due, checking, running]

theorem reservationCheckDone_of_early (early : c.nowAc < x.readyAc) : reservationCheckDone t k c = c :=
  (reservationCheckDone_of_checking hx hs checking running).trans (when_of_false (by simpa using early) _ c)

theorem reservationCheckDone_of_due (due : x.readyAc ≤ c.nowAc) : reservationCheckDone t k c =
    if c.spaceClash t k sp.1 sp.2 ((c.tile t).stream k).accum x.readyAc then c.tileViolation t 0x0D x.cmd.id x.cmd.opB sp.1
    else c.updTile t (fun y => y.setStream k { (c.tile t).stream k with checking := false }) :=
  (reservationCheckDone_of_checking hx hs checking running).trans (when_of (by simpa using due) _ c)

end

/-! ### A service slot of a channel (R72, R253 to R258) -/

/-- The channel after a burst of r's was granted: the slot is busy for 3 ac, unless a read-merge line serves the burst, and n scheduled
grants stand before the next unscheduled one. -/
def Chip.grantBurst (c : Chip) (ch : Nat) (r : ChReq) (n : Nat) : Chip :=
  c.updChan ch (fun x => { x with
    slots := BitVec.ofNat 4 n,
    slotAc := if (c.chanBursts ch).any (fun b => b.req == r && b.read && c.noBurst b.gran) then x.slotAc else c.tide.acs.toNat + 3 })

section
variable {c : Chip} {ch : Nat}

theorem channelServiceSlot_of_closed (h : c.shut ch = true ∨ c.tide.acs.toNat < (c.chan ch).slotAc) : channelServiceSlot ch c = c :=
  if_pos (by simpa using h)

variable (opened : c.shut ch = false) (free : (c.chan ch).slotAc ≤ c.tide.acs.toNat)
include opened free

theorem channelServiceSlot_of_open : channelServiceSlot ch c =
    if 0 < (c.chan ch).owed then c.updChan ch (fun x => { x with owed := x.owed - 1, slotAc := c.tide.acs.toNat + 3 })
    else match arbitrate (c.chanReqs ch) (c.chan ch).slots.toNat with
      | (none, _) => c
      | (some r, n) => (c.grantBurst ch r n).serveReq ch r.who := by
  unfold channelServiceSlot
  simp only [opened, Nat.not_lt.2 free, decide_false, Bool.or_false, Bool.false_eq_true, if_false]
  rcases arbitrate (c.chanReqs ch) (c.chan ch).slots.toNat with ⟨_ | r, n⟩ <;> rfl

variable (settled : (c.chan ch).owed = 0)
include settled

theorem channelServiceSlot_of_idle {n : Nat} (h : arbitrate (c.chanReqs ch) (c.chan ch).slots.toNat = (none, n)) : channelServiceSlot ch c = c := by
  rw [channelServiceSlot_of_open opened free, if_neg (by omega), h]

theorem channelServiceSlot_of_request {r : ChReq} {n : Nat} (h : arbitrate (c.chanReqs ch) (c.chan ch).slots.toNat = (some r, n)) :
    channelServiceSlot ch c = (c.grantBurst ch r n).serveReq ch r.who := by
  rw [channelServiceSlot_of_open opened free, if_neg (by omega), h]

end

/-- A burst of a transfer: one more of its unit, or the unit's last, with which it moves. -/
theorem serveReq_xfer {d : Chip} {ch t k : Nat} {x : Xfer} (h : ((d.tile t).stream k).active = some x) : d.serveReq ch (.xfer t k) =
    if x.got + 1 < (d.unitBursts t x x.moved).length then d.updXfer t k x.cmd.idx (fun y => { y with got := y.got + 1 }) else d.moveUnit t k x := by
  simp only [Chip.serveReq, h]

/-! ### The completion of a tray read (R345) -/

section
variable {c : Chip} {t k : Nat} {x : Xfer} (hx : ((c.tile t).stream k).active = some x)
include hx

/-- The data of a unit that was asked for waits in hand for a channel, or lands at once. -/
theorem trayReadCompletion_of_unit {data : List Byte} {ep : Bool} (ht : c.srcAt t x.cmd = .tray) (ha : x.moved < x.asked) (hb : x.buf = none)
    (hu : data.length = (c.unitOf t x x.moved).2.2) : trayReadCompletion t k data ep c =
      if c.dstChan t x.cmd then c.updXfer t k x.cmd.idx (fun y => { y with buf := some [(data, ep)] })
      else c.putUnit t k x x.moved (c.unitOf t x x.moved).2.1 (c.unitOf t x x.moved).2.2 (c.nowAc + hubAc t) [(data, ep)] := by
  unfold trayReadCompletion
  rw [hx]
  dsimp only
  rw [if_pos (by simp [ht, ha, hb]), if_neg (not_not_intro hu)]

theorem trayReadCompletion_of_confirmation (data : List Byte) (ep : Bool) (ht : c.srcAt t x.cmd ≠ .tray) (hs : x.sentAll = true)
    (hr : x.cmd.route = 0) (running : (c.tile t).st = .running) :
    trayReadCompletion t k data ep c = transferComplete t k (c.updXfer t k x.cmd.idx (fun y => { y with acked := true })) := by
  unfold trayReadCompletion
  rw [hx]
  dsimp only
  rw [if_neg (by simp [ht]), if_pos (by simp [hs, hr, running])]

end

/-! ### The end of a transfer (R243) -/

theorem dstSync_none (c : Chip) (t : Nat) (id : W16) (op : Byte) (tgt bytes pkts : Nat) : c.dstSync t id op tgt 63 bytes pkts = c := if_pos rfl
theorem doneSync_none (c : Chip) (t : Nat) (id : W16) (op : Byte) (bytes pkts : Nat) : c.doneSync t id op 63 bytes pkts = c := if_pos rfl

/-- The scoreboard entries and berth reads of a transfer's commands end. -/
def Chip.endParts (c : Chip) (t : Nat) (x : Xfer) : Chip :=
  x.parts.foldl (fun c p => (c.updTile t (fun y => y.sbFree p.idx)).endRead (readKey t p.idx)) c

/-- A transfer that has moved every unit ends, and its stream goes on to the next. -/
def Chip.finishXfer (c : Chip) (t k : Nat) (x : Xfer) : Chip :=
  (c.endParts t x).updTile t (fun y => y.setStream k ((y.stream k).next x (c.endParts t x).nowAc))

theorem transferComplete_of_moved {c : Chip} {t k : Nat} {x : Xfer} (hx : ((c.tile t).stream k).active = some x)
    (settled : ((c.tile t).stream k).checking = false) (running : (c.tile t).st = .running) (here : c.leaves t x.cmd = false)
    (moved : c.xferDone t x = true) (noDeadline : x.deadline = none) (noCount : x.cmd.dstSyncNo = 63) (noDone : x.cmd.doneSyncNo = 63)
    {e : Chip} (he : (c.traceTile 3 t 0x02 k false (x.cmd.w 0) (x.cmd.w 1) (BitVec.ofNat 64 x.length) 0).finishXfer t k x = e)
    (last : ((e.tile t).stream k).active = none) : transferComplete t k c = e := by
  subst he
  have going : ((c.tile t).st != .running) = false := by simp [running]
  unfold transferComplete
  simp only [hx, settled, going, moved, here, noDeadline, noCount, noDone, dstSync_none, doneSync_none, Bool.false_eq_true, Bool.not_true,
    Bool.or_self, if_false]
  unfold Chip.finishXfer Chip.endParts at last ⊢
  split
  · next w hw => cases hw.symm.trans last
  · rfl

end Sys2Proof.Machine

namespace Sys2Proof
open Sys2Proof.Machine

/-- Settles O19: each clause is one case of the comparison, of a channel's slot, of a tray read's data, or of a transfer's end. That a granted
burst takes 3 ac and that check bursts owed go first (log 111), and that a unit moves whole with its last burst (log 58), are the model's
choices. -/
theorem transfersAreCheckedServedAndCompleted : Obligations.TransfersAreCheckedServedAndCompleted := by
  unfold Obligations.TransfersAreCheckedServedAndCompleted
  refine ⟨?_, ?_, ?_, ?_⟩
  · rintro s _ t k _ x sp hl rfl rfl hx hs checking running
    rw [exec_reservationCheckDone hl]
    refine ⟨fun early => ?_, fun due clash => ?_, fun due clear => ?_⟩
    · rw [reservationCheckDone_of_early hx hs checking running early, after_chip]
    · rw [reservationCheckDone_of_due hx hs checking running due, if_pos clash]
    · rw [reservationCheckDone_of_due hx hs checking running due, if_neg (ne_true_of_eq_false clear)]
  · rintro s _ ch hl rfl
    rw [exec_channelServiceSlot hl]
    refine ⟨fun closed => by rw [channelServiceSlot_of_closed closed, after_chip], fun opened free => ⟨fun owes => ?_, fun settled n idle => ?_, ?_⟩⟩
    · rw [channelServiceSlot_of_open opened free, if_pos owes]
    · rw [channelServiceSlot_of_idle opened free settled idle, after_chip]
    · rintro settled r n _ _ picks rfl rfl
      rw [channelServiceSlot_of_request opened free settled picks]
      refine ⟨fun t fetch => by rw [fetch]; rfl, fun t k x xfer hx => ?_, fun step => by rw [step]; rfl⟩
      rw [xfer]
      have serves := serveReq_xfer (d := s.chip.grantBurst ch.toNat r n) (ch := ch.toNat) hx
      exact ⟨fun more => by rw [serves.trans (if_pos more)]; rfl, fun last => by rw [serves.trans (if_neg (Nat.not_lt.2 last))]; rfl⟩
  · rintro s _ t k x data ep hl rfl hx
    rw [exec_trayReadCompletion hl]
    refine ⟨?_, fun ht hs hr running => by rw [trayReadCompletion_of_confirmation hx data ep ht hs hr running]⟩
    rintro _ ht ha hb rfl hu
    rw [trayReadCompletion_of_unit hx ht ha hb hu]
    exact ⟨fun near => by rw [if_neg (ne_true_of_eq_false near)], fun chan => by rw [if_pos chan]⟩
  · rintro s _ _ _ t k x hl rfl hx settled running here moved noDeadline noCount noDone rfl he last
    rw [exec_transferComplete hl, transferComplete_of_moved hx settled running here moved noDeadline noCount noDone he last]

end Sys2Proof
end

section
/-! PROOFS of the statements that earlier sittings left, ferries: FERRY_PUSH, FERRY_INJECT and FERRY_SOURCE_READ_DONE, and the statement. -/
namespace Sys2Proof.Machine

section
variable {s : State} (hl : s.live = true)
include hl

theorem exec_ferryPush {t : TileId} : exec (.ferryPush t) s = .next (after s (issueRow pushIssue (· == 0x43) t.toNat s.chip)) := onChip_live hl _
theorem exec_ferryInject {st : Strait} : exec (.ferryInject st) s = .next (after s (ferryInject st s.chip)) := onChip_live hl _
theorem exec_ferrySourceReadDone {st : Strait} :
    exec (.ferrySourceReadDone st) s = .next (after s (ferrySourceReadDone st s.chip)) := onChip_live hl _

end

/-! ### FERRY_PUSH (R91, R102) -/

theorem pushIssue_run : pushIssue.run = pushRun := rfl

section
variable {c : Chip} {t : Nat} {q : QCmd}

/-- The push of a FERRY_PUSH as it joins its strait's queue. -/
def Chip.newPush (c : Chip) (t : Nat) (q : QCmd) : Push :=
  { num := c.nextPush, tile := t, cmd := q, got := 0, have_ := false, read := false, started := false, sent := false, data := [], poison := [] }

/-- The queue of its strait with that push at its place. -/
def Chip.joinPushes (c : Chip) (t : Nat) (q : QCmd) : Chip :=
  ({ c with nextPush := c.nextPush + 1 } : Chip).setPushQ q.pushOn (pushInsert (c.newPush t q) (c.pushQ q.pushOn))

theorem pushRun_of_tileSource (h : q.srcSpace ≠ 2) : pushRun c t q = c.joinPushes t q := if_neg h

theorem pushRun_of_berthSource (h : q.srcSpace = 2) : pushRun c t q =
    (c.joinPushes t q).updBerth q.srcBerth (fun b => { b with reads := setAdd b.reads (pushKey c.nextPush) }) := if_pos h

end

/-! ### FERRY_INJECT (R96, R98) -/

section
variable {c : Chip} {st : Strait} {p : Push}

/-- Everything that R96 and R98 ask of the first push before it starts, its mark among it. -/
def Chip.injects (c : Chip) (st : Strait) (p : Push) : Bool :=
  c.run.isSome && decide (c.mark p.cmd.inject ≤ c.now) && !c.cutHolds (c.mark p.cmd.inject) && c.timed && c.gateOpen p && c.pushReady p &&
    (c.str st).mayStart && (c.str st).egrF.isEmpty && decide (flitsOf (32 + p.cmd.lenG * 32) ≤ (c.str st).credit.f)

/-- Its source is read, it counts as started, and its transaction joins VC-F. -/
def Chip.startPush (c : Chip) (st : Strait) (p : Push) : Chip :=
  let g := (c.readPush st p).1.updPush st p.num (fun y => { y with started := true })
  g.sendVc st 0 ⟨⟨g.ferryBytes st (c.readPush st p).2, (c.readPush st p).2.poison⟩, g.pushDdl p, .push p.num, 0, g.nowAc⟩

variable (first : (c.pushQ st).find? (fun p => !p.started) = some p)
include first

theorem ferryInject_of_first : ferryInject st c = if c.injects st p then
      if c.mark p.cmd.inject < (c.startPush st p).now then
        (c.startPush st p).lateLaunch p.tile p.cmd.id ((c.startPush st p).now - c.mark p.cmd.inject)
      else c.startPush st p
    else c := by
  unfold ferryInject Chip.when
  rw [first]
  rfl

theorem ferryInject_of_early (early : c.now < c.mark p.cmd.inject) : ferryInject st c = c :=
  (ferryInject_of_first first).trans (if_neg (by simp [Chip.injects, early]))

theorem ferryInject_of_injects (starts : c.injects st p = true) : ferryInject st c =
    if c.mark p.cmd.inject < (c.startPush st p).now then
      (c.startPush st p).lateLaunch p.tile p.cmd.id ((c.startPush st p).now - c.mark p.cmd.inject)
    else c.startPush st p := (ferryInject_of_first first).trans (if_pos starts)

end

/-! ### FERRY_SOURCE_READ_DONE (R98, R251) -/

section
variable {c : Chip} {st : Strait} {p : Push} (reading : (c.pushQ st).find? (fun p => !p.read && c.pushReady p) = some p)
include reading

theorem ferrySourceReadDone_of_waiting (h : c.pushWaits p = true) : ferrySourceReadDone st c = c := by
  unfold ferrySourceReadDone Chip.pushReading
  rw [reading]
  exact if_pos (by simp [h])

/-- A push without TEE, berth source and DONE_SYNC whose bursts have all been granted is read, and that is all. -/
theorem ferrySourceReadDone_of_plain (active : c.run.isSome = true) (granted : (c.pushBursts p).length ≤ p.got) (tee : p.cmd.tee = false)
    (source : p.cmd.srcSpace ≠ 2) (done : p.cmd.doneSyncNo = 63) : ferrySourceReadDone st c =
      ((c.readPush st p).1.updPush st p.num (fun y => { y with read := true })).dropPushes st := by
  have noTee (d : Chip) : d.teeAt p = none := by simp [Chip.teeAt, tee]
  have ready : c.pushWaits p = false := by simp [Chip.pushWaits, noTee, granted]
  have noDone (d : Chip) : d.pushDone p = d := if_pos (by simp [done])
  unfold ferrySourceReadDone Chip.pushReading
  rw [reading]
  dsimp only
  rw [if_neg (by simp [ready, Option.isSome_iff_ne_none.1 active]), noTee, if_neg source, noDone]

end

end Sys2Proof.Machine

namespace Sys2Proof
open Sys2Proof.Machine

/-- Settles O20: each clause is one case of the push's issue, of the first push not started, or of the one whose source is being read. That the
source is read in the step in which the ferry starts, one push of a strait at a time, is the model's reading (log 110, DEDUCED). -/
theorem ferriesQueueInjectAndReadTheirSource : Obligations.FerriesQueueInjectAndReadTheirSource := by
  unfold Obligations.FerriesQueueInjectAndReadTheirSource
  refine ⟨?_, ?_, ?_⟩
  · rintro s _ _ t q hl rfl rfl h _ _ rfl rfl
    rw [exec_ferryPush hl, issueRow_run h, pushIssue_run]
    exact ⟨fun tile => by rw [pushRun_of_tileSource tile]; rfl, fun berth => by rw [pushRun_of_berthSource berth]; rfl⟩
  · rintro s _ e st p p' _ hl rfl first rfl
    rw [exec_ferryInject hl]
    refine ⟨fun early => by rw [ferryInject_of_early first early, after_chip], ?_⟩
    rintro active due uncut timed gate ready start empty credit r _ hr rfl he
    have starts : s.chip.injects st p = true := by simp [Chip.injects, active, due, uncut, timed, gate, ready, start, empty, credit]
    have started : s.chip.startPush st p = e := by rw [Chip.startPush, hr]; exact he
    rw [ferryInject_of_injects first starts, started]
    exact ⟨fun punctual => by rw [if_neg (by omega)], fun late => by rw [if_pos late]⟩
  · rintro s _ d st p p' hl rfl reading active
    rw [exec_ferrySourceReadDone hl]
    refine ⟨fun waits => ?_, fun granted tee source done hr => ?_⟩
    · rw [ferrySourceReadDone_of_waiting reading (by simp [Chip.pushWaits, waits]), after_chip]
    · rw [ferrySourceReadDone_of_plain reading active granted tee source done, hr]

end Sys2Proof
end

section
/-! PROOFS of the statements that earlier sittings left, refresh and maintenance: REFRESH_WINDOW, PER_BANK_REFRESH, ADDED_REFRESH,
REFRESH_RATE_POLL, MAINTENANCE_PART, MAINT_PERIOD and RECHECK_CHUNK_DONE, and the two statements. -/
namespace Sys2Proof.Machine

section
variable {s : State} {ch : ChanId} (hl : s.live = true)
include hl

theorem exec_refreshWindow : exec .refreshWindow s = .next (after s (refreshWindow s.chip)) := onChip_live hl _
theorem exec_perBankRefresh : exec (.perBankRefresh ch) s =
    .next (after s (perBankRefresh (fun k c => (c.chanReqs k).any (fun r => r.ddl.isSome)) ch.toNat s.chip)) := onChip_live hl _
theorem exec_addedRefresh : exec (.addedRefresh ch) s = .next (after s (addedRefresh ch.toNat s.chip)) := onChip_live hl _
theorem exec_refreshRatePoll (code : BitVec 5) (d : RefreshDemand) :
    exec (.refreshRatePoll ch code d) s = .next (after s (refreshRatePoll ch.toNat code d s.chip)) := onChip_live hl _
theorem exec_maintenancePart : exec (.maintenancePart ch) s = .next (after s (maintenancePart ch.toNat s.chip)) := onChip_live hl _
theorem exec_maintPeriod : exec (.maintPeriod ch) s = .next (after s (maintPeriod ch.toNat s.chip)) := onChip_live hl _
theorem exec_recheckChunkDone : exec .recheckChunkDone s = .next (after s (recheckChunkDone s.chip)) := onChip_live hl _

end

/-! ### Windows and refresh by bank (R69, R74, R277) -/

section
variable {c : Chip}

/-- Every channel's window opens, and nothing is owed to it any more. -/
def Chip.openWindows (c : Chip) : Chip := (List.range 64).foldl (fun c n => c.updChan n (fun x =>
  { x with inWindow := true, windowAt := c.now, maintDone := false, postponed := 0, rfm := none })) c

theorem refreshWindow_of_gridCount (grid : c.onGrid = true) (h : c.gridNow % (c.gridP : Int) = 0) : refreshWindow c = c.openWindows :=
  when_of (by simp [grid, h]) _ c

theorem refreshWindow_of_otherCount (h : c.gridNow % (c.gridP : Int) ≠ 0) : refreshWindow c = c := when_of_false (by simp [h]) _ c

variable {ch : Nat}

theorem perBankRefresh_of_due (load : Nat → Chip → Bool) (free : c.onGrid = false) (runs : (c.chan ch).st = 2) :
    perBankRefresh load ch c = c.updChan ch (fun x =>
      if load ch c then { x with postponed := min 8 (x.postponed + 1) } else { x with postponed := 0, rfm := none }) :=
  when_of (by simp [free, runs]) _ c

/-- A channel's packages ask for more refresh than the grid gives, or for management before the next window. -/
def Chip.wantsRefresh (c : Chip) (ch : Nat) : Bool :=
  ((c.chan ch).derate && !c.tide.grid) || (c.chan ch).hotAt.isSome || (c.chan ch).rfm == some true

theorem addedRefresh_of_wanted (grid : c.onGrid = true) (closed : c.shut ch = false) (wants : c.wantsRefresh ch = true) {d : Chip}
    (hd : c.updChan ch (fun y => { y with rfm := if y.rfm = some true then none else y.rfm }) = d) : addedRefresh ch c =
      ({ d with tide := { d.tide with urefCnt := d.tide.urefCnt + 1, refUnaligned := true } } : Chip).evMod 0x0105 (d.tide.urefCnt + 1)
        (BitVec.ofNat 64 ch) := by
  subst hd
  have added : (c.onGrid && !c.shut ch && c.wantsRefresh ch) = true := by simp [grid, closed, wants]
  unfold addedRefresh
  exact when_of added _ c

theorem addedRefresh_of_unwanted (h : c.wantsRefresh ch = false) : addedRefresh ch c = c := by
  have none_ : (c.onGrid && !c.shut ch && c.wantsRefresh ch) = false := by simp [h]
  unfold addedRefresh
  exact when_of_false none_ _ c

end

/-! ### The poll of a refresh-rate register (R265, R278) -/

section
variable {c : Chip} {ch : Nat} (code : BitVec 5)

/-- The channel with the code that a poll has read. -/
def Chip.polled (c : Chip) (ch : Nat) (code : BitVec 5) : Chip := c.updChan ch (fun y => { y with refRate := code, polledAt := some c.up })

/-- What a package asks for takes effect: x is its channel before the poll. -/
def Chip.takeDemand (c : Chip) (ch : Nat) (code : BitVec 5) (x : Chan) : RefreshDemand → Chip
  | .normal => c.updChan ch (fun y => { y with derate := false, hotAt := none })
  | .twice =>
    if x.derate then c.updChan ch (fun y => { y with derate := true, hotAt := none })
    else (c.updChan ch (fun y => { y with derate := true, hotAt := none })).evChan ch 0x0403 (BitVec.ofNat 64 code.toNat) 0
  | .rfm soon => c.updChan ch (fun y => { y with rfm := some soon })
  | .above =>
    let e := (c.updChan ch (fun y => { y with hotAt := some (x.hotAt.getD c.up) })).evChan ch 0x0404 (BitVec.ofNat 64 code.toNat) 0
    ({ e with pwr := { e.pwr with memHot := true } } : Chip).thermal 2 (ch / 4) e.pwr.tMem

theorem refreshRatePoll_of_due (runs : (c.chan ch).st = 2) (due : ∀ t, (c.chan ch).polledAt = some t → t + 117500 ≤ c.up) (d : RefreshDemand) :
    refreshRatePoll ch code d c = (c.polled ch code).takeDemand ch code (c.chan ch) d := by
  have late : (match (c.chan ch).polledAt with | some t => decide (c.up < t + msTk 1) | none => false) = false := by
    split
    · next t ht => exact decide_eq_false (Nat.not_lt.2 (due t ht))
    · rfl
  refine (if_neg (not_or.2 ⟨not_not_intro runs, ne_true_of_eq_false late⟩)).trans ?_
  cases d <;> rfl

theorem refreshRatePoll_of_early {t : Nat} (last : (c.chan ch).polledAt = some t) (early : c.up < t + 117500) (d : RefreshDemand) :
    refreshRatePoll ch code d c = c := by
  unfold refreshRatePoll
  simp only [last]
  exact if_pos (.inr (decide_eq_true early))

end

/-! ### Maintenance (R71, R279, R280) -/

section
variable {c : Chip} {ch : Nat}

/-- Whether the window that is open is one of retraining (R71). -/
def Chip.retrains (c : Chip) (ch : Nat) : Bool :=
  decide ((((c.chan ch).windowAt - c.tide.position.toNat * c.tide.stagger.toNat) / c.gridP) % 32 = Config.retrainWindow % 32)

theorem maintenancePart_of_part (opened : (c.chan ch).inWindow = true) (undone : (c.chan ch).maintDone = false)
    (from_ : (c.chan ch).windowAt + 384 ≤ c.now) (until_ : c.now < (c.chan ch).windowAt + 448) :
    maintenancePart ch c = (c.maintain ch (c.retrains ch)).updChan ch (fun y => { y with maintDone := true }) := by
  unfold maintenancePart
  dsimp only
  rw [when_of (by simp [opened, undone, from_, until_]), Chip.retrains]

theorem maintenancePart_of_outside (h : (c.chan ch).inWindow = false ∨ (c.chan ch).maintDone = true ∨ c.now < (c.chan ch).windowAt + 384 ∨
    (c.chan ch).windowAt + 448 ≤ c.now) : maintenancePart ch c = c := by
  unfold maintenancePart
  refine when_of_false ?_ _ c
  rcases h with h | h | h | h <;> simp [h]

theorem maintPeriod_of_due (free : c.onGrid = false) (runs : (c.chan ch).st = 2) (undone : (c.chan ch).maintAt ≠ c.now / 3664 + 1) :
    maintPeriod ch c = (c.maintain ch false).updChan ch (fun y => { y with maintAt := c.now / 3664 + 1, due := y.due + 165 }) :=
  when_of (by simp [free, runs, undone]) _ c

theorem maintPeriod_of_done (h : c.onGrid = true ∨ (c.chan ch).maintAt = c.now / 3664 + 1) : maintPeriod ch c = c := by
  refine when_of_false ?_ _ c
  rcases h with h | h <;> simp [h]

theorem maintain_retraining : c.maintain ch true =
    (c.writeBacks ch (min 8 (c.chan ch).wbOrder.length)).updChan ch (fun x => { x with owed := (c.chan ch).owed }) := rfl

theorem maintain_whole : c.maintain ch false =
    (((c.writeBacks ch (min 8 (c.chan ch).wbOrder.length)).scrub ch (128 - min 8 (c.chan ch).wbOrder.length)).recheck ch 32).updChan ch
      (fun x => { x with owed := (c.chan ch).owed }) := rfl

end

/-! ### The re-check of a weight set's chunk (R281, R282) -/

section
variable {c : Chip} {w : WSet} (hw : c.wsets.find? (fun w => w.num == c.recheckSet && w.checked) = some w)

/-- Every channel has read its block of the chunk. -/
def Chip.chunkRead (c : Chip) (w : WSet) : Bool :=
  (List.range 64).all (fun ch => decide ((w.block c.recheckChunk.toNat ch).2 ≤ (c.chan ch).reOff))

theorem chunkRead_iff : c.chunkRead w = true ↔ ∀ ch < 64, (w.block c.recheckChunk.toNat ch).2 ≤ (c.chan ch).reOff := by
  simp [Chip.chunkRead]

/-- The chunk's digest agrees, and nothing of it was poisoned. -/
def Chip.chunkClean (c : Chip) (w : WSet) : Bool :=
  !c.recheckPoison && w.chunks.getD c.recheckChunk.toNat [] ==
    sha512 (c.bytes (w.base + c.recheckChunk.toNat * 0x40_0000) (w.chunkLen c.recheckChunk.toNat))

/-- The set counts as damaged, and the Keeper is told. -/
def Chip.damageSet (c : Chip) (w : WSet) : Chip :=
  (({ c with damagedCnt := c.damagedCnt + 1 } : Chip).setWset { w with verified := false, damaged := true }).evMod 0x0405
    (mkWord [(48, 16, w.num.toNat), (0, 32, c.recheckChunk.toNat)]) (BitVec.ofNat 64 (w.clean.getD c.recheckChunk.toNat 0))

include hw

theorem recheckChunkDone_of_unread (h : c.chunkRead w = false) : recheckChunkDone c = c := by
  unfold recheckChunkDone
  rw [hw]
  have unread : (!c.chunkRead w) = true := by simp [h]
  exact if_pos unread

variable (read : c.chunkRead w = true)
include read

theorem recheckChunkDone_of_read : recheckChunkDone c =
    if c.chunkClean w then (c.setWset { w with clean := w.clean.set c.recheckChunk.toNat c.now }).nextChunk
      { w with clean := w.clean.set c.recheckChunk.toNat c.now }
    else (if (match (c.damageSet w).run with | some r => r.set == some w.num | none => false) then (c.damageSet w).detect 0x0A false
      else c.damageSet w).nextChunk { w with verified := false, damaged := true } := by
  unfold recheckChunkDone
  rw [hw]
  have done : ¬(!c.chunkRead w) = true := by simp [read]
  exact if_neg done

theorem recheckChunkDone_of_clean (clean : c.chunkClean w = true) : recheckChunkDone c =
    (c.setWset { w with clean := w.clean.set c.recheckChunk.toNat c.now }).nextChunk { w with clean := w.clean.set c.recheckChunk.toNat c.now } :=
  (recheckChunkDone_of_read hw read).trans (if_pos clean)

variable (dirty : c.chunkClean w = false)
include dirty

theorem recheckChunkDone_of_unbound (h : ((c.damageSet w).run.map (fun r => r.set)).getD none ≠ some w.num) :
    recheckChunkDone c = (c.damageSet w).nextChunk { w with verified := false, damaged := true } := by
  rw [recheckChunkDone_of_read hw read, if_neg (ne_true_of_eq_false dirty), if_neg]
  split
  · next r hr => rw [hr] at h; simpa using h
  · simp

theorem recheckChunkDone_of_bound (h : ((c.damageSet w).run.map (fun r => r.set)).getD none = some w.num) :
    recheckChunkDone c = ((c.damageSet w).detect 0x0A false).nextChunk { w with verified := false, damaged := true } := by
  rw [recheckChunkDone_of_read hw read, if_neg (ne_true_of_eq_false dirty), if_pos]
  split
  · next r hr => rw [hr] at h; simpa using h
  · next hr => rw [hr] at h; cases h

end

end Sys2Proof.Machine

namespace Sys2Proof
open Sys2Proof.Machine

/-- Settles O26: each clause is one case of its row, a poll in time taking the package's demand. That refresh postponed under load is issued
whole without (log 46), that a window makes up what was postponed (log 88), that a request above twice the rate shows the memory hot at every
poll (log 45), and how one for management arrives (log 101), are the model's choices. -/
theorem refreshGoesByTheGridOrByBank : Obligations.RefreshGoesByTheGridOrByBank := by
  unfold Obligations.RefreshGoesByTheGridOrByBank
  rintro s _ _ ch _ hl rfl rfl
  have poll (code : BitVec 5) := refreshRatePoll_of_due (c := s.chip) (ch := ch.toNat) code
  refine ⟨fun grid count => ?_, fun _ other => ?_, fun free runs load => ?_, fun free runs idle => ?_, fun grid closed wants hd => ?_,
    fun derate hot rfm => ?_, ?_, fun code d t last early => ?_⟩
  · rw [exec_refreshWindow hl, refreshWindow_of_gridCount grid count, Chip.openWindows]
  · rw [exec_refreshWindow hl, refreshWindow_of_otherCount other, after_chip]
  · rw [exec_perBankRefresh hl, perBankRefresh_of_due _ free runs]
    simp only [load, if_true]
  · rw [exec_perBankRefresh hl, perBankRefresh_of_due _ free runs]
    simp only [idle, Bool.false_eq_true, if_false]
  · rw [exec_addedRefresh hl, addedRefresh_of_wanted grid closed wants hd]
  · rw [exec_addedRefresh hl, addedRefresh_of_unwanted (by simp [Chip.wantsRefresh, derate, hot, rfm]), after_chip]
  · rintro code runs due rfl
    refine ⟨?_, fun twice => ?_, fun first => ?_, fun soon => ?_, ?_⟩
    · rw [exec_refreshRatePoll hl, poll code runs due .normal]; rfl
    · rw [exec_refreshRatePoll hl, poll code runs due .twice, Chip.takeDemand, if_pos twice, Chip.polled]
    · rw [exec_refreshRatePoll hl, poll code runs due .twice, Chip.takeDemand, if_neg (ne_true_of_eq_false first), Chip.polled]
    · rw [exec_refreshRatePoll hl, poll code runs due (.rfm soon)]; rfl
    · rintro _ rfl
      rw [exec_refreshRatePoll hl, poll code runs due .above]; rfl
  · rw [exec_refreshRatePoll hl, refreshRatePoll_of_early code last early, after_chip]

/-- Settles O27: each clause is one case of the window's last part, of the period, of what a channel does then, or of the chunk's verdict. That
the work off the grid waits as 165 unscheduled bursts (log 113) and that the digest is of the chunk's bytes at its end (log 47) are the model's
reading, DEDUCED. -/
theorem maintenanceWritesBackScrubsAndRechecks : Obligations.MaintenanceWritesBackScrubsAndRechecks := by
  unfold Obligations.MaintenanceWritesBackScrubsAndRechecks
  refine ⟨?_, ?_⟩
  · rintro s _ ch _ hl rfl rfl
    refine ⟨?_, fun outside => ?_, fun free runs undone => ?_, fun done => ?_, ?_⟩
    · rintro opened undone from_ until_ _ rfl
      rw [exec_maintenancePart hl, maintenancePart_of_part opened undone from_ until_, Chip.retrains]
    · rw [exec_maintenancePart hl, maintenancePart_of_outside outside, after_chip]
    · rw [exec_maintPeriod hl, maintPeriod_of_due free runs undone]
    · rw [exec_maintPeriod hl, maintPeriod_of_done done, after_chip]
    · rintro c k _ rfl
      exact ⟨maintain_retraining, maintain_whole⟩
  · rintro s _ w _ hl rfl hw rfl
    rw [exec_recheckChunkDone hl]
    refine ⟨?_, ?_, ?_⟩
    · rintro ⟨ch, hch, short⟩
      have unread : s.chip.chunkRead w = false := Bool.eq_false_iff.2 fun read => Nat.not_lt.2 (chunkRead_iff.1 read ch hch) short
      rw [recheckChunkDone_of_unread hw unread, after_chip]
    · rintro read unpoisoned digest _ rfl
      rw [recheckChunkDone_of_clean hw (chunkRead_iff.2 read) (by simp [Chip.chunkClean, unpoisoned, ← digest])]
    · rintro read bad _ _ rfl rfl
      have dirty : s.chip.chunkClean w = false := by
        rw [Chip.chunkClean, Bool.and_eq_false_iff, beq_eq_false_iff_ne]
        exact bad.imp (fun h => by rw [h]; rfl) id
      exact ⟨fun unbound => by rw [recheckChunkDone_of_unbound hw (chunkRead_iff.2 read) dirty unbound]; rfl,
        fun bound => by rw [recheckChunkDone_of_bound hw (chunkRead_iff.2 read) dirty bound]; rfl⟩

end Sys2Proof
end

section
/-! PROOFS of the statements that earlier sittings left, the ring's commands: ring.plan, ring.form, ring.join, ring.orient, ring.leave,
ring.slack and ring.resume, and the statement. -/
namespace Sys2Proof.Machine

section
variable {s : State} {who : Issuer} {q : Req} (hl : s.live = true)
include hl

theorem exec_ringPlan (busErr : Bool) (hr : Requested s.chip (issuerNum who) 0x0400 q) :
    exec (.ringPlan who busErr) s = .next (after s (ringPlan (issuerNum who) busErr q s.chip)) := onChip_onReq_of_requested hl rfl hr rfl _
theorem exec_ringForm (busErr : Bool) (hr : Requested s.chip (issuerNum who) 0x0401 q) :
    exec (.ringForm who busErr) s = .next (after s (ringForm (issuerNum who) busErr q s.chip)) := onChip_onReq_of_requested hl rfl hr rfl _
theorem exec_ringJoin (busErr : Bool) (hr : Requested s.chip (issuerNum who) 0x0402 q) :
    exec (.ringJoin who busErr) s = .next (after s (ringJoin (issuerNum who) busErr q s.chip)) := onChip_onReq_of_requested hl rfl hr rfl _
theorem exec_ringOrient (busErr : Bool) (hr : Requested s.chip (issuerNum who) 0x0406 q) :
    exec (.ringOrient who busErr) s = .next (after s (ringOrient (issuerNum who) busErr q s.chip)) := onChip_onReq_of_requested hl rfl hr rfl _
theorem exec_ringLeave (hr : Requested s.chip (issuerNum who) 0x0403 q) :
    exec (.ringLeave who) s = .next (after s (ringLeave (issuerNum who) q s.chip)) := onChip_onReq_of_requested hl rfl hr rfl _
theorem exec_ringSlack (hr : Requested s.chip (issuerNum who) 0x0404 q) :
    exec (.ringSlack who) s = .next (after s (ringSlack (issuerNum who) q s.chip)) := onChip_onReq_of_requested hl rfl hr rfl _
theorem exec_ringResume (hr : Requested s.chip (issuerNum who) 0x0405 q) :
    exec (.ringResume who) s = .next (after s (ringResume (issuerNum who) q s.chip)) := onChip_onReq_of_requested hl rfl hr rfl _

/-- ring.form, ring.join and ring.orient are one acceptance, each with its own kind and its own bar against a run. -/
theorem exec_formCommand {i : Instr} {op : Nat} {kind : FormKind} {held busErr : Bool}
    (h : (i = .ringForm who busErr ∧ op = 0x0401 ∧ kind = .form ∧ held = (s.chip.ring.member && s.chip.run.isSome)) ∨
      (i = .ringJoin who busErr ∧ op = 0x0402 ∧ kind = .join ∧ held = s.chip.run.isSome) ∨
      (i = .ringOrient who busErr ∧ op = 0x0406 ∧ kind = .orient ∧ held = s.chip.run.isSome))
    (hr : Requested s.chip (issuerNum who) op q) :
    ∃ bars : Chip → Bool, bars s.chip = held ∧ exec i s = .next (after s (acceptForm kind bars (issuerNum who) busErr q s.chip)) := by
  rcases h with ⟨rfl, rfl, rfl, rfl⟩ | ⟨rfl, rfl, rfl, rfl⟩ | ⟨rfl, rfl, rfl, rfl⟩
  · exact ⟨_, rfl, exec_ringForm hl busErr hr⟩
  · exact ⟨_, rfl, exec_ringJoin hl busErr hr⟩
  · exact ⟨_, rfl, exec_ringOrient hl busErr hr⟩

end

section
variable {c : Chip} {n : Nat} {q : Req} {busErr : Bool}

/-! ### ring.plan (R418, R445) -/

theorem ringPlan_of_busy (h : c.ringBusy = true) : ringPlan n busErr q c = c.refuse n q stBusy := if_pos h

theorem ringPlan_of_member (free : c.ringBusy = false) (member : c.ring.member = true) (moving : c.slack.atSlack = false) :
    ringPlan n busErr q c = c.refuse n q stNotAtSlack := by
  simp [ringPlan, free, member, moving]

/-- REF names no buffer, or its length is not the plan's. -/
def badPlanRef (q : Req) (bs : List Byte) : Prop := q.ref = 0 ∨ q.refLen.toNat < 64 ∨ q.refLen.toNat ≠ 64 + 64 * planN bs

/-- A field of the plan is reserved, or the plan does not hold for this module. -/
def Chip.badPlan (c : Chip) (bs : List Byte) : Bool := planReserved bs || !(planOf bs).ok c.boot.serial

section
variable (free : c.ringBusy = false) (still : c.ring.member = false ∨ c.slack.atSlack = true)
include free still

theorem ringPlan_of_still : ringPlan n busErr q c =
    if busErr then c.refuse n q stBounds
    else if q.ref = 0 ∨ q.refLen.toNat < 64 ∨ q.refLen.toNat ≠ 64 + 64 * planN (c.hostRead q.ref.toNat (min q.refLen.toNat 4160)) then
      c.refuse n q stBadArg
    else if c.badPlan (c.hostRead q.ref.toNat (min q.refLen.toNat 4160)) then c.refuse n q stBadArg
    else (c.storePlan (c.hostRead q.ref.toNat (min q.refLen.toNat 4160))).refuse n q stOk := by
  have unbarred : (c.ring.member && !c.slack.atSlack) = false := by rcases still with h | h <;> simp [h]
  unfold ringPlan
  rw [if_neg (ne_true_of_eq_false free), if_neg (ne_true_of_eq_false unbarred)]
  rfl

theorem ringPlan_of_busError (h : busErr = true) : ringPlan n busErr q c = c.refuse n q stBounds :=
  (ringPlan_of_still free still).trans (if_pos h)

variable (read : busErr = false) {bs : List Byte} (hbs : c.hostRead q.ref.toNat (min q.refLen.toNat 4160) = bs)
include read hbs

theorem ringPlan_of_badRef (h : badPlanRef q bs) : ringPlan n busErr q c = c.refuse n q stBadArg := by
  subst hbs
  rw [ringPlan_of_still free still, if_neg (ne_true_of_eq_false read)]
  exact if_pos h

theorem ringPlan_of_goodRef (h : ¬badPlanRef q bs) : ringPlan n busErr q c =
    if c.badPlan bs then c.refuse n q stBadArg else (c.storePlan bs).refuse n q stOk := by
  subst hbs
  rw [ringPlan_of_still free still, if_neg (ne_true_of_eq_false read)]
  exact if_neg h

end

/-! ### ring.form, ring.join and ring.orient (R45, R484, R532) -/

section
variable {kind : FormKind} {bars : Chip → Bool}

theorem acceptForm_of_noIdentity (h : c.boot.identityOk = false) : acceptForm kind bars n busErr q c = c.refuse n q stNotPermitted := by
  simp [acceptForm, h]

variable (identity : c.boot.identityOk = true)
include identity

theorem acceptForm_of_busy (h : c.ringBusy = true) : acceptForm kind bars n busErr q c = c.refuse n q stBusy := by
  simp [acceptForm, identity, h]

variable (free : c.ringBusy = false)
include free

theorem acceptForm_of_barred (h : bars c = true) : acceptForm kind bars n busErr q c = c.refuse n q stNotAtSlack := by
  simp [acceptForm, identity, free, h]

variable (unbarred : bars c = false)
include unbarred

theorem acceptForm_of_noPlace (h : c.ring.plan.bind (fun p => p.posOf c.boot.serial) = none) :
    acceptForm kind bars n busErr q c = c.refuse n q stPlanMismatch := by
  simp only [acceptForm, identity, free, unbarred, Bool.not_true, Bool.false_eq_true, if_false]
  split
  · rfl
  · next p hp =>
    rw [hp, Option.bind_some] at h
    rw [h]

theorem acceptForm_of_place {p : Plan} {pos : Nat} (plan : c.ring.plan = some p) (place : p.posOf c.boot.serial = some pos) :
    acceptForm kind bars n busErr q c = (c.goBg n q (.form busErr)).startForm kind p pos := by
  simp only [acceptForm, identity, free, unbarred, plan, place, Bool.not_true, Bool.false_eq_true, if_false]

end

/-! ### ring.leave (R57) -/

/-- The module is no member any more, and its time base is its own. -/
def Chip.leaveRing (c : Chip) : Chip :=
  { c with ring := { c.ring with form := .none, member := false, inForce := none, line := false, brk := 0 },
           tide := { c.tide with st := if c.tide.st == .aligned || c.tide.st == .holdover || c.tide.st == .lost then .free else c.tide.st } }

theorem ringLeave_of_busy (h : c.ringBusy = true) : ringLeave n q c = c.refuse n q stBusy := if_pos h

theorem ringLeave_of_running (free : c.ringBusy = false) (runs : c.run.isSome = true) (moving : c.slack.atSlack = false) :
    ringLeave n q c = c.refuse n q stNotAtSlack := by
  simp [ringLeave, free, runs, moving]

theorem ringLeave_of_still (free : c.ringBusy = false) (still : c.run.isSome = false ∨ c.slack.atSlack = true) :
    ringLeave n q c = c.leaveRing.clearSlack.refuse n q stOk := by
  have unbarred : (c.run.isSome && !c.slack.atSlack) = false := by rcases still with h | h <;> simp [h]
  unfold ringLeave
  rw [if_neg (ne_true_of_eq_false free), if_neg (ne_true_of_eq_false unbarred)]
  rfl

/-! ### ring.slack (R82) -/

theorem ringSlack_of_untimed (h1 : c.tide.st ≠ .aligned) (h2 : c.tide.st ≠ .holdover) : ringSlack n q c = c.refuse n q stNotPermitted :=
  if_pos ⟨h1, h2⟩

/-- Neither ring command is refused for the state of the time base. -/
theorem not_untimed (h : c.tide.st = .aligned ∨ c.tide.st = .holdover) : ¬(c.tide.st ≠ .aligned ∧ c.tide.st ≠ .holdover) :=
  fun ⟨h1, h2⟩ => h.elim h1 h2

section
variable (timed : c.tide.st = .aligned ∨ c.tide.st = .holdover)
include timed

theorem ringSlack_of_busy (h : c.ringBusy = true) : ringSlack n q c = c.refuse n q stBusy :=
  (if_neg (not_untimed timed)).trans (if_pos h)

variable (free : c.ringBusy = false)
include free

theorem ringSlack_of_atSlack (h : c.slack.atSlack = true) : ringSlack n q c = c.okay n q [c.slack.heldS, c.tide.count] :=
  (if_neg (not_untimed timed)).trans ((if_neg (ne_true_of_eq_false free)).trans (if_pos h))

variable (moving : c.slack.atSlack = false)
include moving

theorem ringSlack_of_noCut (h : c.slack.cut = none) : ringSlack n q c = (c.goBg n q (.slack c.tide.count)).requestSlack .cmd := by
  rw [ringSlack, if_neg (not_untimed timed), if_neg (ne_true_of_eq_false free), if_neg (ne_true_of_eq_false moving), h]

theorem ringSlack_of_cut {m : W64} (h : c.slack.cut = some m) : ringSlack n q c = (c.requestSlack .cmd).okay n q [m, c.tide.count] := by
  rw [ringSlack, if_neg (not_untimed timed), if_neg (ne_true_of_eq_false free), if_neg (ne_true_of_eq_false moving), h]

end

/-! ### ring.resume (R78, R82, R482) -/

theorem ringResume_of_untimed (h1 : c.tide.st ≠ .aligned) (h2 : c.tide.st ≠ .holdover) : ringResume n q c = c.refuse n q stNotPermitted :=
  if_pos ⟨h1, h2⟩

section
variable (timed : c.tide.st = .aligned ∨ c.tide.st = .holdover)
include timed

theorem ringResume_of_busy (h : c.ringBusy = true) : ringResume n q c = c.refuse n q stBusy :=
  (if_neg (not_untimed timed)).trans (if_pos h)

variable (free : c.ringBusy = false)
include free

theorem ringResume_of_moving (h : c.slack.atSlack = false ∨ (c.recov.phase ≠ .none ∧ c.recov.phase ≠ .held)) :
    ringResume n q c = c.refuse n q stNotAtSlack :=
  (if_neg (not_untimed timed)).trans ((if_neg (ne_true_of_eq_false free)).trans (if_pos h))

/-- By how much ring.resume shifts the schedule (R78). -/
def Chip.resumeGrowth (c : Chip) (q : Req) : W64 := BitVec.ofNat 64 (c.growth (q.w 0 - c.slack.heldS).toNat)

/-- The schedule is shifted where there is one. -/
def Chip.shiftRun (c : Chip) (g : W64) : Chip :=
  if c.run.isSome then { c with tide := { c.tide with shift := c.tide.shift + g } } else c

/-- The slack is over, and the run goes on or waits for its base mark. -/
def Chip.endSlack (c : Chip) : Chip := c.clearSlack.updRun (fun r => { r with state := if r.baseSeen then .running else .waiting })

/-- What the end of the slack does to recovery, where c was held by one: its replay begins. -/
def Chip.resumeReplay (e c : Chip) (g : W64) : Chip :=
  if c.recov.phase == .held then { e with recov := { e.recov with phase := .none, rp := some (c.slack.heldS + g), cutStop := none } }
  else { e with recov := { e.recov with cutStop := none } }

theorem ringResume_of_held (still : c.slack.atSlack = true) (held : c.recov.phase = .none ∨ c.recov.phase = .held) : ringResume n q c =
    if (q.w 0).toNat < c.now + c.tide.lead.toNat then c.answer n q stBadArg [] 0
    else
      let f := (c.shiftRun (c.resumeGrowth q)).endSlack.resumeReplay c (c.resumeGrowth q)
      (f.evMod 0x0704 (q.w 0) f.tide.shift).okay n q [f.tide.shift] := by
  have unbarred : ¬(c.slack.atSlack = false ∨ (c.recov.phase ≠ .none ∧ c.recov.phase ≠ .held)) := by
    rintro (h | ⟨h1, h2⟩)
    · exact ne_true_of_eq_false h still
    · exact held.elim h1 h2
  exact (if_neg (not_untimed timed)).trans ((if_neg (ne_true_of_eq_false free)).trans (if_neg unbarred))

end

end

end Sys2Proof.Machine

namespace Sys2Proof
open Sys2Proof.Machine

/-- Settles O35: each clause is one case of its command; ring.form, ring.join and ring.orient share `acceptForm`. That ring.slack at slack
answers the mark held and the present count (log 83), and that a module with no plan it appears in answers ST_PLAN_MISMATCH (log 25), are
DESIGN CHOICES of the model. -/
theorem ringCommandsAreTakenOrRefused : Obligations.RingCommandsAreTakenOrRefused := by
  unfold Obligations.RingCommandsAreTakenOrRefused
  rintro s _ who _ busErr q hl rfl rfl
  refine ⟨fun hr => ?_, ?_, fun hr => ?_, fun hr => ?_, fun hr => ?_⟩
  · rw [exec_ringPlan hl busErr hr]
    refine ⟨fun busy => by rw [ringPlan_of_busy busy], fun free member moving => by rw [ringPlan_of_member free member moving],
      fun free still => ⟨fun err => by rw [ringPlan_of_busError free still err], fun read bs hbs => ⟨fun bad => ?_, fun good => ⟨fun badPlan => ?_,
        fun goodPlan => ?_⟩⟩⟩⟩
    · rw [ringPlan_of_badRef free still read hbs bad]
    · rw [ringPlan_of_goodRef free still read hbs good, Chip.badPlan, if_pos badPlan]
    · rw [ringPlan_of_goodRef free still read hbs good, Chip.badPlan, if_neg (ne_true_of_eq_false goodPlan)]
  · intro i op kind held h hr
    obtain ⟨bars, rfl, accepts⟩ := exec_formCommand hl h hr
    rw [accepts]
    refine ⟨fun none_ => by rw [acceptForm_of_noIdentity none_], fun identity busy => by rw [acceptForm_of_busy identity busy],
      fun identity free barred => by rw [acceptForm_of_barred identity free barred], fun identity free unbarred => ⟨fun noPlace => ?_,
        fun p pos plan place => ?_⟩⟩
    · rw [acceptForm_of_noPlace identity free unbarred noPlace]
    · rw [acceptForm_of_place identity free unbarred plan place]
  · rw [exec_ringLeave hl hr]
    exact ⟨fun busy => by rw [ringLeave_of_busy busy], fun free runs moving => by rw [ringLeave_of_running free runs moving],
      fun free still => by rw [ringLeave_of_still free still, Chip.leaveRing]⟩
  · rw [exec_ringSlack hl hr]
    exact ⟨fun h1 h2 => by rw [ringSlack_of_untimed h1 h2], fun timed => ⟨fun busy => by rw [ringSlack_of_busy timed busy],
      fun free still => by rw [ringSlack_of_atSlack timed free still], fun free moving noCut => by rw [ringSlack_of_noCut timed free moving noCut],
      fun free moving m cut => by rw [ringSlack_of_cut timed free moving cut]⟩⟩
  · rw [exec_ringResume hl hr]
    refine ⟨fun h1 h2 => by rw [ringResume_of_untimed h1 h2], fun timed => ⟨fun busy => by rw [ringResume_of_busy timed busy],
      fun free moving => by rw [ringResume_of_moving timed free moving], fun free still held => ⟨fun early => ?_, ?_⟩⟩⟩
    · rw [ringResume_of_held timed free still held, if_pos early]
    · rintro late _ _ _ _ rfl rfl rfl rfl
      rw [ringResume_of_held timed free still held, if_neg (Nat.not_lt.2 late)]
      rfl

end Sys2Proof
end

section
/-! PROOFS of the statements that earlier sittings left, formation: DISCOVER_TIMEOUT, FORMATION_AGREE, FORMATION_DECISION, MEASURE_DONE and
FORMATION_TIMEOUT, and the statement. -/
namespace Sys2Proof.Machine

section
variable {s : State} (hl : s.live = true)
include hl

theorem exec_discoverTimeout : exec .discoverTimeout s = .next (after s (discoverTimeout s.chip)) := onChip_live hl _
theorem exec_formationAgree (a : AgreeReport) : exec (.formationAgree a) s = .next (after s (s.chip.takeAgree a)) :=
  onChip_live hl (fun c => c.takeAgree a)
theorem exec_formationDecision (v : FormVerdict) : exec (.formationDecision v) s = .next (after s (s.chip.decided v)) :=
  onChip_live hl (fun c => c.decided v)
theorem exec_measureDone (beyond count : W64) (passed : Bool) (east west : List W32) :
    exec (.measureDone beyond count passed east west) s = .next (after s (measureDone beyond count passed east west s.chip)) := onChip_live hl _
theorem exec_formationTimeout : exec .formationTimeout s = .next (after s (formationTimeout s.chip)) := onChip_live hl _

end

section
variable {c : Chip}

/-! ### The times of a formation (R418) -/

theorem discoverTimeout_of_due (form : c.ring.form = .discover ∨ c.ring.form = .check) (due : c.ring.startTk + 20 * 117500 ≤ c.up) :
    discoverTimeout c = c.check true := by
  refine when_of ?_ _ c
  rcases form with h | h <;> simp [h, msTk, due]

theorem discoverTimeout_of_early_or_other (h : c.up < c.ring.startTk + 20 * 117500 ∨ (c.ring.form ≠ .discover ∧ c.ring.form ≠ .check)) :
    discoverTimeout c = c := by
  refine when_of_false ?_ _ c
  rcases h with h | ⟨h1, h2⟩
  · have early : ¬c.ring.startTk + msTk 20 ≤ c.up := Nat.not_le.2 h
    simp [early]
  · simp [h1, h2]

theorem formationTimeout_of_due (form : c.ring.form = .discover ∨ c.ring.form = .check ∨ c.ring.form = .agree)
    (due : c.ring.startTk + 50 * 117500 ≤ c.up) : formationTimeout c = c.formFail stTimeout := by
  refine when_of ?_ _ c
  rcases form with h | h | h <;> simp [h, msTk, due]

theorem formationTimeout_of_early (h : c.up < c.ring.startTk + 50 * 117500) : formationTimeout c = c := by
  have early : ¬c.ring.startTk + msTk 50 ≤ c.up := Nat.not_le.2 h
  exact when_of_false (by simp [early]) _ c

/-! ### Reports and the decision (R412, R413, R418) -/

/-- The report in the place of the one that its position had sent before. -/
def Chip.keepReport (c : Chip) (a : AgreeReport) : Chip :=
  { c with ring := { c.ring with agrees := c.ring.agrees.filter (fun b => b.pos != a.pos) ++ [a] } }

/-- A report of every one of n positions is kept. -/
def RingSt.complete (r : RingSt) (n : Nat) : Bool := (List.range n).all (fun i => r.agrees.any (fun b => b.pos.toNat == i))

theorem complete_iff {r : RingSt} {n : Nat} : r.complete n = true ↔ ∀ i, i < n → ∃ b ∈ r.agrees, b.pos.toNat = i := by
  simp [RingSt.complete]

/-- The tide master's decision on the reports it has kept. -/
def Chip.judgeReports (c : Chip) (p : Plan) : FormVerdict :=
  verdict p.n c.boot.set.lineMode (c.ring.gathered.filter (fun b => decide (b.pos.toNat < p.n)))

theorem takeAgree_of_plan {p : Plan} (plan : c.ring.inForce = some p) (a : AgreeReport) : c.takeAgree a =
    if c.ring.form = .agree ∧ c.ring.pos = p.master ∧ (c.keepReport a).ring.complete p.n = true then
      (if p.n = 1 then c.keepReport a else (c.keepReport a).send (.formDecision ((c.keepReport a).judgeReports p))).decided
        ((c.keepReport a).judgeReports p)
    else c.keepReport a := by
  unfold Chip.takeAgree
  dsimp only
  split
  · next none_ => cases plan.symm.trans none_
  · next p' some_ =>
    cases plan.symm.trans some_
    rfl

theorem takeAgree_of_undecided {a : AgreeReport} (h : c.ring.form ≠ .agree ∨ c.ring.inForce.map (fun p => p.master) ≠ some c.ring.pos ∨
    ∃ i, i < (c.ring.inForce.map (fun p => p.n)).getD 0 ∧ ∀ b ∈ (c.keepReport a).ring.agrees, b.pos.toNat ≠ i) :
    c.takeAgree a = c.keepReport a := by
  cases plan : c.ring.inForce with
  | none =>
    unfold Chip.takeAgree
    dsimp only
    split
    · rfl
    · next p some_ => cases plan.symm.trans some_
  | some p =>
    rw [takeAgree_of_plan plan, if_neg]
    rintro ⟨form, master, full⟩
    rw [plan] at h
    rcases h with h | h | ⟨i, hi, missing⟩
    · exact h form
    · exact h (congrArg some master.symm)
    · obtain ⟨b, hb, at_⟩ := complete_iff.1 full i hi
      exact missing b hb at_

theorem takeAgree_of_complete {p : Plan} {a : AgreeReport} (plan : c.ring.inForce = some p) (form : c.ring.form = .agree)
    (master : c.ring.pos = p.master) (full : ∀ i, i < p.n → ∃ b ∈ (c.keepReport a).ring.agrees, b.pos.toNat = i) : c.takeAgree a =
      (if p.n = 1 then c.keepReport a else (c.keepReport a).send (.formDecision ((c.keepReport a).judgeReports p))).decided
        ((c.keepReport a).judgeReports p) :=
  (takeAgree_of_plan plan a).trans (if_pos ⟨form, master, complete_iff.2 full⟩)

theorem decided_of_otherForm (v : FormVerdict) (h : c.ring.form ≠ .agree) : c.decided v = c := if_pos h

theorem decided_of_agree (v : FormVerdict) (h : c.ring.form = .agree) : c.decided v =
    if v.pass then c.measure v else ({ c with ring := { c.ring with vr := v.vr } } : Chip).formFail v.status := if_neg (not_not_intro h)

/-! ### The measurement (R42, R50, R51, R57) -/

section
variable {p : Plan} {st : Strait}

theorem hopFault_of_absent (h : farValid (c.planRec.far.get st) = false ∨ (c.str st).isUp = false) : c.hopFault p st = none := by
  rcases h with h | h <;> simp [Chip.hopFault, h]

section
variable (planned : farValid (c.planRec.far.get st) = true) (up : (c.str st).isUp = true)
include planned up

theorem hopFault_of_overBudget (valid : (c.tide.hop.get st).valid = true) (exceeds : p.hopBudget.toNat < (c.tide.hop.get st).delay.toNat) :
    c.hopFault p st = some 8 := by
  simp [Chip.hopFault, planned, up, valid, exceeds]

theorem hopFault_of_inBudget (within_ : (c.tide.hop.get st).delay.toNat ≤ p.hopBudget.toNat) :
    c.hopFault p st = if (c.tide.xch.get st).freqBad then some 9 else none := by
  simp [Chip.hopFault, planned, up, Nat.not_lt.2 within_]

end

/-- A hop that the plan has and that is up keeps its budget and its frequency. -/
def Chip.hopGood (c : Chip) (p : Plan) (st : Strait) : Prop :=
  farValid (c.planRec.far.get st) = true → (c.str st).isUp = true →
    (c.tide.hop.get st).delay.toNat ≤ p.hopBudget.toNat ∧ (c.tide.xch.get st).freqBad = false

theorem hopFault_of_good (h : c.hopGood p st) : c.hopFault p st = none := by
  by_cases planned : farValid (c.planRec.far.get st) = true
  · by_cases up : (c.str st).isUp = true
    · obtain ⟨within_, frequency⟩ := h planned up
      rw [hopFault_of_inBudget planned up within_, if_neg (ne_true_of_eq_false frequency)]
    · exact hopFault_of_absent (.inr (Bool.eq_false_iff.2 up))
  · exact hopFault_of_absent (.inl (Bool.eq_false_iff.2 planned))

end

section
variable {p : Plan} {beyond count : W64} {passed : Bool} {east west : List W32}

/-- The measurement may be judged: both main hops have their exchanges. -/
def Chip.measured (c : Chip) : Bool := c.ring.form == .measure && c.tide.st == .measuring && c.hopMeasured .e && c.hopMeasured .w

/-- What the hops' measurements found wrong stands in their results. -/
def Chip.noteFaults (c : Chip) (p : Plan) : Chip :=
  { c with ring := { c.ring with result := { c.ring.result with
      e := (c.hopFault p .e).getD c.ring.result.e, w := (c.hopFault p .w).getD c.ring.result.w } } }

/-- The kept count of this member lies too far from the ring's (R57). -/
def Chip.tooFar (c : Chip) (beyond : W64) : Bool := c.tide.keepCount && decide (240 < (c.fullOffset beyond).natAbs)

/-- Count and LEAD are loaded, and the time base is aligned. -/
def Chip.loadCount (c : Chip) (beyond count : W64) (east west : List W32) : Chip :=
  { c with tide := { c.tide with
      count := if c.tide.keepCount then c.tide.count else count, lead := BitVec.ofNat 32 (leadOf east west),
      residual := if c.tide.keepCount then BitVec.ofNat 32 (intBits 32 (c.fullOffset beyond)) else c.tide.residual,
      st := if c.tide.refActive = 7 then .holdover else .aligned, holdSince := c.up } }

theorem measureDone_of_unmeasured (h : c.ring.inForce = none ∨ c.measured = false) : measureDone beyond count passed east west c = c := by
  unfold measureDone
  cases plan : c.ring.inForce with
  | none => rfl
  | some p => exact when_of_false (h.resolve_left (by simp [plan])) _ c

section
variable (plan : c.ring.inForce = some p) (measured : c.measured = true)
include plan measured

theorem measureDone_of_fault (h : (c.hopFault p .e).isSome = true ∨ (c.hopFault p .w).isSome = true ∨ c.tooFar beyond = true ∨ passed = false) :
    measureDone beyond count passed east west c = (c.noteFaults p).formFail stPlanMismatch := by
  have bad : ((c.hopFault p .e).isSome || (c.hopFault p .w).isSome || c.tooFar beyond || !passed) = true := by
    rcases h with h | h | h | h <;> simp [h]
  unfold measureDone
  simp only [plan]
  exact (when_of measured _ c).trans (if_pos bad)

variable (e : c.hopFault p .e = none) (w : c.hopFault p .w = none)
include e w

omit plan measured in
theorem noteFaults_of_none : c.noteFaults p = c := by simp only [Chip.noteFaults, e, w, Option.getD_none]

theorem measureDone_of_good (near : c.tooFar beyond = false) (ok : passed = true) (kind : c.ring.kind ≠ .again) :
    measureDone beyond count passed east west c = (c.loadCount beyond count east west).clearSlack.formed.formAnswer stOk := by
  have good : ((c.hopFault p .e).isSome || (c.hopFault p .w).isSome || c.tooFar beyond || !passed) = false := by simp [e, w, near, ok]
  unfold measureDone
  simp only [plan]
  refine (when_of measured _ c).trans ((if_neg (ne_true_of_eq_false good)).trans ((if_neg kind).trans ?_))
  simp only [e, w, Option.getD_none]
  rfl

end

end

end

end Sys2Proof.Machine

namespace Sys2Proof
open Sys2Proof.Machine

/-- Settles O36: each clause is one case of a formation's time, of a report or decision, or of the measurement. The order in which the reports
are judged and the HOLDOVER of a member without a valid source (log 25), the failure of a member nearer the tide master (log 86) and RESIDUAL
as the member's own offset (log 63) are the model's choices. -/
theorem formationDiscoversDecidesAndMeasures : Obligations.FormationDiscoversDecidesAndMeasures := by
  unfold Obligations.FormationDiscoversDecidesAndMeasures
  rintro s c hl rfl
  refine ⟨fun form due => ?_, fun h => ?_, ?_, fun v => ⟨fun other => ?_, fun form pass => ?_, fun form fail => ?_⟩, ?_, fun form due => ?_,
    fun early => ?_⟩
  · rw [exec_discoverTimeout hl, discoverTimeout_of_due form due]
  · rw [exec_discoverTimeout hl, discoverTimeout_of_early_or_other h, after_chip]
  · rintro a _ rfl
    rw [exec_formationAgree hl]
    refine ⟨fun undecided => by rw [takeAgree_of_undecided undecided, Chip.keepReport], ?_⟩
    rintro p plan form master full _ rfl
    rw [takeAgree_of_complete plan form master full]
    rfl
  · rw [exec_formationDecision hl, decided_of_otherForm v other, after_chip]
  · rw [exec_formationDecision hl, decided_of_agree v form, if_pos pass]
  · rw [exec_formationDecision hl, decided_of_agree v form, if_neg (ne_true_of_eq_false fail)]
  · rintro beyond count passed east west _ rfl
    have measured (form : s.chip.ring.form = .measure) (st : s.chip.tide.st = .measuring) (e : s.chip.hopMeasured .e = true)
        (w : s.chip.hopMeasured .w = true) : s.chip.measured = true := by simp [Chip.measured, form, st, e, w]
    rw [exec_measureDone hl]
    refine ⟨fun h => ?_, fun p plan form st me mw planned up valid exceeds absent => ?_, fun p plan form st me mw planned up within_ freq absent => ?_,
      fun p plan form st me mw good h => ?_, ?_⟩
    · rw [measureDone_of_unmeasured, after_chip]
      refine h.imp id fun h => ?_
      rcases h with h | h | h | h <;> simp [Chip.measured, h]
    · have e := hopFault_of_overBudget planned up valid exceeds
      have w := hopFault_of_absent (p := p) absent
      rw [measureDone_of_fault plan (measured form st me mw) (.inl (by simp [e])), Chip.noteFaults, e, w]
      rfl
    · have e := (hopFault_of_inBudget planned up within_).trans (if_pos freq)
      have w := hopFault_of_absent (p := p) absent
      rw [measureDone_of_fault plan (measured form st me mw) (.inl (by simp [e])), Chip.noteFaults, e, w]
      rfl
    · have e : s.chip.hopFault p .e = none := hopFault_of_good (good .e rfl)
      have w : s.chip.hopFault p .w = none := hopFault_of_good (good .w rfl)
      have bad : s.chip.tooFar beyond = true ∨ passed = false :=
        h.symm.imp (fun ⟨keeps, far⟩ => by rw [Chip.tooFar, keeps]; exact decide_eq_true far) id
      rw [measureDone_of_fault plan (measured form st me mw) (.inr (.inr bad)), noteFaults_of_none e w]
    · rintro p plan form st me mw ok good near kind _ rfl
      have e : s.chip.hopFault p .e = none := hopFault_of_good (good .e rfl)
      have w : s.chip.hopFault p .w = none := hopFault_of_good (good .w rfl)
      have close : s.chip.tooFar beyond = false := by
        rw [Chip.tooFar, Bool.and_eq_false_iff, decide_eq_false_iff_not, Nat.not_lt]
        exact near
      rw [measureDone_of_good plan (measured form st me mw) e w close ok kind]
      rfl
  · rw [exec_formationTimeout hl, formationTimeout_of_due form due]
  · rw [exec_formationTimeout hl, formationTimeout_of_early early, after_chip]

end Sys2Proof
end

section
/-! PROOFS of the statements that earlier sittings left, weight sets: wgt.stage, wgt.verify, wgt.switch and wgt.drop, WGT_STAGE_DONE,
WGT_VERIFY_DONE and WSET_EFFECT, and the statement. -/
namespace Sys2Proof.Machine

section
variable {s : State} {who : Issuer} {q : Req} (hl : s.live = true)
include hl

theorem exec_wgtStage (busErr : Bool) (hr : Requested s.chip (issuerNum who) 0x0500 q) :
    exec (.wgtStage who busErr) s = .next (after s (wgtStage (issuerNum who) busErr q s.chip)) := onChip_onReq_of_requested hl rfl hr rfl _
theorem exec_wgtVerify (busErr : Bool) (hr : Requested s.chip (issuerNum who) 0x0501 q) :
    exec (.wgtVerify who busErr) s = .next (after s (wgtVerify (issuerNum who) busErr q s.chip)) := onChip_onReq_of_requested hl rfl hr rfl _
theorem exec_wgtSwitch (hr : Requested s.chip (issuerNum who) 0x0502 q) :
    exec (.wgtSwitch who) s = .next (after s (wgtSwitch (issuerNum who) q s.chip)) := onChip_onReq_of_requested hl rfl hr rfl _
theorem exec_wgtDrop (hr : Requested s.chip (issuerNum who) 0x0503 q) :
    exec (.wgtDrop who) s = .next (after s (wgtDrop (issuerNum who) q s.chip)) := onChip_onReq_of_requested hl rfl hr rfl _
theorem exec_wsetEffect : exec (.wsetEffect who) s = .next (after s (wsetEffect (issuerNum who) s.chip)) := onChip_live hl _
theorem exec_wgtStageDone (set : W16) (busErr ep : Bool) :
    exec (.wgtStageDone set busErr ep) s = .next (after s (wgtStageDone set busErr ep s.chip)) := onChip_live hl _
theorem exec_wgtVerifyDone (set : W16) : exec (.wgtVerifyDone set) s = .next (after s (wgtVerifyDone set s.chip)) := onChip_live hl _

end

/-- The weight set that a wgt command names. -/
def wgtNum (q : Req) : W16 := BitVec.ofNat 16 (fld (q.w 0) 15 0)

section
variable {c : Chip} {n : Nat} {q : Req} {busErr : Bool}

/-! ### wgt.stage (R452) -/

theorem wgtStage_of_unaligned (h : (q.w 1).toNat % 0x40_0000 ≠ 0) : wgtStage n busErr q c = c.answer n q stBadArg [] 8 := if_pos h

theorem wgtStage_of_badLen (aligned : (q.w 1).toNat % 0x40_0000 = 0) (h : (q.w 2).toNat = 0 ∨ (q.w 2).toNat % 64 ≠ 0) :
    wgtStage n busErr q c = c.answer n q stBadArg [] 16 := (if_neg (not_not_intro aligned)).trans (if_pos h)

/-- OFFSET is a multiple of a chunk's size, and LENGTH one of 64 and not 0. -/
structure StageUnits (q : Req) : Prop where
  offset : (q.w 1).toNat % 0x40_0000 = 0
  pos    : (q.w 2).toNat ≠ 0
  len    : (q.w 2).toNat % 64 = 0

section
variable (hu : StageUnits q)
include hu

theorem wgtStage_of_noRegion (h : c.region (fld (q.w 0) 25 16) = none) : wgtStage n busErr q c = c.answer n q stNotPermitted [] 0 := by
  simp only [wgtStage, hu.offset, hu.pos, hu.len, h, ne_eq, not_true, if_false, or_self]

variable {r : Region} (hr : c.region (fld (q.w 0) 25 16) = some r)
include hr

/-- The region, or the set of that number, belongs to another context. -/
def Chip.stageForeign (c : Chip) (n : Nat) (q : Req) (r : Region) : Bool :=
  r.ctx ≠ n || ((c.wset (wgtNum q)).map (fun w => w.ctx != n)).getD false

/-- The region, the list of sets or the list of chunks has no room. -/
def Chip.stageFull (c : Chip) (q : Req) (r : Region) : Bool :=
  r.size < (q.w 1).toNat + (q.w 2).toNat || decide (64 ≤ c.wsets.length) ||
    decide (524288 < c.wsets.foldl (fun k w => k + chunksOf w.len) 0 + chunksOf (q.w 2).toNat)

/-- The region, the set or its place is in use. -/
def Chip.stageBusy (c : Chip) (q : Req) (r : Region) : Bool :=
  c.regionBusy r || (c.wset (wgtNum q)).isSome || c.placeBusy (r.base + (q.w 1).toNat) (q.w 2).toNat

/-- The scatter list is missing, malformed, or of another length than the shard. -/
def badScatter (q : Req) (list : List (Nat × Nat)) : Bool :=
  q.ref = 0 || q.refLen.toNat % 16 != 0 || list.any (fun e => e.1 % 64 != 0 || e.2 % 64 != 0) ||
    decide (list.foldl (fun k e => k + e.2) 0 ≠ (q.w 2).toNat)

/-- The set with its place, not resident. -/
def newWset (n : Nat) (q : Req) (r : Region) : WSet :=
  { num := wgtNum q, ctx := n, region := r.num, base := r.base + (q.w 1).toNat, len := (q.w 2).toNat, resident := false, verified := false,
    damaged := false, chunks := [], digest := [], weights := [], clean := [] }

/-- The set is known, and the copy runs for it. -/
def Chip.beginStage (c : Chip) (n : Nat) (q : Req) (r : Region) (list : List (Nat × Nat)) : Chip :=
  ({ c with wsets := c.wsets ++ [newWset n q r] } : Chip).goBg n q (.stage (wgtNum q) list)

theorem wgtStage_of_region : wgtStage n busErr q c =
    if c.stageForeign n q r then c.answer n q stNotPermitted [] 0
    else if c.stageFull q r then c.refuse n q stNoSpace
    else if c.stageBusy q r then c.refuse n q stBusy
    else if busErr then c.refuse n q stBounds
    else if badScatter q (scatter (c.hostRead q.ref.toNat q.refLen.toNat)) then c.refuse n q stBadArg
    else c.beginStage n q r (scatter (c.hostRead q.ref.toNat q.refLen.toNat)) := by
  unfold wgtStage
  dsimp only
  rw [if_neg (not_not_intro hu.offset), if_neg (not_or.2 ⟨hu.pos, not_not_intro hu.len⟩), hr]
  rfl

end

/-! ### WGT_STAGE_DONE (R452) -/

section
variable {set : W16} {b : Bg} {w : WSet} {list : List (Nat × Nat)} {ep : Bool} (hb : c.stageBg set = some b) (hw : c.wset set = some w)
  (kind : b.kind = .stage set list) (running : c.keeper.state = .running)
include hb hw kind running

/-- The set is gone. -/
def Chip.withoutSet (c : Chip) (set : W16) : Chip := { c with wsets := c.wsets.filter (fun v => v.num != set) }

/-- The bytes that the copy of a shard has brought stand in its place. -/
def Chip.copyShard (c : Chip) (w : WSet) (list : List (Nat × Nat)) : Chip :=
  c.writePieces [(w.base, list.flatMap (fun e => c.hostRead e.1 e.2), false)]

/-- The words of the response to wgt.stage: the chunks and the digest of their digests. -/
def stageWords (ds : List (List Byte)) : List Byte := wordsBytes [mkWord [(0, 32, ds.length)]] ++ sha512 ds.flatten

theorem wgtStageDone_of_staging : wgtStageDone set busErr ep c =
    if busErr || ep then (c.withoutSet set).endBg b stPoisoned [] 0xFFFF 0
    else
      let d := c.copyShard w list
      let ds := d.chunkDigests w
      if sha512 ds.flatten = slice b.req.payload 0x18 64 then
        (d.setWset { w with resident := true, chunks := ds, digest := sha512 ds.flatten }).endBg b stOk (stageWords ds) 0xFFFF 0
      else (d.withoutSet set).endBg b stDigest (stageWords ds) 0xFFFF 0 := by
  unfold wgtStageDone
  rw [hb, hw]
  dsimp only
  rw [kind]
  exact when_of (by simp [running]) _ c

theorem wgtStageDone_of_failedRead (h : busErr = true ∨ ep = true) :
    wgtStageDone set busErr ep c = (c.withoutSet set).endBg b stPoisoned [] 0xFFFF 0 :=
  (wgtStageDone_of_staging hb hw kind running).trans (if_pos (by simpa using h))

end

/-! ### wgt.verify and WGT_VERIFY_DONE (R453) -/

theorem wgtVerify_of_noSet (h : c.wset (wgtNum q) = none) : wgtVerify n busErr q c = c.answer n q stBadArg [] 0 := by
  rw [wgtNum] at h
  unfold wgtVerify
  simp only [h]

/-- The shard's place in the ring is none of K's, or the set is not resident. -/
def badVerify (q : Req) (w : WSet) : Prop :=
  fld (q.w 0) 28 22 = 0 ∨ 64 < fld (q.w 0) 28 22 ∨ fld (q.w 0) 28 22 ≤ fld (q.w 0) 21 16 ∨ w.resident = false

theorem not_badVerify {w : WSet} (h64 : fld (q.w 0) 28 22 ≤ 64) (hp : fld (q.w 0) 21 16 < fld (q.w 0) 28 22) (hr : w.resident = true) :
    ¬badVerify q w := by
  rintro (h | h | h | h)
  · omega
  · omega
  · omega
  · exact ne_true_of_eq_false h hr

theorem wgtVerify_of_set {w : WSet} (hw : c.wset (wgtNum q) = some w) : wgtVerify n busErr q c =
    if c.setBusy (wgtNum q) then c.refuse n q stBusy
    else if fld (q.w 0) 28 22 = 0 ∨ 64 < fld (q.w 0) 28 22 ∨ fld (q.w 0) 28 22 ≤ fld (q.w 0) 21 16 ∨ w.resident = false then
      c.answer n q stBadArg [] 0
    else if q.ref = 0 ∨ q.refLen.toNat < 64 * fld (q.w 0) 28 22 then c.refuse n q stBadArg
    else if busErr then c.refuse n q stBounds
    else c.goBg n q (.verify (wgtNum q) (fld (q.w 0) 28 22) (fld (q.w 0) 21 16) (c.hostRead q.ref.toNat (64 * fld (q.w 0) 28 22))) := by
  unfold wgtVerify
  rw [wgtNum] at hw ⊢
  simp only [hw]

theorem wgtVerify_of_badRow {w : WSet} (hw : c.wset (wgtNum q) = some w) (free : c.setBusy (wgtNum q) = false) (h : badVerify q w) :
    wgtVerify n busErr q c = c.answer n q stBadArg [] 0 := by
  rw [wgtVerify_of_set hw, if_neg (ne_true_of_eq_false free)]
  exact if_pos h

theorem wgtVerify_of_goodRow {w : WSet} (hw : c.wset (wgtNum q) = some w) (free : c.setBusy (wgtNum q) = false) (h : ¬badVerify q w) :
    wgtVerify n busErr q c =
      if q.ref = 0 ∨ q.refLen.toNat < 64 * fld (q.w 0) 28 22 then c.refuse n q stBadArg
      else if busErr then c.refuse n q stBounds
      else c.goBg n q (.verify (wgtNum q) (fld (q.w 0) 28 22) (fld (q.w 0) 21 16) (c.hostRead q.ref.toNat (64 * fld (q.w 0) 28 22))) := by
  rw [wgtVerify_of_set hw, if_neg (ne_true_of_eq_false free)]
  exact if_neg h

/-- A set whose read-back agrees counts as verified, its chunks clean from now. -/
def Chip.markVerified (e : Chip) (w : WSet) (weights : List Byte) : Chip :=
  e.setWset { w with verified := true, weights := weights, clean := w.chunks.map (fun _ => e.now) }

theorem wgtVerifyDone_of_verifying {set : W16} {b : Bg} {w : WSet} {k p : Nat} {digs : List Byte} {d : Chip} (hb : c.verifyBg set = some b)
    (hw : c.wset set = some w) (kind : b.kind = .verify set k p digs) (running : c.keeper.state = .running) (hd : c.scanLp w.base w.len = d) :
    wgtVerifyDone set c =
      if w.damaged then d.endBg b stDigest [] 0xFFFF 0
      else if d.poisonLp w.base w.len then d.endBg b stPoisoned [] 0xFFFF 0
      else if d.chunkDigests w ≠ w.chunks ∨ w.digest ≠ slice digs (64 * p) 64 then d.endBg b stDigest [] 0xFFFF 0
      else ((if w.verified then d else d.recheckAnew w.num).markVerified w (sha512 (leBytes 8 k ++ digs))).endBg b stOk
        (sha512 (leBytes 8 k ++ digs)) 0xFFFF 0 := by
  subst hd
  unfold wgtVerifyDone
  rw [hb, hw]
  dsimp only
  rw [kind]
  exact when_of (by simp [running]) _ c

/-! ### wgt.switch and WSET_EFFECT (R113 to R115) -/

theorem wgtSwitch_of_untimed (h1 : c.tide.st ≠ .aligned) (h2 : c.tide.st ≠ .holdover) : wgtSwitch n q c = c.refuse n q stNotPermitted :=
  if_pos ⟨h1, h2⟩

theorem wgtSwitch_of_timed (timed : c.tide.st = .aligned ∨ c.tide.st = .holdover) : wgtSwitch n q c =
    if c.setBusy (wgtNum q) then c.refuse n q stBusy
    else if !((c.wset (wgtNum q)).map (fun w => w.resident && w.verified)).getD false then c.answer n q stNotPermitted [] 0
    else if (q.w 1).toNat < c.now + 1175 then c.answer n q stBadArg [] 8
    else if (c.ctx n).pendSet.isSome then c.refuse n q stBusy
    else (c.updCtx n (fun x => { x with pendSet := some (wgtNum q, q.w 1), wmark := q.w 1 })).refuse n q stOk :=
  if_neg (not_untimed timed)

theorem wsetEffect_of_none (h : (c.ctx n).pendSet = none) : wsetEffect n c = c := by
  unfold wsetEffect
  rw [h]

theorem wsetEffect_of_pending {p : W16 × W64} (h : (c.ctx n).pendSet = some p) : wsetEffect n c =
    Chip.when (decide (p.2.toNat ≤ c.now))
      (fun c => (c.updCtx n (fun x => { x with curSet := some p.1, pendSet := none })).freeSet n (c.ctx n).curSet) c := by
  unfold wsetEffect
  rw [h]

/-! ### wgt.drop (R116) -/

theorem wgtDrop_of_noSet (h : c.wset (wgtNum q) = none) : wgtDrop n q c = c.answer n q stBadArg [] 0 := by
  rw [wgtNum] at h
  unfold wgtDrop
  simp only [h]

/-- A set that is staged or verified, that an uncommitted run is bound to, or that is current or pending in its context. -/
def Chip.setInUse (c : Chip) (n : Nat) (q : Req) : Bool :=
  c.setBusy (wgtNum q) || c.setBound (wgtNum q) || (c.ctx n).curSet == some (wgtNum q) ||
    ((c.ctx n).pendSet.map (fun p => p.1 == wgtNum q)).getD false

theorem wgtDrop_of_set (h : (c.wset (wgtNum q)).isSome = true) :
    wgtDrop n q c = if c.setInUse n q then c.refuse n q stBusy else (c.withoutSet (wgtNum q)).refuse n q stOk := by
  obtain ⟨w, hw⟩ := Option.isSome_iff_exists.1 h
  rw [wgtNum] at hw
  unfold wgtDrop
  simp only [hw]
  rfl

end

end Sys2Proof.Machine

namespace Sys2Proof
open Sys2Proof.Machine

/-- Settles O37: each clause is one case of its command, of the end of a copy or of a read-back, or of the pending set's mark. That a copy with
a failed host read writes nothing (log 121, DESIGN CHOICE), what stands after a digest mismatch and the order of wgt.switch's refusals (log 32,
DEDUCED) are the model's. -/
theorem weightSetsAreStagedVerifiedSwitchedAndDropped : Obligations.WeightSetsAreStagedVerifiedSwitchedAndDropped := by
  unfold Obligations.WeightSetsAreStagedVerifiedSwitchedAndDropped
  rintro s _ who _ busErr q _ hl rfl rfl rfl
  refine ⟨?_, ?_, fun hr => ?_, fun hr => ?_, fun none_ => ?_, fun p pending => ⟨fun early => ?_, fun due => ?_⟩, ?_, ?_⟩
  · rintro hr _ _ rfl rfl
    rw [exec_wgtStage hl busErr hr]
    refine ⟨fun h => by rw [wgtStage_of_unaligned h], fun h0 h => by rw [wgtStage_of_badLen h0 h], fun h0 hp h64 =>
      ⟨fun hn => by rw [wgtStage_of_noRegion ⟨h0, hp, h64⟩ hn], fun r hreg => ?_⟩⟩
    rw [wgtStage_of_region ⟨h0, hp, h64⟩ hreg]
    refine ⟨fun foreign => by rw [if_pos (by simpa [Chip.stageForeign, wgtNum] using foreign)], fun own set => ?_⟩
    have mine : s.chip.stageForeign (issuerNum who) q r = false := by simpa [Chip.stageForeign, wgtNum, own] using set
    rw [if_neg (ne_true_of_eq_false mine)]
    refine ⟨fun full => by rw [if_pos (by simpa [Chip.stageFull] using .inl full)], fun space sets chunks => ?_⟩
    have room : s.chip.stageFull q r = false := by simp [Chip.stageFull, space, sets, chunks]
    rw [if_neg (ne_true_of_eq_false room)]
    refine ⟨fun busy => by rw [if_pos (by simpa [Chip.stageBusy, wgtNum, or_assoc] using busy)], fun region new place => ?_⟩
    have free : s.chip.stageBusy q r = false := by
      rw [Chip.stageBusy, wgtNum, new, region, place]; rfl
    rw [if_neg (ne_true_of_eq_false free)]
    refine ⟨fun err => by rw [if_pos err], ?_⟩
    rintro read _ rfl
    rw [if_neg (ne_true_of_eq_false read)]
    refine ⟨fun bad => ?_, fun ref whole units sum => ?_⟩
    · rw [if_pos]
      rcases bad with h | h | h <;> simp [badScatter, h]
    · rw [if_neg (by simpa [badScatter, whole, units, sum] using ref)]
      rfl
  · intro hr
    rw [exec_wgtVerify hl busErr hr]
    refine ⟨fun hn => by rw [wgtVerify_of_noSet hn], ?_⟩
    rintro w _ _ hw rfl rfl
    refine ⟨fun busy => by rw [wgtVerify_of_set hw, wgtNum, if_pos busy], fun free bad => by rw [wgtVerify_of_badRow hw free bad],
      fun free h64 hp resident => ?_⟩
    rw [wgtVerify_of_goodRow hw free (not_badVerify h64 hp resident)]
    refine ⟨fun h => by rw [if_pos h], fun ref len err => ?_, fun ref len read => ?_⟩
    · rw [if_neg (not_or.2 ⟨ref, Nat.not_lt.2 len⟩), if_pos err]
    · rw [if_neg (not_or.2 ⟨ref, Nat.not_lt.2 len⟩), if_neg (ne_true_of_eq_false read), wgtNum]
  · rw [exec_wgtSwitch hl hr]
    refine ⟨fun h1 h2 => by rw [wgtSwitch_of_untimed h1 h2], fun timed => ?_⟩
    rw [wgtSwitch_of_timed timed, wgtNum]
    refine ⟨fun busy => by rw [if_pos busy], fun free unready => by rw [if_neg (ne_true_of_eq_false free), if_pos (by simp [unready])],
      fun free ready => ?_⟩
    rw [if_neg (ne_true_of_eq_false free), if_neg (by simp [ready])]
    refine ⟨fun early => by rw [if_pos early], fun late pending => ?_, fun late idle => ?_⟩
    · rw [if_neg (Nat.not_lt.2 late), if_pos pending]
    · rw [if_neg (Nat.not_lt.2 late), if_neg (ne_true_of_eq_false idle)]
  · rw [exec_wgtDrop hl hr]
    refine ⟨fun hn => by rw [wgtDrop_of_noSet hn], ?_⟩
    rintro hset _ rfl
    rw [wgtDrop_of_set hset]
    exact ⟨fun used => congrArg _ (congrArg _ (if_pos used)), fun free => congrArg _ (congrArg _ (if_neg (ne_true_of_eq_false free)))⟩
  · rw [exec_wsetEffect hl, wsetEffect_of_none none_, after_chip]
  · rw [exec_wsetEffect hl, wsetEffect_of_pending pending, when_of_false (by simpa using early), after_chip]
  · rw [exec_wsetEffect hl, wsetEffect_of_pending pending, when_of (by simpa using due)]
  · rintro set ep b w list hb hw kind running
    rw [exec_wgtStageDone hl]
    refine ⟨fun failed => by rw [wgtStageDone_of_failedRead hb hw kind running failed, Chip.withoutSet], ?_⟩
    rintro read clean _ _ rfl rfl
    rw [wgtStageDone_of_staging hb hw kind running, if_neg (by simp [read, clean])]
    exact ⟨fun same => congrArg _ (congrArg _ (if_pos same)), fun other => congrArg _ (congrArg _ (if_neg other))⟩
  · rintro set b w k p digs d hb hw kind running hd
    rw [exec_wgtVerifyDone hl, wgtVerifyDone_of_verifying hb hw kind running hd]
    refine ⟨fun damaged => by rw [if_pos damaged], fun sound poison => by rw [if_neg (ne_true_of_eq_false sound), if_pos poison],
      fun sound clean => ?_⟩
    rw [if_neg (ne_true_of_eq_false sound), if_neg (ne_true_of_eq_false clean)]
    refine ⟨fun differ => by rw [if_pos differ], ?_⟩
    rintro same digest _ rfl
    rw [if_neg (by simp [same, digest]), Chip.markVerified]

end Sys2Proof
end

section
/-! PROOFS of the statements that earlier sittings left, runs: what run.status answers, and the refutation of the statement on runs. -/
namespace Sys2Proof.Machine

/-! ### A response that waits for room (R437) -/

section
variable {c : Chip} {n : Nat} {q : Req}

/-- A response ring without room takes nothing. -/
theorem flushRsps_of_full (h : 64 < ((c.ctx n).rspTail - (c.ctx n).rspHead).toNat) (k : Nat) : flushRsps n k c = c := by
  cases k with
  | zero => rfl
  | succ k =>
    unfold flushRsps
    dsimp only
    split
    · rfl
    · exact if_neg (by omega)

/-- The words of the responses of a mailbox that wait for room. -/
def Chip.waitingWords (c : Chip) (n : Nat) : List (List Byte) := (c.ctx n).rsps.map (fun r => r.payload)

/-- With no room in the ring, an answer of words waits behind the responses that wait. -/
theorem okay_waitingWords_of_full (hw : tblWf Ctx.init c.ctxs = true) (h : 64 < ((c.ctx n).rspTail - (c.ctx n).rspHead).toNat) (ws : List W64) :
    (c.okay n q ws).waitingWords n = c.waitingWords n ++ [wordsBytes ws] := by
  have taken : tblWf Ctx.init (c.updCtx n (fun x => { x with cur := none })).ctxs = true := tblPut_wf Ctx.init hw n _
  unfold Chip.waitingWords Chip.okay Chip.answer Chip.respond
  rw [flushRsps_of_full] <;> rw [ctx_updCtx _ taken, if_pos rfl, ctx_updCtx _ hw, if_pos rfl]
  · simp
  · exact h

/-- So two answers that leave the module alike carry the same words. -/
theorem okay_words_inj (hw : tblWf Ctx.init c.ctxs = true) (h : 64 < ((c.ctx n).rspTail - (c.ctx n).rspHead).toNat) {s : State} {ws vs : List W64}
    (same : (.next (after s (c.okay n q ws)) : Host.Outcome State Fault Refusal) = .next (after s (c.okay n q vs))) :
    wordsBytes ws = wordsBytes vs := by
  have waits := congrArg (fun t : State => t.chip.waitingWords n) (Host.Outcome.next.inj same)
  dsimp only [after] at waits
  rw [okay_waitingWords_of_full hw h, okay_waitingWords_of_full hw h] at waits
  exact List.singleton_inj.1 (List.append_cancel_left waits)

end

/-! ### run.status (R441) -/

theorem exec_runStatus {s : State} {who : Issuer} {q : Req} (hl : s.live = true) (hr : Requested s.chip (issuerNum who) 0x0601 q) :
    exec (.runStatus who) s = .next (after s (runStatus (issuerNum who) q s.chip)) := onChip_onReq_of_requested hl rfl hr rfl _

theorem runStatus_of_run {c : Chip} {n : Nat} {q : Req} {r : Run} (h : c.runOf (BitVec.ofNat 16 (fld (q.w 0) 15 0)) = some r) :
    runStatus n q c = c.okay n q (c.runWords r) := by
  unfold runStatus
  rw [h]

/-! ### A run whose drain step is over -/

/-- A run of one step that has reached the end of its drain step: two boundaries. -/
def drainedRun : Run :=
  { num := 0, ctx := 0, image := 0, size := 0, base := 0, first := 0, seed := 0, det := false, compat := 0, grid := false, role := 0, line := false,
    brk := 0, tilesOff := 0, steps := [0], commits := [], endOff := 0, berths := [], exports := [], wins := [], budget := [], tiles := [],
    set := none, digest := [], state := .running, reached := 2, committed := 0, reported := 0, baseSeen := true, cancelling := false }

/-- run.status of run 0. -/
def statusOfZero : Req := { opcode := 0x0601, gen := 0, seq := 0, len := 0, ref := 0, refLen := 0, payload := [] }

/-- A mailbox with run.status in hand and a host that has read none of more responses than its ring holds. -/
def fullMailbox : Ctx := { Ctx.init with opened := true, cur := some statusOfZero, rspTail := 65 }

/-- The module with that run, its Keeper running. -/
def drainedChip : Chip :=
  { Chip.init [] ⟨[], [], true⟩ 0 with
    runs := [drainedRun], ctxs := [(0, fullMailbox)], keeper := { Keeper.init with state := .running } }

/-- The reset state with that module. -/
def drainedState : State := { State.reset with chip := drainedChip }

theorem drainedState_requested : Requested drainedState.chip (issuerNum (.ctx 0)) 0x0601 statusOfZero := ⟨by decide, by decide, by decide⟩

theorem drainedChip_runOf : drainedChip.runOf (BitVec.ofNat 16 (fld (statusOfZero.w 0) 15 0)) = some drainedRun := by decide

/-- run.status of it answers the words of its run. -/
theorem exec_drained_runStatus : exec (.runStatus (.ctx 0)) drainedState =
    .next (after drainedState (drainedChip.okay 0 statusOfZero (drainedChip.runWords drainedRun))) := by
  rw [exec_runStatus rfl drainedState_requested]
  exact congrArg (fun c => Host.Outcome.next (after drainedState c)) (runStatus_of_run (c := drainedChip) drainedChip_runOf)

/-- The words that the statement gives: FROZEN and STATE, the boundaries reached less one, and the last commit. -/
def claimedWords : List W64 :=
  [mkWord [(16, 16, (drainedRun.tiles.filter (fun t => (drainedChip.tile t).st == .frozen)).length), (0, 3, drainedChip.runState drainedRun)],
    addN drainedRun.first (drainedRun.reached - 1), addN drainedRun.first drainedRun.committed]

/-- The step of run.status is the last step's, 0, where the boundaries reached less one are 1. -/
theorem drained_words_differ : wordsBytes (drainedChip.runWords drainedRun) ≠ wordsBytes claimedWords := by
  decide

end Sys2Proof.Machine

namespace Sys2Proof
open Sys2Proof.Machine

/-- Refutes O38: once a run's drain step is over, the boundaries reached are two more than the number of its last step, and run.status answers
that last step (`Run.step`), not the boundaries reached less one. -/
theorem not_runsAreLaunchedLoadedBegunAndCancelled : ¬ Obligations.RunsAreLaunchedLoadedBegunAndCancelled := by
  unfold Obligations.RunsAreLaunchedLoadedBegunAndCancelled
  intro h
  obtain ⟨-, -, -, status, -⟩ := h drainedState drainedChip (.ctx 0) 0 statusOfZero rfl rfl rfl
  obtain ⟨-, words⟩ := status drainedState_requested
  have claimed := exec_drained_runStatus.symm.trans (words drainedRun drainedChip_runOf)
  exact drained_words_differ (okay_words_inj (c := drainedChip) (by decide) (by decide) claimed)

end Sys2Proof
end

section
/-! PROOFS of the statements that earlier sittings left, the training of a strait: presence, detection, equalisation, alignment,
identification and retraining, and the statement. -/
namespace Sys2Proof.Machine

section
variable {s : State} {st : Strait} (hl : s.live = true)
include hl

theorem exec_cablePresent : exec (.cablePresent st) s = .next (after s (cablePresent st s.chip)) := onChip_live hl _
theorem exec_cableRemoved : exec (.cableRemoved st) s = .next (after s (cableRemoved st s.chip)) := onChip_live hl _
theorem exec_detectRetry : exec (.detectRetry st) s = .next (after s (detectRetry st s.chip)) := onChip_live hl _
theorem exec_detectDone (lanes : BitVec 16) : exec (.detectDone st lanes) s = .next (after s (detectDone st lanes s.chip)) := onChip_live hl _
theorem exec_equaliseDone (lanes : BitVec 16) :
    exec (.equaliseDone st lanes) s = .next (after s (equaliseDone st lanes s.chip)) := onChip_live hl _
theorem exec_alignDone (rev : Bool) : exec (.alignDone st rev) s = .next (after s (alignDone st rev s.chip)) := onChip_live hl _
theorem exec_identifyTimeout : exec (.identifyTimeout st) s = .next (after s (identifyTimeout st s.chip)) := onChip_live hl _
theorem exec_fecLockLoss : exec (.fecLockLoss st) s = .next (after s (fecLockLoss st s.chip)) := onChip_live hl _
theorem exec_crcSilenceTimeout : exec (.crcSilenceTimeout st) s = .next (after s (crcSilenceTimeout st s.chip)) := onChip_live hl _
theorem exec_retrainDone (lanes : BitVec 16) : exec (.retrainDone st lanes) s = .next (after s (retrainDone st lanes s.chip)) := onChip_live hl _
theorem exec_retrainTimeout : exec (.retrainTimeout st) s = .next (after s (retrainTimeout st s.chip)) := onChip_live hl _

end

section
variable {c : Chip} {st : Strait}

theorem inTrain_eq_true {t : Train} (h : (c.str st).train = t) : c.inTrain st t = true := beq_iff_eq.2 h
theorem inTrain_eq_false {t : Train} (h : (c.str st).train ≠ t) : c.inTrain st t = false := beq_eq_false_iff_ne.2 h

theorem updStr_congr {f g : Str → Str} (h : f (c.str st) = g (c.str st)) : c.updStr st f = c.updStr st g := congrArg (c.setStr st) h

/-! ### Presence (R382, R385) -/

theorem cablePresent_of_down (down : (c.str st).train = .down) (retries : (c.str st).noRetry = false) :
    cablePresent st c = c.updStr st (fun y => { y with present := true, train := .detect, since := c.up }) :=
  updStr_congr (if_pos (by simp [down, retries]))

theorem cablePresent_of_trained (h : (c.str st).train ≠ .down ∨ (c.str st).noRetry = true) :
    cablePresent st c = c.updStr st (fun y => { y with present := true }) := by
  refine updStr_congr (if_neg ?_)
  rcases h with h | h <;> simp [h]

/-- The strait without presence. -/
def Chip.absent (c : Chip) (st : Strait) : Chip := c.updStr st (fun y => { y with present := false })

theorem absent_inTrain (t : Train) : (c.absent st).inTrain st t = c.inTrain st t := by
  simp [Chip.inTrain, Chip.absent]

theorem cableRemoved_of_up (h : (c.str st).train = .up ∨ (c.str st).train = .retrain) : cableRemoved st c = (c.absent st).linkDown st 1 := by
  refine if_pos ?_
  rcases h with h | h <;> simp [Chip.inTrain, h]

theorem cableRemoved_of_other (h1 : (c.str st).train ≠ .up) (h2 : (c.str st).train ≠ .retrain) : cableRemoved st c =
    if (c.absent st).inTrain st .down then c.absent st else ((c.absent st).updStr st (fun y => y.toDown c.up)).lockLost st :=
  if_neg (by simp [Chip.inTrain, h1, h2])

theorem cableRemoved_of_down (h : (c.str st).train = .down) : cableRemoved st c = c.absent st := by
  rw [cableRemoved_of_other (by simp [h]) (by simp [h]), absent_inTrain, if_pos (inTrain_eq_true h)]

theorem cableRemoved_of_training (h1 : (c.str st).train ≠ .up) (h2 : (c.str st).train ≠ .retrain) (h3 : (c.str st).train ≠ .down) :
    cableRemoved st c = ((c.absent st).updStr st (fun y => y.toDown c.up)).lockLost st := by
  rw [cableRemoved_of_other h1 h2, absent_inTrain, if_neg (ne_true_of_eq_false (inTrain_eq_false h3))]

/-! ### The times of the training states (R382) -/

/-- The strait goes DOWN once it has been ms milliseconds in the state t. -/
def Chip.timeOut (c : Chip) (st : Strait) (t : Train) (ms : Nat) : Chip :=
  Chip.when (c.inTrain st t && decide (msTk ms ≤ c.sinceTrain st)) (fun c => c.updStr st (fun x => x.toDown c.up)) c

/-- DETECT_TIMEOUT, EQUALISE_TIMEOUT and ALIGN_TIMEOUT are one rule, each with its own state and time. -/
theorem exec_trainTimeout {s : State} (hl : s.live = true) {i : Instr} {t : Train} {ms : Nat} (h : (i = .detectTimeout st ∧ t = .detect ∧ ms = 1) ∨
    (i = .equaliseTimeout st ∧ t = .equalise ∧ ms = 8) ∨ (i = .alignTimeout st ∧ t = .align ∧ ms = 1)) :
    exec i s = .next (after s (s.chip.timeOut st t ms)) := by
  rcases h with ⟨rfl, rfl, rfl⟩ | ⟨rfl, rfl, rfl⟩ | ⟨rfl, rfl, rfl⟩
  · exact onChip_live hl (detectTimeout st)
  · exact onChip_live hl (equaliseTimeout st)
  · exact onChip_live hl (alignTimeout st)

theorem msTk_le {ms n : Nat} : msTk ms ≤ n ↔ ms * 117500 ≤ n := by rw [msTk, Nat.mul_comm]

section
variable {t : Train} {ms : Nat}

theorem timeOut_of_due (h : (c.str st).train = t) (due : ms * 117500 ≤ c.up - (c.str st).since) :
    c.timeOut st t ms = c.updStr st (fun y => y.toDown c.up) :=
  when_of (by rw [inTrain_eq_true h]; exact decide_eq_true (msTk_le.2 due)) _ c

theorem timeOut_of_early_or_other (h : (c.str st).train ≠ t ∨ c.up - (c.str st).since < ms * 117500) : c.timeOut st t ms = c := by
  refine when_of_false (Bool.and_eq_false_iff.2 ?_) _ c
  exact h.imp inTrain_eq_false fun early => decide_eq_false fun due => Nat.not_le.2 early (msTk_le.1 due)

end

theorem identifyTimeout_of_due (h : (c.str st).train = .identify) (unseen : (c.str st).probeSeen = false)
    (due : 117500 ≤ c.up - (c.str st).since) : identifyTimeout st c = (c.updStr st (fun y => y.toDown c.up)).lockLost st :=
  when_of (by simp [inTrain_eq_true h, unseen, msTk, Chip.sinceTrain, due]) _ c

theorem identifyTimeout_of_early_or_other (h : (c.str st).train ≠ .identify ∨ (c.str st).probeSeen = true ∨ c.up - (c.str st).since < 117500) :
    identifyTimeout st c = c := by
  refine when_of_false ?_ _ c
  rcases h with h | h | h
  · simp [inTrain_eq_false h]
  · simp [h]
  · have early : ¬msTk 1 ≤ c.sinceTrain st := Nat.not_le.2 h
    simp [early]

/-! ### Detection, equalisation and alignment (R379 to R382) -/

theorem detectRetry_of_due {t : Nat} (down : (c.str st).train = .down) (present : (c.str st).present = true)
    (retries : (c.str st).noRetry = false) (at_ : (c.str st).retryAt = some t) (due : t ≤ c.up) :
    detectRetry st c = c.updStr st (fun y => { y with train := .detect, since := c.up, retryAt := none }) := by
  unfold detectRetry
  dsimp only
  rw [when_of (by simp [down, present, retries, at_, due])]
  rfl

theorem detectRetry_of_early {t : Nat} (at_ : (c.str st).retryAt = some t) (early : c.up < t) : detectRetry st c = c := by
  unfold detectRetry
  dsimp only
  rw [when_of_false (by simp [at_, early])]

theorem detectRetry_of_other (h : (c.str st).train ≠ .down ∨ (c.str st).present = false ∨ (c.str st).noRetry = true ∨
    (c.str st).retryAt = none) : detectRetry st c = c := by
  unfold detectRetry
  dsimp only
  rw [when_of_false]
  rcases h with h | h | h | h <;> simp [h]

theorem detectDone_of_detect {lanes : BitVec 16} (h : (c.str st).train = .detect) (four : 4 ≤ popCount lanes)
    (inTime : c.up - (c.str st).since ≤ 117500) : detectDone st lanes c = c.updStr st (fun y => { y with train := .equalise, since := c.up }) :=
  when_of (by simp [inTrain_eq_true h, four, msTk, Chip.sinceTrain, inTime]) _ c

theorem detectDone_of_other {lanes : BitVec 16} (h : (c.str st).train ≠ .detect ∨ popCount lanes < 4 ∨ 117500 < c.up - (c.str st).since) :
    detectDone st lanes c = c := by
  refine when_of_false ?_ _ c
  rcases h with h | h | h
  · simp [inTrain_eq_false h]
  · simp [h]
  · have late : ¬c.sinceTrain st ≤ msTk 1 := Nat.not_le.2 h
    simp [late]

theorem equaliseDone_of_equalise (lanes : BitVec 16) (h : (c.str st).train = .equalise) (inTime : c.up - (c.str st).since ≤ 8 * 117500) :
    equaliseDone st lanes c = (c.updStr st (fun y => { y with laneOk := lanes })).startAlign st :=
  when_of (by simpa [inTrain_eq_true h, msTk, Chip.sinceTrain] using inTime) _ c

theorem equaliseDone_of_other (lanes : BitVec 16) (h : (c.str st).train ≠ .equalise ∨ 8 * 117500 < c.up - (c.str st).since) :
    equaliseDone st lanes c = c := by
  refine when_of_false (Bool.and_eq_false_iff.2 ?_) _ c
  exact h.imp inTrain_eq_false fun late => decide_eq_false (Nat.not_le.2 late)

/-- ALIGN is left: with the width of the lanes, for IDENTIFY and a PROBE, or without one for DOWN. -/
theorem alignDone_of_align (rev : Bool) (h : (c.str st).train = .align) (inTime : c.up - (c.str st).since ≤ 117500) (credit : 0 < (c.str st).farBuf.m) :
    alignDone st rev c = if widthOf (c.str st).laneOk = 3 then c.updStr st (fun y => y.toDown c.up)
      else (c.updStr st (fun y => { y with train := .identify, since := c.up, width := widthOf (c.str st).laneOk, reversed := rev })).sendProbe st := by
  unfold alignDone
  dsimp only
  rw [when_of (by simp [h, credit, msTk, Chip.sinceTrain, inTime])]
  rfl

theorem alignDone_of_other (rev : Bool) (h : (c.str st).train ≠ .align ∨ 117500 < c.up - (c.str st).since ∨ (c.str st).farBuf.m = 0) :
    alignDone st rev c = c := by
  unfold alignDone
  dsimp only
  rw [when_of_false]
  rcases h with h | h | h
  · simp [h]
  · have late : ¬c.sinceTrain st ≤ msTk 1 := Nat.not_le.2 h
    simp [late]
  · simp [h]

/-! ### Retraining (R383 to R385) -/

theorem fecLockLoss_of_up (h : (c.str st).train = .up) : fecLockLoss st c = (c.enterRetrain st).lockLost st := when_of (inTrain_eq_true h) _ c
theorem fecLockLoss_of_other (h : (c.str st).train ≠ .up) : fecLockLoss st c = c := when_of_false (inTrain_eq_false h) _ c

theorem crcSilenceTimeout_of_due (h : (c.str st).train = .up) (due : silenceTk (c.str st).width ≤ c.up - (c.str st).lastGood) :
    crcSilenceTimeout st c = c.enterRetrain st := when_of (by simp [inTrain_eq_true h, due]) _ c

theorem crcSilenceTimeout_of_early_or_other (h : (c.str st).train ≠ .up ∨ c.up - (c.str st).lastGood < silenceTk (c.str st).width) :
    crcSilenceTimeout st c = c := by
  refine when_of_false (Bool.and_eq_false_iff.2 ?_) _ c
  exact h.imp inTrain_eq_false fun early => decide_eq_false (Nat.not_le.2 early)

/-- The width after a retrain that found lanes: never wider than before. -/
def Str.retrainedWidth (x : Str) (lanes : BitVec 16) : BitVec 2 := if x.width.toNat ≤ (widthOf lanes).toNat then widthOf lanes else x.width

/-- The strait UP again at its width, with its unacknowledged flits to send. -/
def Str.retrainedUp (x : Str) (lanes : BitVec 16) (now : Nat) : Str :=
  { x with train := .up, since := now, laneOk := lanes, width := x.retrainedWidth lanes, resend := x.replay, lastGood := now,
           degraded := x.degraded || decide (x.retrainedWidth lanes ≠ x.width) }

theorem retrainDone_of_retrain {lanes : BitVec 16} (h : (c.str st).train = .retrain) (inTime : c.up - (c.str st).since ≤ 17625)
    (group : widthOf lanes ≠ 3) : retrainDone st lanes c =
      (if (c.str st).retrainedWidth lanes = (c.str st).width then c.setStr st ((c.str st).retrainedUp lanes c.up)
       else (c.setStr st ((c.str st).retrainedUp lanes c.up)).evStr st 0x0602
        (mkWord [(32, 16, lanes.toNat), (14, 2, ((c.str st).retrainedWidth lanes).toNat)]) 0).sendProbe st := by
  unfold retrainDone
  dsimp only
  rw [when_of (by simpa [h, retrainTk, Chip.sinceTrain, inTime] using group)]
  rfl

theorem retrainDone_of_other {lanes : BitVec 16} (h : (c.str st).train ≠ .retrain ∨ 17625 < c.up - (c.str st).since ∨ widthOf lanes = 3) :
    retrainDone st lanes c = c := by
  unfold retrainDone
  dsimp only
  rw [when_of_false]
  rcases h with h | h | h
  · simp [h]
  · have late : ¬c.sinceTrain st ≤ retrainTk := Nat.not_le.2 h
    simp [late]
  · simp [h]

theorem retrainTimeout_of_due (h : (c.str st).train = .retrain) (due : 17625 ≤ c.up - (c.str st).since) : retrainTimeout st c = c.linkDown st 2 :=
  when_of (by simp [inTrain_eq_true h, retrainTk, Chip.sinceTrain, due]) _ c

theorem retrainTimeout_of_early_or_other (h : (c.str st).train ≠ .retrain ∨ c.up - (c.str st).since < 17625) : retrainTimeout st c = c := by
  refine when_of_false (Bool.and_eq_false_iff.2 ?_) _ c
  exact h.imp inTrain_eq_false fun early => decide_eq_false (Nat.not_le.2 early)

end

end Sys2Proof.Machine

namespace Sys2Proof
open Sys2Proof.Machine

/-- Settles O42: each event is its one case of state and time. The retry 10 ms after a fall from EQUALISE or ALIGN (log 8) and the strait's
clock as no valid source once its lock is lost (log 84) are the model's reading, DEDUCED. -/
theorem straitTrainingMovesByItsEvents : Obligations.StraitTrainingMovesByItsEvents := by
  unfold Obligations.StraitTrainingMovesByItsEvents
  rintro s c st _ hl rfl rfl
  refine ⟨fun down retries => ?_, fun h => ?_, fun up => ?_, fun down => ?_, fun training => ?_, fun i t ms row => ?_, fun h unseen due => ?_, fun h => ?_,
    fun t down present retries at_ => ⟨fun due => ?_, fun early => ?_⟩, fun h => ?_,
    fun lanes => ⟨fun h four inTime => ?_, fun h => ?_, fun h inTime => ?_, fun h => ?_, ?_, fun h => ?_⟩,
    fun rev h inTime credit => ?_, fun rev h => ?_, fun h => ⟨?_, fun due => ?_, fun early => ?_⟩, fun h => ⟨?_, ?_⟩, fun h due => ?_, fun h => ?_⟩
  · rw [exec_cablePresent hl, cablePresent_of_down down retries]
  · rw [exec_cablePresent hl, cablePresent_of_trained h]
  · rw [exec_cableRemoved hl, cableRemoved_of_up up, Chip.absent]
  · rw [exec_cableRemoved hl, cableRemoved_of_down down, Chip.absent]
  · have other {t : Train} (hd : t ≠ .detect) (he : t ≠ .equalise) (ha : t ≠ .align) (hi : t ≠ .identify) : (s.chip.str st).train ≠ t := by
      rintro rfl
      rcases training with h | h | h | h
      · exact hd h
      · exact he h
      · exact ha h
      · exact hi h
    rw [exec_cableRemoved hl, cableRemoved_of_training (other nofun nofun nofun nofun) (other nofun nofun nofun nofun)
      (other nofun nofun nofun nofun), Chip.absent]
  · rw [exec_trainTimeout hl row]
    exact ⟨fun h due => by rw [timeOut_of_due h due], fun h => by rw [timeOut_of_early_or_other h, after_chip]⟩
  · rw [exec_identifyTimeout hl, identifyTimeout_of_due h unseen due]
  · rw [exec_identifyTimeout hl, identifyTimeout_of_early_or_other h, after_chip]
  · rw [exec_detectRetry hl, detectRetry_of_due down present retries at_ due]
  · rw [exec_detectRetry hl, detectRetry_of_early at_ early, after_chip]
  · rw [exec_detectRetry hl, detectRetry_of_other h, after_chip]
  · rw [exec_detectDone hl, detectDone_of_detect h four inTime]
  · rw [exec_detectDone hl, detectDone_of_other h, after_chip]
  · rw [exec_equaliseDone hl, equaliseDone_of_equalise lanes h inTime]
  · rw [exec_equaliseDone hl, equaliseDone_of_other lanes h, after_chip]
  · rintro h inTime group _ _ rfl rfl
    rw [exec_retrainDone hl, retrainDone_of_retrain h inTime group]
    exact ⟨fun same => congrArg (fun d : Chip => Host.Outcome.next (after s (d.sendProbe st))) (if_pos same),
      fun narrower => congrArg (fun d : Chip => Host.Outcome.next (after s (d.sendProbe st))) (if_neg narrower)⟩
  · rw [exec_retrainDone hl, retrainDone_of_other h, after_chip]
  · rw [exec_alignDone hl, alignDone_of_align rev h inTime credit]
    exact ⟨fun none_ => by rw [if_pos none_], fun group => by rw [if_neg group]⟩
  · rw [exec_alignDone hl, alignDone_of_other rev h, after_chip]
  · rw [exec_fecLockLoss hl, fecLockLoss_of_up h]
  · rw [exec_crcSilenceTimeout hl, crcSilenceTimeout_of_due h due]
  · rw [exec_crcSilenceTimeout hl, crcSilenceTimeout_of_early_or_other (.inr early), after_chip]
  · rw [exec_fecLockLoss hl, fecLockLoss_of_other h, after_chip]
  · rw [exec_crcSilenceTimeout hl, crcSilenceTimeout_of_early_or_other (.inl h), after_chip]
  · rw [exec_retrainTimeout hl, retrainTimeout_of_due h due]
  · rw [exec_retrainTimeout hl, retrainTimeout_of_early_or_other h, after_chip]

end Sys2Proof
end

section
/-! PROOFS of the statements that earlier sittings left, slacks, steps and commits: SLACK_REQ#, the cut mark and the hold; step boundaries,
berths, and a commit's shadows, reports and declaration; and the two statements. -/
namespace Sys2Proof.Machine

section
variable {s : State} (hl : s.live = true)
include hl

theorem exec_slackReqPin : exec .slackReqPin s = .next (after s (slackReqPin s.chip)) := onChip_live hl _
theorem exec_slackReqRelease : exec .slackReqRelease s = .next (after s (slackReqRelease s.chip)) := onChip_live hl _
theorem exec_slackCutMark : exec .slackCutMark s = .next (after s (slackCutMark s.chip)) := onChip_live hl _
theorem exec_slackReached : exec .slackReached s = .next (after s (slackReached s.chip)) := onChip_live hl _
theorem exec_stepBoundary : exec .stepBoundary s = .next (after s (stepBoundary s.chip)) := onChip_live hl _
theorem exec_berthRelease (k : BitVec 9) : exec (.berthRelease k) s = .next (after s (s.chip.releaseBerth k.toNat)) :=
  onChip_live hl (fun c => c.releaseBerth k.toNat)
theorem exec_commitShadow (t : TileId) : exec (.commitShadow t) s = .next (after s (commitShadow t.toNat s.chip)) := onChip_live hl _
theorem exec_commitReport : exec .commitReport s = .next (after s (commitReport s.chip)) := onChip_live hl _
theorem exec_commitReportArrival (pos : BitVec 6) (b : W32) :
    exec (.commitReportArrival pos b) s = .next (after s (commitReportArrival pos b s.chip)) := onChip_live hl _
theorem exec_commitDeclare (b : W32) : exec (.commitDeclare b) s = .next (after s (commitDeclare b s.chip)) := onChip_live hl _

end

section
variable {c : Chip}

/-! ### SLACK_REQ# (R480) -/

/-- The pin is low and disarmed. -/
def Chip.pinHeld (c : Chip) : Chip := { c with slack := { c.slack with pinLow := true, armed := false } }

theorem slackReqPin_of_armed (h : c.slack.armed = true) : slackReqPin c = (c.pinHeld.evMod 0x0803 c.pinHeld.tide.count 0).requestSlack .pin :=
  if_pos h

theorem slackReqPin_of_disarmed (h : c.slack.armed = false) : slackReqPin c = c.pinHeld := if_neg (ne_true_of_eq_false h)

/-! ### The cut mark (R82, R472) -/

theorem slackCutMark_of_noCut (h : c.slack.cut = none) : slackCutMark c = c := by
  unfold slackCutMark
  rw [h]

/-- The cut is in effect. -/
def Chip.cutNow (c : Chip) : Chip := { c with slack := { c.slack with inEffect := true } }

/-- A cut that this member knows as forced starts a recovery of the active run, unless one is open. -/
def Chip.cutRecovers (c : Chip) : Bool :=
  c.cutNow.forcedHere && c.cutNow.run.isSome && (c.recov.phase == .none || c.recov.phase == .cut) && !c.recov.open_

theorem cutRecovers_iff : c.cutRecovers = true ↔ c.cutNow.forcedHere = true ∧ c.cutNow.run.isSome = true ∧
    (c.recov.phase = .none ∨ c.recov.phase = .cut) ∧ c.recov.open_ = false := by
  simp [Chip.cutRecovers, and_assoc]

section
variable {m : W64} (hm : c.slack.cut = some m)
include hm

theorem slackCutMark_of_early_or_done (h : c.slack.inEffect = true ∨ c.cutHolds c.now = false) : slackCutMark c = c := by
  unfold slackCutMark
  rw [hm]
  refine when_of_false ?_ _ c
  rcases h with h | h <;> simp [h]

theorem slackCutMark_of_due (new : c.slack.inEffect = false) (due : c.cutHolds c.now = true) :
    slackCutMark c = if c.cutRecovers then c.cutNow.startRecovery m else c.cutNow := by
  unfold slackCutMark
  rw [hm]
  exact when_of (by simp [new, due]) _ c

end

/-! ### The hold at a slack (R82, R479) -/

theorem slackReached_of_noCut (h : c.slack.cut = none) : slackReached c = c := by
  unfold slackReached
  rw [h]

/-- The work and the commits before a cut in effect are done, and no recovery runs. -/
def Chip.holds (c : Chip) : Bool :=
  c.slack.inEffect && !c.slack.atSlack && c.recov.phase == .none && !c.recov.open_ && c.workDone && c.commitsDone

theorem holds_iff : c.holds = true ↔ c.slack.inEffect = true ∧ c.slack.atSlack = false ∧ c.recov.phase = .none ∧ c.recov.open_ = false ∧
    c.workDone = true ∧ c.commitsDone = true := by
  simp [Chip.holds, and_assoc]

theorem slackReached_of_cut {m : W64} (hm : c.slack.cut = some m) : slackReached c = Chip.when c.holds (fun c => c.baseMark.holdAt m) c := by
  unfold slackReached
  rw [hm]
  rfl

/-! ### Step boundaries (R79, R94) -/

theorem stepBoundary_of_noRun (h : c.run = none) : stepBoundary c = c := by
  unfold stepBoundary
  rw [h]

/-- The next boundary of a run is reached: its mark has come, the cut does not hold it, and the time base is aligned. -/
def Chip.boundaryReached (c : Chip) (r : Run) : Bool :=
  decide (r.reached ≤ r.steps.length) && decide (c.boundaryMark r r.reached ≤ c.now) && !c.cutHolds (c.boundaryMark r r.reached) && c.timed

theorem boundaryReached_iff {r : Run} : c.boundaryReached r = true ↔ r.reached ≤ r.steps.length ∧ c.boundaryMark r r.reached ≤ c.now ∧
    c.cutHolds (c.boundaryMark r r.reached) = false ∧ (c.tide.st = .aligned ∨ c.tide.st = .holdover) := by
  simp [Chip.boundaryReached, Chip.timed, and_assoc]

theorem stepBoundary_of_run {r : Run} (hr : c.run = some r) : stepBoundary c =
    Chip.when (c.boundaryReached r) (fun c => c.baseMark.updRun (fun r => { r with reached := r.reached + 1 })) c := by
  unfold stepBoundary
  rw [hr]
  rfl

/-! ### Berths (R100, R102, R465) -/

theorem releaseBerth_of_noRun (h : c.run = none) (k : Nat) : c.releaseBerth k = c := by
  unfold Chip.releaseBerth
  rw [h]

section
variable {r : Run} {k : Nat} (hr : c.run = some r)
include hr

theorem releaseBerth_of_noBerth (h : r.berths[k]? = none) : c.releaseBerth k = c := by
  unfold Chip.releaseBerth
  simp only [hr, h]

/-- A region's reservation is over: its step is, its reads have ended, and no later commit holds it. -/
def Run.frees (r : Run) (b : Berth) : Bool := b.st == .live && b.reads.isEmpty && r.heldOver b && !r.commitBerth b

omit hr in
theorem frees_iff {b : Berth} : r.frees b = true ↔ b.st = .live ∧ b.reads = [] ∧ r.heldOver b = true ∧ r.commitBerth b = false := by
  simp [Run.frees, and_assoc]

theorem releaseBerth_of_berth {b : Berth} (hb : r.berths[k]? = some b) :
    c.releaseBerth k = Chip.when (r.frees b) (fun c => c.updBerth k Berth.advance) c := by
  unfold Chip.releaseBerth
  simp only [hr, hb]
  rfl

end

theorem advance_of_more {b : Berth} (h : b.cur + 1 < b.count) : b.advance = { b with cur := b.cur + 1, got := [] } := if_pos h
theorem advance_of_last {b : Berth} (h : b.count ≤ b.cur + 1) : b.advance = { b with st := .released } := if_neg (Nat.not_lt.2 h)

/-! ### Shadows and reports of a commit (R463, R466, R467) -/

theorem commitShadow_of_noRun (h : c.run = none) (t : Nat) : commitShadow t c = c := by
  unfold commitShadow
  rw [h]

theorem commitReport_of_noRun (h : c.run = none) : commitReport c = c := by
  unfold commitReport
  rw [h]

theorem commitDeclare_of_noRun (h : c.run = none) (b : W32) : commitDeclare b c = c := by
  unfold commitDeclare
  rw [h]

section
variable {r : Run} (hr : c.run = some r)
include hr

theorem commitShadow_of_noBoundary {t : Nat} (h : r.bounds.find? (fun b => decide ((c.tile t).shadowStep < b)) = none) : commitShadow t c = c := by
  unfold commitShadow
  simp only [hr, h]

theorem commitShadow_of_boundary {t b : Nat} (h : r.bounds.find? (fun b => decide ((c.tile t).shadowStep < b)) = some b) : commitShadow t c =
    Chip.when (r.tiles.contains t && (c.tile t).st == .running && (c.tile t).pendShadow.isNone && decide (c.boundaryMark r b ≤ c.now) &&
        !c.cutHolds (c.boundaryMark r b) && c.tileStill t && c.issuedAll t (fun k => decide (c.boundaryMark r b ≤ k)))
      (fun c => c.updTile t (fun x => { x with pendShadow := some ⟨b, x.syncVals, x.idx, x.nextSeq⟩, seals := [] })) c := by
  unfold commitShadow
  simp only [hr, h]

theorem commitReport_of_noBoundary (h : r.bounds.find? (fun b => decide (r.reported < b)) = none) : commitReport c = c := by
  unfold commitReport
  simp only [hr, h]

theorem commitReport_of_boundary {b : Nat} (h : r.bounds.find? (fun b => decide (r.reported < b)) = some b) : commitReport c =
    Chip.when (r.tiles.all (fun t => ((c.tile t).pendShadow.map (fun s => s.step == b)).getD false) && !c.forcedHere && c.recov.phase == .none &&
        decide (c.boundaryMark r b ≤ c.now))
      (fun c =>
        let d := c.updRun (fun r => { r with reported := b })
        if d.tide.master then d.noteReport d.tide.position.toNat b else d.send (.commitReport d.tide.position (BitVec.ofNat 32 b))) c := by
  unfold commitReport
  simp only [hr, h]

/-- A member that reported a boundary takes its declaration. -/
def Chip.takesDeclare (c : Chip) (r : Run) (b : W32) : Bool :=
  !c.tide.master && decide (r.committed < b.toNat) && decide (r.reported = b.toNat) && c.recov.phase != .restore

omit hr in
theorem takesDeclare_iff {b : W32} : c.takesDeclare r b = true ↔ c.tide.master = false ∧ r.committed < b.toNat ∧ r.reported = b.toNat ∧
    c.recov.phase ≠ .restore := by
  simp [Chip.takesDeclare, and_assoc]

theorem commitDeclare_of_run (b : W32) : commitDeclare b c = Chip.when (c.takesDeclare r b) (fun c => c.commit b.toNat) c := by
  unfold commitDeclare
  rw [hr]
  rfl

end

theorem commitReportArrival_of_other {pos : BitVec 6} {b : W32} (h : c.tide.master = false ∨ c.run = none) : commitReportArrival pos b c = c := by
  refine if_neg ?_
  rcases h with h | h <;> simp [h]

theorem commitReportArrival_of_master {pos : BitVec 6} {b : W32} (master : c.tide.master = true) (active : c.run.isSome = true) :
    commitReportArrival pos b c = c.noteReport pos.toNat b.toNat := if_pos (by simp [master, active])

end

end Sys2Proof.Machine

namespace Sys2Proof
open Sys2Proof.Machine

/-- Settles O47: the pin is armed or not, and the cut mark and the hold each have a condition of their own. -/
theorem slackRequestsCutAndHoldTheRing : Obligations.SlackRequestsCutAndHoldTheRing := by
  unfold Obligations.SlackRequestsCutAndHoldTheRing
  rintro s _ hl rfl
  refine ⟨?_, fun disarmed => ?_, exec_slackReqRelease hl, fun noCut => ?_, fun m cut => ⟨fun h => ?_, ?_, ?_, fun h => ?_⟩⟩
  · rintro armed _ rfl
    rw [exec_slackReqPin hl, slackReqPin_of_armed armed, Chip.pinHeld]
  · rw [exec_slackReqPin hl, slackReqPin_of_disarmed disarmed, Chip.pinHeld]
  · rw [exec_slackCutMark hl, exec_slackReached hl, slackCutMark_of_noCut noCut, slackReached_of_noCut noCut, after_chip]
    exact ⟨rfl, rfl⟩
  · rw [exec_slackCutMark hl, slackCutMark_of_early_or_done cut h, after_chip]
  · rintro new due _ rfl
    rw [exec_slackCutMark hl, slackCutMark_of_due cut new due]
    exact ⟨fun h => by rw [if_pos (cutRecovers_iff.2 h), Chip.cutNow], fun h => by rw [if_neg (mt cutRecovers_iff.1 h), Chip.cutNow]⟩
  · rintro h _ rfl
    rw [exec_slackReached hl, slackReached_of_cut cut, when_of (holds_iff.2 h)]
    rfl
  · rw [exec_slackReached hl, slackReached_of_cut cut, when_of_false (Bool.eq_false_iff.2 (mt holds_iff.1 h)), after_chip]

/-- Settles O48: each event has its own condition on the run, and one case of what follows. That the last commit ends the run is the model's
reading (log 27, DEDUCED). -/
theorem stepsBerthsAndCommitsAdvance : Obligations.StepsBerthsAndCommitsAdvance := by
  unfold Obligations.StepsBerthsAndCommitsAdvance
  rintro s _ hl rfl
  refine ⟨fun none_ => ⟨?_, fun r => ?_, fun t => ?_, ?_, fun b => ?_⟩, fun pos b => ⟨fun h => ?_, ?_⟩, fun r hr => ⟨fun h => ?_, fun h => ?_,
    fun k => ⟨fun noBerth => ?_, fun b hb => ⟨fun frees => ?_, fun h => ?_⟩⟩, fun t => ⟨fun none_ => ?_, ?_⟩, fun none_ => ?_, ?_,
    fun b => ⟨fun h => ?_, fun h => ?_⟩⟩⟩
  · rw [exec_stepBoundary hl, stepBoundary_of_noRun none_, after_chip]
  · rw [exec_berthRelease hl, releaseBerth_of_noRun none_, after_chip]
  · rw [exec_commitShadow hl, commitShadow_of_noRun none_, after_chip]
  · rw [exec_commitReport hl, commitReport_of_noRun none_, after_chip]
  · rw [exec_commitDeclare hl, commitDeclare_of_noRun none_, after_chip]
  · rw [exec_commitReportArrival hl, commitReportArrival_of_other h, after_chip]
  · rintro master active _ rfl
    rw [exec_commitReportArrival hl, commitReportArrival_of_master master active, Chip.noteReport]
  · rw [exec_stepBoundary hl, stepBoundary_of_run hr, when_of (boundaryReached_iff.2 h)]
  · rw [exec_stepBoundary hl, stepBoundary_of_run hr, when_of_false (Bool.eq_false_iff.2 (mt boundaryReached_iff.1 h)), after_chip]
  · rw [exec_berthRelease hl, releaseBerth_of_noBerth hr noBerth, after_chip]
  · rw [exec_berthRelease hl, releaseBerth_of_berth hr hb, when_of (frees_iff.2 frees)]
    exact ⟨fun more => ⟨rfl, advance_of_more more⟩, fun last => ⟨rfl, advance_of_last last⟩⟩
  · rw [exec_berthRelease hl, releaseBerth_of_berth hr hb, when_of_false (Bool.eq_false_iff.2 (mt frees_iff.1 h)), after_chip]
  · rw [exec_commitShadow hl, commitShadow_of_noBoundary hr none_, after_chip]
  · rintro b _ found rfl _ rfl
    rw [exec_commitShadow hl, commitShadow_of_boundary hr found]
    exact ⟨fun no => by rw [when_of_false no, after_chip], fun yes => by rw [when_of yes]⟩
  · rw [exec_commitReport hl, commitReport_of_noBoundary hr none_, after_chip]
  · rintro b found _ rfl
    rw [exec_commitReport hl, commitReport_of_boundary hr found]
    refine ⟨fun no => by rw [when_of_false no, after_chip], ?_⟩
    rintro yes _ rfl
    rw [when_of yes]
    exact ⟨fun master => by dsimp only; rw [if_pos master], fun member => by dsimp only; rw [if_neg (ne_true_of_eq_false member)]⟩
  · rw [exec_commitDeclare hl, commitDeclare_of_run hr, when_of (takesDeclare_iff.2 h)]
  · rw [exec_commitDeclare hl, commitDeclare_of_run hr, when_of_false (Bool.eq_false_iff.2 (mt takesDeclare_iff.1 h)), after_chip]

end Sys2Proof
end

section
/-! PROOFS of the statements that earlier sittings left, a recovery: quiesce and drain, the decision and its deadline, the restore and the
replay mark; and the statement. -/
namespace Sys2Proof.Machine

section
variable {s : State} (hl : s.live = true)
include hl

theorem exec_quiesceTimeout : exec .quiesceTimeout s = .next (after s (quiesceTimeout s.chip)) := onChip_live hl _
theorem exec_drainDone : exec .drainDone s = .next (after s (drainDone s.chip)) := onChip_live hl _
theorem exec_drainTimeout (st : Strait) : exec (.drainTimeout st) s = .next (after s (drainTimeout st s.chip)) := onChip_live hl _
theorem exec_recoveryDecide (rs : List MemberReport) : exec (.recoveryDecide rs) s = .next (after s (recoveryDecide rs s.chip)) := onChip_live hl _
theorem exec_decisionDeadline (rs : List MemberReport) : exec (.decisionDeadline rs) s = .next (after s (decisionDeadline rs s.chip)) :=
  onChip_live hl _
theorem exec_recoveryDecision (d : Decision) : exec (.recoveryDecision d) s = .next (after s (recoveryDecision d s.chip)) := onChip_live hl _
theorem exec_restoreDone : exec .restoreDone s = .next (after s (restoreDone s.chip)) := onChip_live hl _
theorem exec_replayMark : exec .replayMark s = .next (after s (replayMark s.chip)) := onChip_live hl _

end

section
variable {c : Chip}

/-! ### Without a run -/

theorem quiesceTimeout_of_noRun (h : c.run = none) : quiesceTimeout c = c := by
  unfold quiesceTimeout
  rw [h]

theorem recoveryDecide_of_noRun (h : c.run = none) (rs : List MemberReport) : recoveryDecide rs c = c := by
  unfold recoveryDecide
  rw [h]

theorem decisionDeadline_of_noRun (h : c.run = none) (rs : List MemberReport) : decisionDeadline rs c = c := by
  unfold decisionDeadline
  rw [h]

theorem recoveryDecision_of_noRun (h : c.run = none) (d : Decision) : recoveryDecision d c = c := by
  unfold recoveryDecision
  exact when_of_false (by simp [h]) _ c

theorem restoreDone_of_noRun (h : c.run = none) : restoreDone c = c := by
  unfold restoreDone
  rw [h]

theorem replayMark_of_noRun (h : c.run = none) : replayMark c = c := by
  unfold replayMark
  split
  · rfl
  · exact when_of_false (by simp [h]) _ c

/-! ### Quiesce and drain (R473) -/

/-- Work is left 117,500 tk after the cut. -/
def Chip.quiesceOver (c : Chip) : Bool := c.recov.phase == .quiesce && decide (c.recov.phaseAt + 117500 ≤ c.up) && !c.workDone

theorem quiesceOver_iff : c.quiesceOver = true ↔ c.recov.phase = .quiesce ∧ c.recov.phaseAt + 117500 ≤ c.up ∧ c.workDone = false := by
  simp [Chip.quiesceOver, and_assoc]

theorem quiesceTimeout_of_run {r : Run} (hr : c.run = some r) : quiesceTimeout c = Chip.when c.quiesceOver (fun c =>
    let d := r.tiles.foldl (fun c t => c.updTile t (Tile.halt c.nowAc)) c
    ({ d with recov := { d.recov with cutStop := some d.nowAc } }).startDrain) c := by
  unfold quiesceTimeout
  rw [hr]
  rfl

/-- The chip whose drain has begun, where its work before the cut is done. -/
def Chip.drainBegun (c : Chip) : Chip := if c.recov.phase = .quiesce ∧ c.workDone = true then c.startDrain else c

/-- Both main straits are drained, and the Keeper runs. -/
def Chip.drainOver (c : Chip) : Bool := c.recov.phase == .drain && c.bothDrained && c.keeper.state == .running

theorem drainOver_iff : c.drainOver = true ↔ c.recov.phase = .drain ∧ c.bothDrained = true ∧ c.keeper.state = .running := by
  simp [Chip.drainOver, and_assoc]

theorem drainDone_eq : drainDone c = Chip.when c.drainBegun.drainOver Chip.reportIn c.drainBegun := by
  unfold drainDone Chip.drainBegun
  simp only [Bool.and_eq_true, beq_iff_eq]
  rfl

/-- A main strait is not drained 58,750 tk after the quiesce. -/
def Chip.drainLate (c : Chip) (st : Strait) : Bool :=
  c.recov.phase == .drain && straitMain st && decide (c.recov.phaseAt + 58750 ≤ c.up) && !(c.str st).drained

theorem drainLate_iff {st : Strait} : c.drainLate st = true ↔ c.recov.phase = .drain ∧ straitMain st = true ∧ c.recov.phaseAt + 58750 ≤ c.up ∧
    (c.str st).drained = false := by
  simp [Chip.drainLate, and_assoc]

/-- A main strait counts as down. -/
def Chip.countDown (c : Chip) (st : Strait) : Chip :=
  { c with recov := { c.recov with downE := c.recov.downE || st == .e, downW := c.recov.downW || st == .w } }

theorem drainTimeout_eq (st : Strait) : drainTimeout st c = Chip.when (c.drainLate st) (fun c =>
    if (c.countDown st).bothDrained && (c.countDown st).keeper.state == .running then (c.countDown st).reportIn else c.countDown st) c := rfl

theorem reports_iff : (c.bothDrained && c.keeper.state == .running) = true ↔ c.bothDrained = true ∧ c.keeper.state = .running := by simp

/-! ### The decision (R474, R478) -/

/-- The tide master holds every report. -/
def Chip.decides (c : Chip) (rs : List MemberReport) : Bool :=
  c.tide.master && c.keeper.state == .running && c.recov.phase == .decide && (missing c.ringSize (c.reports rs)).isEmpty

theorem decides_iff {rs : List MemberReport} : c.decides rs = true ↔ c.tide.master = true ∧ c.keeper.state = .running ∧
    c.recov.phase = .decide ∧ missing c.ringSize (c.reports rs) = [] := by
  simp [Chip.decides, and_assoc]

theorem recoveryDecide_of_run {r : Run} (hr : c.run = some r) (rs : List MemberReport) :
    recoveryDecide rs c = Chip.when (c.decides rs) (fun c => c.decideNow r rs) c := by
  unfold recoveryDecide
  rw [hr]
  rfl

/-- The chip after the successor of a tide master that has left took its place (R43). -/
def Chip.succeeded (c : Chip) (rs : List MemberReport) : Chip :=
  if c.tide.master = false ∧ c.recov.phase = .decide ∧ c.succeeds rs = true then c.takeOver else c

/-- The tide master's time to decide is over. -/
def Chip.decisionDue (c : Chip) : Bool :=
  c.tide.master && c.keeper.state == .running && c.recov.open_ && (c.recov.phase == .quiesce || c.recov.phase == .drain || c.recov.phase == .decide) &&
    decide (c.recov.tReq + 470000 ≤ c.now)

theorem decisionDue_iff : c.decisionDue = true ↔ c.tide.master = true ∧ c.keeper.state = .running ∧ c.recov.open_ = true ∧
    (c.recov.phase = .quiesce ∨ c.recov.phase = .drain ∨ c.recov.phase = .decide) ∧ c.recov.tReq + 470000 ≤ c.now := by
  simp [Chip.decisionDue, and_assoc, or_assoc]

theorem decisionDeadline_of_run {r : Run} (hr : c.run = some r) (rs : List MemberReport) :
    decisionDeadline rs c = Chip.when (c.succeeded rs).decisionDue (fun c => c.decideNow r rs) (c.succeeded rs) := by
  unfold decisionDeadline Chip.succeeded
  simp only [hr, Bool.and_eq_true, beq_iff_eq, Bool.not_eq_true', and_assoc]
  rfl

theorem takeOver_of_plan {p : Plan} (h : c.ring.inForce = some p) : c.takeOver = { c with
    ring := { c.ring with inForce := some { p with master := c.tide.position } },
    tide := { c.tide with master := true, refPri := (tideSources p true c.tide.path).1, refSec := (tideSources p true c.tide.path).2, refActive := 7,
                          hops := 0, st := if c.tide.st = .aligned then .holdover else c.tide.st, holdSince := c.up } } := by
  unfold Chip.takeOver
  split
  case h_1 none_ => cases h.symm.trans none_
  case h_2 q found =>
    cases h.symm.trans found
    rfl

/-- This member takes part in the recovery that a decision ends, or has taken its cut for a scheduled one (log 28). -/
def Chip.inRecovery (c : Chip) : Bool :=
  c.recov.phase == .quiesce || c.recov.phase == .drain || c.recov.phase == .decide ||
    ((c.recov.phase == .none || c.recov.phase == .cut) && c.slack.inEffect && !c.recov.open_)

theorem inRecovery_iff : c.inRecovery = true ↔ c.recov.phase = .quiesce ∨ c.recov.phase = .drain ∨ c.recov.phase = .decide ∨
    ((c.recov.phase = .none ∨ c.recov.phase = .cut) ∧ c.slack.inEffect = true ∧ c.recov.open_ = false) := by
  simp [Chip.inRecovery, and_assoc, or_assoc]

theorem inRecovery_eq_false (h : c.recov.phase = .restore ∨ c.recov.phase = .held ∨
    ((c.recov.phase = .none ∨ c.recov.phase = .cut) ∧ (c.slack.inEffect = false ∨ c.recov.open_ = true))) : c.inRecovery = false := by
  unfold Chip.inRecovery
  rcases h with phase | phase | ⟨phase | phase, out | opened⟩
  all_goals simp [*]

theorem recoveryDecision_of_run (active : c.run.isSome = true) (d : Decision) :
    recoveryDecision d c = Chip.when c.inRecovery (fun c => c.applyDecision d) c := by
  unfold recoveryDecision
  dsimp only
  rw [active, Bool.true_and]
  rfl

/-! ### The restore and the replay mark (R475, R476) -/

/-- The member's state is restored, its generations are free and its time base is aligned. -/
def Chip.restored (c : Chip) (r : Run) : Bool :=
  c.recov.phase == .restore && c.gensFree r && (c.tide.st == .aligned || c.tide.st == .holdover) && c.keeper.state == .running

/-- The chip whose replayed tiles take commands again. -/
def Chip.replaying (c : Chip) (r : Run) : Chip := (c.replayTiles r).foldl (fun c t => c.updTile t Tile.again) c

section
variable {r : Run} (hr : c.run = some r)
include hr

theorem restoreDone_of_unrestored (h : c.restored r = false) : restoreDone c = c := by
  unfold restoreDone
  rw [hr]
  exact when_of_false h _ c

theorem restoreDone_of_restored (h : c.restored r = true) : restoreDone c =
    if c.recov.cancelled then c.endAll 1 0x19
    else if (c.replaying r).recov.result = 0x18 then
      ({ c.replaying r with recov := { (c.replaying r).recov with phase := .held } }).holdAt (c.replaying r).recov.mc
    else ({ c.replaying r with recov := { (c.replaying r).recov with phase := .none } }).updRun (fun r => { r with state := .running }) := by
  unfold restoreDone
  rw [hr]
  exact when_of h _ c

end

theorem replayMark_of_noMark (h : c.recov.rp = none) : replayMark c = c := by
  unfold replayMark
  rw [h]

/-- The replay mark m is reached in a recovery that has restored its state. -/
def Chip.replays (c : Chip) (m : W64) : Bool :=
  c.recov.open_ && c.recov.phase == .none && c.run.isSome && decide (m.toNat ≤ c.now)

theorem replays_iff {m : W64} (active : c.run.isSome = true) :
    c.replays m = true ↔ c.recov.open_ = true ∧ c.recov.phase = .none ∧ m.toNat ≤ c.now := by
  simp [Chip.replays, active, and_assoc]

/-- The chip at the replay mark m: the recovery's time is recorded and the slack that led to it is over. -/
def Chip.slackOver (c : Chip) (m : W64) : Chip :=
  ({ c with recov := { c.recov with last := BitVec.ofNat 32 (m.toNat - c.recov.detect),
                                    worst := BitVec.ofNat 32 (max c.recov.worst.toNat (m.toNat - c.recov.detect)) } } : Chip).clearSlack

/-- The chip after the tide master took a scheduled slack that was asked for too late to be held (log 108). -/
def Chip.lateTaken (c : Chip) (m : W64) : Chip :=
  if c.slack.sched && c.tide.master && decide (c.recov.result = 0#8) then (c.slackOver m).masterTakes m (c.slackOver m).tide.position .cmd
  else c.slackOver m

/-- Only a forced request that reaches the tide master marks the recovery. -/
theorem masterTakes_cmd_recov (t : W64) (origin : BitVec 6) : (c.masterTakes t origin .cmd).recov = c.recov := by
  have unforced : (SlackCause.cmd == SlackCause.forced && !c.slack.forced && c.recov.phase == .none) = false := rfl
  unfold Chip.masterTakes Chip.noteReq
  simp only [unforced, Bool.false_eq_true, if_false]
  split
  · rfl
  · rfl

theorem lateTaken_result (m : W64) : (c.lateTaken m).recov.result = c.recov.result := by
  unfold Chip.lateTaken
  split
  · rw [masterTakes_cmd_recov]
    rfl
  · rfl

/-- RESUMED tells of a replay only. -/
def Chip.tellResumed (c : Chip) (m : W64) : Chip := if c.recov.result = 0 then c.evMod 0x0704 m c.tide.shift else c

theorem takesLate_iff : (c.slack.sched && c.tide.master && decide (c.recov.result = 0#8)) = true ↔
    c.slack.sched = true ∧ c.tide.master = true ∧ c.recov.result = 0 := by
  simp [and_assoc]

theorem replayMark_of_mark {m : W64} (hm : c.recov.rp = some m) :
    replayMark c = Chip.when (c.replays m) (fun c => ((c.lateTaken m).tellResumed m).recoveryDone m) c := by
  unfold replayMark
  rw [hm]
  rfl

end

end Sys2Proof.Machine

namespace Sys2Proof
open Sys2Proof.Machine

/-- Settles O49: each event of a recovery has its own condition, and one case of what follows. Choices of the model are in it: that the
successor has its own sources and takes the master's place in the plan at the deadline (log 61, DEDUCED), that a tile whose table breaks a rule
takes no command of the replay (log 97), and that a slack asked for too late is taken at Rp (log 108, DESIGN CHOICE). -/
theorem recoveryDrainsDecidesRestoresAndReplays : Obligations.RecoveryDrainsDecidesRestoresAndReplays := by
  unfold Obligations.RecoveryDrainsDecidesRestoresAndReplays
  rintro s _ hl rfl
  refine ⟨fun none_ => ⟨?_, fun rs => ⟨?_, ?_⟩, fun d => ?_, ?_, ?_⟩, fun r hr => ⟨fun h => ?_, fun h => ?_,
    fun rs => ⟨fun h => ?_, fun h => ?_, ?_⟩, fun d => ⟨fun h => ?_, fun h => ?_⟩, ?_, fun p plan => takeOver_of_plan plan, fun noMark => ?_,
    fun m mark => ⟨fun h => ?_, fun h => ?_⟩⟩, ?_, fun st => ⟨fun h => ?_, fun h => ?_⟩⟩
  · rw [exec_quiesceTimeout hl, quiesceTimeout_of_noRun none_, after_chip]
  · rw [exec_recoveryDecide hl, recoveryDecide_of_noRun none_, after_chip]
  · rw [exec_decisionDeadline hl, decisionDeadline_of_noRun none_, after_chip]
  · rw [exec_recoveryDecision hl, recoveryDecision_of_noRun none_, after_chip]
  · rw [exec_restoreDone hl, restoreDone_of_noRun none_, after_chip]
  · rw [exec_replayMark hl, replayMark_of_noRun none_, after_chip]
  · rintro _ rfl
    rw [exec_quiesceTimeout hl, quiesceTimeout_of_run hr, when_of (quiesceOver_iff.2 h)]
  · rw [exec_quiesceTimeout hl, quiesceTimeout_of_run hr, when_of_false (Bool.eq_false_iff.2 (mt quiesceOver_iff.1 h)), after_chip]
  · rw [exec_recoveryDecide hl, recoveryDecide_of_run hr, when_of (decides_iff.2 h)]
  · rw [exec_recoveryDecide hl, recoveryDecide_of_run hr, when_of_false (Bool.eq_false_iff.2 (mt decides_iff.1 h)), after_chip]
  · intro d succeeded
    rw [exec_decisionDeadline hl, decisionDeadline_of_run hr, Chip.succeeded, succeeded]
    exact ⟨fun h => by rw [when_of (decisionDue_iff.2 h)], fun h => by rw [when_of_false (Bool.eq_false_iff.2 (mt decisionDue_iff.1 h))]⟩
  · rw [exec_recoveryDecision hl, recoveryDecision_of_run (by rw [hr]; rfl), when_of (inRecovery_iff.2 h)]
  · rw [exec_recoveryDecision hl, recoveryDecision_of_run (by rw [hr]; rfl), when_of_false (inRecovery_eq_false h), after_chip]
  · rintro ok restored
    rw [exec_restoreDone hl]
    refine ⟨?_, ?_, ?_⟩
    · rintro rfl
      rw [restoreDone_of_unrestored hr restored, after_chip]
    · rintro rfl cancelled
      rw [restoreDone_of_restored hr restored, if_pos cancelled]
    · rintro rfl cancelled _ rfl
      rw [restoreDone_of_restored hr restored, if_neg (ne_true_of_eq_false cancelled), Chip.replaying]
      exact ⟨fun held => by rw [if_pos held], fun replays => by rw [if_neg replays]⟩
  · rw [exec_replayMark hl, replayMark_of_noMark noMark, after_chip]
  · rw [exec_replayMark hl, replayMark_of_mark mark, when_of_false (Bool.eq_false_iff.2 (mt (replays_iff (by rw [hr]; rfl)).1 h)), after_chip]
  · rintro _ d rfl taken
    have lateTaken : s.chip.lateTaken m = d := (if_congr takesLate_iff rfl rfl).trans taken
    have result : d.recov.result = s.chip.recov.result := by rw [← lateTaken, lateTaken_result]
    rw [exec_replayMark hl, replayMark_of_mark mark, when_of ((replays_iff (by rw [hr]; rfl)).2 h), lateTaken, Chip.tellResumed, result]
    exact ⟨fun replay => by rw [if_pos replay], fun other => by rw [if_neg other]⟩
  · intro d begun
    have drainBegun : s.chip.drainBegun = d := begun
    rw [exec_drainDone hl, drainDone_eq, drainBegun]
    exact ⟨fun h => by rw [when_of (drainOver_iff.2 h)], fun h => by rw [when_of_false (Bool.eq_false_iff.2 (mt drainOver_iff.1 h))]⟩
  · rw [exec_drainTimeout hl, drainTimeout_eq, when_of_false (Bool.eq_false_iff.2 (mt drainLate_iff.1 h)), after_chip]
  · intro d counted
    have countDown : s.chip.countDown st = d := counted
    rw [exec_drainTimeout hl, drainTimeout_eq, when_of (drainLate_iff.2 h), countDown]
    exact ⟨fun over_ => by rw [if_pos (reports_iff.2 over_)], fun waits => by rw [if_neg (mt reports_iff.1 waits)]⟩

end Sys2Proof
end

section
/-! PROOFS of the statements that earlier sittings left, what arrives on a strait besides ferries and writes: reads, signals, credits, probes
and slacks; and the statement. -/
namespace Sys2Proof.Machine

section
variable {s : State} {st : Strait} (hl : s.live = true)
include hl

theorem exec_rread : exec (.rread st) s = .next (after s (rread st s.chip)) := onChip_live hl _
theorem exec_rreadQueueServe : exec (.rreadQueueServe st) s = .next (after s (rreadQueueServe st s.jtag s.chip)) := onChipJ_live hl _
theorem exec_rreadResponse : exec (.rreadResponse st) s = .next (after s (rreadResponse st s.chip)) := onChip_live hl _
theorem exec_straitSignalAdd : exec (.straitSignalAdd st) s = .next (after s (straitSignal false st s.chip)) := onChip_live hl _
theorem exec_straitSignalSet : exec (.straitSignalSet st) s = .next (after s (straitSignal true st s.chip)) := onChip_live hl _
theorem exec_straitSignalAck : exec (.straitSignalAck st) s = .next (after s (straitSignalAck st s.chip)) := onChip_live hl _
theorem exec_probe : exec (.probe st) s = .next (after s (probe st s.chip)) := onChip_live hl _
theorem exec_credit : exec (.credit st) s = .next (after s (credit st s.chip)) := onChip_live hl _
theorem exec_slackRequest : exec (.slackRequest st) s = .next (after s (slackRequest st s.chip)) := onChip_live hl _
theorem exec_slackCut : exec (.slackCut st) s = .next (after s (slackCut st s.chip)) := onChip_live hl _

end

/-- A command that takes the oldest transaction of its type does nothing without one, and freezes the strait where its layout is broken (R400). -/
theorem exec_onRx_frame {s : State} {i : Instr} {st : Strait} {vc : BitVec 2} {ty : Nat} {k : Nat → Bool} {f : Chip → RxTxn → Chip}
    (row : exec i s = .next (after s (s.chip.onRx st vc ty k f))) :
    (s.chip.headRx st vc ty k = none → exec i s = .next s) ∧
    (∀ r, s.chip.headRx st vc ty k = some r → txnBodyOk r.txn.bytes = false →
      exec i s = .next (after s ((s.chip.popRx st vc).freezeBy st 0x02 r.txn.bytes 0))) :=
  ⟨fun none_ => by rw [row, onRx_of_none none_, after_chip], fun r head broken => by rw [row, onRx_of_badBody head broken]⟩

section
variable {c : Chip} {st : Strait} {r : RxTxn}

/-! ### RREAD (R353, R404, R405) -/

section
variable (h : Arrived c st 2 3 (fun x => decide (x % 2 = 0)) r)
include h

theorem rread_of_foreign (foreign : txnFlags r.txn.bytes / 2 % 2 = 0) :
    rread st c = (c.popRx st 2).freezeBy st 0x04 r.txn.bytes (fld (wordAt r.txn.bytes 8) 47 0) :=
  (onRx_arrived h).trans (if_pos foreign)

theorem rread_of_full (keepers : txnFlags r.txn.bytes / 2 % 2 ≠ 0) (full : 8 ≤ ((c.popRx st 2).str st).readQ.length) :
    rread st c = (c.popRx st 2).freezeBy st 0x02 r.txn.bytes (fld (wordAt r.txn.bytes 8) 47 0) :=
  (onRx_arrived h).trans ((if_neg keepers).trans (if_pos full))

theorem rread_of_room (keepers : txnFlags r.txn.bytes / 2 % 2 ≠ 0) (room : ((c.popRx st 2).str st).readQ.length < 8) :
    rread st c = (c.popRx st 2).updStr st (fun x => { x with readQ := x.readQ ++
      [⟨BitVec.ofNat 16 (fld (wordAt r.txn.bytes 8) 63 48), fld (wordAt r.txn.bytes 8) 47 0, fld (wordAt r.txn.bytes 16) 12 0⟩] }) :=
  (onRx_arrived h).trans ((if_neg keepers).trans (if_neg (Nat.not_le.2 room)))

end

theorem rreadResponse_of_arrived (h : Arrived c st 1 3 (fun x => decide (x % 2 = 1)) r) : rreadResponse st c =
    (c.popRx st 1).updStr st (fun x =>
      { x with outReads := x.outReads.filter (fun q => q.tag != BitVec.ofNat 16 (fld (wordAt r.txn.bytes 8) 63 48)) }) := onRx_arrived h

/-- The answer to a far Keeper's read of the queue: its bytes, and its pieces that are poisoned. -/
def Chip.readAnswer (c : Chip) (st : Strait) (q : RRead) (data : List Byte) (pieces : NatSet) (ac : Nat) : TxTxn :=
  ⟨⟨wordsBytes [txnHead 3 (c.str st).pver.toNat 3 q.size, mkWord [(48, 16, q.tag.toNat), (0, 48, q.addr)], mkWord [(0, 13, q.size)], 0] ++ data,
    pieces⟩, none, .rreadResp, 0, ac⟩

theorem rreadQueueServe_of_empty (j : Jtag) (empty : (c.str st).readQ = []) : rreadQueueServe st j c = c := by
  unfold rreadQueueServe
  rw [empty]

section
variable {q : RRead} {rest : List RRead} (j : Jtag) (hq : (c.str st).readQ = q :: rest)
include hq

theorem rreadQueueServe_of_noCredit (few : (c.str st).credit.w < cdiv (32 + q.size) 240) : rreadQueueServe st j c = c := by
  unfold rreadQueueServe
  rw [hq]
  exact if_pos few

theorem rreadQueueServe_of_barred (held : cdiv (32 + q.size) 240 ≤ (c.str st).credit.w) (barred : c.farBarred q.addr q.size = true) {d : Chip}
    (sent : (c.updStr st (fun x => { x with readQ := rest })).sendVc st 1
      (c.readAnswer st q (zeros q.size) [] (c.updStr st (fun x => { x with readQ := rest })).nowAc) = d) :
    rreadQueueServe st j c = d.freezeBy st 0x01 (wordsBytes [txnHead 3 (d.str st).pver.toNat 2 0, mkWord [(48, 16, q.tag.toNat), (0, 48, q.addr)],
      mkWord [(0, 13, q.size)], 0]) q.addr := by
  subst sent
  unfold rreadQueueServe
  rw [hq]
  refine (if_neg (Nat.not_lt.2 held)).trans ?_
  have unpoisoned : (List.range (cdiv q.size 32)).filter (fun _ => false) = [] := List.filter_false _
  dsimp only
  rw [if_pos barred, if_pos barred]
  dsimp only
  rw [unpoisoned]
  rfl

theorem rreadQueueServe_of_open (held : cdiv (32 + q.size) 240 ≤ (c.str st).credit.w) (open_ : c.farBarred q.addr q.size = false) :
    rreadQueueServe st j c = ((c.keeperRead j q.addr q.size).1.updStr st (fun x => { x with readQ := rest })).sendVc st 1
      (c.readAnswer st q (c.keeperRead j q.addr q.size).2.1 ((List.range (cdiv q.size 32)).filter (c.keeperRead j q.addr q.size).2.2)
        ((c.keeperRead j q.addr q.size).1.updStr st (fun x => { x with readQ := rest })).nowAc) := by
  unfold rreadQueueServe
  rw [hq]
  refine (if_neg (Nat.not_lt.2 held)).trans ?_
  dsimp only
  rw [if_neg (ne_true_of_eq_false open_), if_neg (ne_true_of_eq_false open_)]
  rfl

end

/-! ### SIGNAL (R352, R355, R370, R406) -/

/-- What a SIGNAL of KIND ADD or SET does to its object. -/
def signalUpd (set : Bool) (bs : List Byte) : SyncUpd :=
  if set then .set (BitVec.ofNat 32 (fld (wordAt bs 16) 31 0)) else .add (BitVec.ofNat 32 (fld (wordAt bs 16) 31 0))

theorem straitSignal_of_arrived {set : Bool} (h : Arrived c st 2 4 (fun x => decide (x % 4 = if set then 1 else 0)) r) {t o : Nat}
    (tile : fld (wordAt r.txn.bytes 8) 47 36 = t) (object : fld (wordAt r.txn.bytes 8) 5 0 = o) : straitSignal set st c =
    if (c.popRx st 2).maySync (fun x => x.names st) t o (signalUpd set r.txn.bytes) then
      ((c.popRx st 2).syncApply (rankStrait st) t o (signalUpd set r.txn.bytes) (BitVec.ofNat 3 (fld (wordAt r.txn.bytes 8) 35 33))
        (straitScope st)).getD (c.popRx st 2)
    else (c.popRx st 2).freezeBy st 0x01 r.txn.bytes (portAddr t o) := by
  subst tile object
  exact onRx_arrived h

/-- A SIGNAL of KIND ADD or SET updates an object that the exports open, and else freezes its strait. -/
theorem exec_straitSignal {s : State} {i : Instr} {set : Bool} (row : exec i s = .next (after s (straitSignal set st s.chip)))
    (h : Arrived s.chip st 2 4 (fun x => decide (x % 4 = if set then 1 else 0)) r) {t o : Nat} (tile : fld (wordAt r.txn.bytes 8) 47 36 = t)
    (object : fld (wordAt r.txn.bytes 8) 5 0 = o) :
    ((s.chip.popRx st 2).maySync (fun x => x.names st) t o (signalUpd set r.txn.bytes) = true → ∀ d, (s.chip.popRx st 2).syncApply (rankStrait st)
        t o (signalUpd set r.txn.bytes) (BitVec.ofNat 3 (fld (wordAt r.txn.bytes 8) 35 33)) (straitScope st) = some d → exec i s = .next (after s d)) ∧
    ((s.chip.popRx st 2).maySync (fun x => x.names st) t o (signalUpd set r.txn.bytes) = false →
      exec i s = .next (after s ((s.chip.popRx st 2).freezeBy st 0x01 r.txn.bytes (portAddr t o)))) := by
  rw [row, straitSignal_of_arrived h tile object]
  exact ⟨fun opened d updated => by rw [if_pos opened, updated]; rfl, fun closed => by rw [if_neg (ne_true_of_eq_false closed)]⟩

/-- The stream of a tile whose active transfer an ACK of strait `st` and identity `id` completes. -/
def Chip.ackedStream (c : Chip) (st : Strait) (t : Nat) (id : W16) : Option (Nat × Stream) :=
  (c.tile t).streams.find? (fun s => (s.2.active.map (fun x => x.cmd.id == id && decide (4 ≤ x.cmd.route) && (routeStrait x.cmd.route == st))).getD false)

section
variable (h : Arrived c st 2 4 (fun x => decide (x % 4 = 2)) r) {t : Nat} {id : W16} (tile : fld (wordAt r.txn.bytes 8) 47 36 = t)
  (ident : BitVec.ofNat 16 (fld (wordAt r.txn.bytes 8) 63 48) = id) {d : Chip} (came : (c.popRx st 2).ackCame st t id = d)
include h tile ident came

theorem straitSignalAck_of_stale (old : id.toNat / 0x1000 ≠ (d.tile t).gen.toNat) : straitSignalAck st c = d.countStale t := by
  subst tile ident came
  exact (onRx_arrived h).trans (if_pos (decide_eq_true old))

theorem straitSignalAck_of_current (current : id.toNat / 0x1000 = (d.tile t).gen.toNat) : straitSignalAck st c =
    match d.ackedStream st t id with
    | some p => transferComplete t p.1 (d.updTile t (fun x => x.setStream p.1 { p.2 with active := p.2.active.map (fun y => { y with acked := true }) }))
    | none => d := by
  subst tile ident came
  exact (onRx_arrived h).trans ((if_neg (ne_true_of_eq_false (decide_eq_false (not_not.2 current)))).trans rfl)

end

/-! ### PROBE (R407, R410, R411) -/

/-- The chip that has recorded the far identity of a PROBE. -/
def Chip.probed (c : Chip) (st : Strait) (f : Ident) : Chip := (c.popRx st 3).updStr st (fun x => { x with far := f, probeSeen := true })

/-- A strait in IDENTIFY whose ends share no version goes DOWN for good. -/
def Chip.noVersion (c : Chip) (st : Strait) (f : Ident) : Chip :=
  (c.updStr st (fun x => { (x.toDown c.up) with far := f, probeSeen := true, noRetry := true, retryAt := none, versionFail := true })).lockLost st

/-- A strait in IDENTIFY comes UP with its pair version. -/
def Chip.versionSet (c : Chip) (st : Strait) (v : Byte) : Chip :=
  c.updStr st (fun x => { (x.enter .up c.up) with pver := v, versionFail := false, lastGood := c.up })

/-- The chip that has recorded a PROBE and, in IDENTIFY, settled the version. -/
def Chip.settled (c : Chip) (st : Strait) (f : Ident) : Chip :=
  if (c.str st).train = .identify then
    match pairVersion f with
    | none => (c.probed st f).noVersion st f
    | some v => (c.probed st f).versionSet st v
  else c.probed st f

theorem settled_of_identified (train : (c.str st).train ≠ .identify) (f : Ident) : c.settled st f = c.probed st f := if_neg train

theorem settled_of_noVersion (train : (c.str st).train = .identify) {f : Ident} (version : pairVersion f = none) :
    c.settled st f = (c.probed st f).noVersion st f :=
  (if_pos train).trans (by rw [version])

theorem settled_of_version (train : (c.str st).train = .identify) {f : Ident} {v : Byte} (version : pairVersion f = some v) :
    c.settled st f = (c.probed st f).versionSet st v :=
  (if_pos train).trans (by rw [version])

/-- A strait that is UP with another far end than formation admitted freezes. -/
def Chip.checkFar (c : Chip) (st : Strait) (f : Ident) (bs : List Byte) : Chip :=
  if (c.str st).admitted = none ∨ (c.str st).admitted = some f then c else c.freezeBy st 0x05 bs 0

section
variable (h : Arrived c st 3 6 (fun _ => true) r) {f : Ident} (far : probeIdent r.txn.bytes = f) {e : Chip} (settled : c.settled st f = e)
include h far settled

theorem probe_of_notUp (up : (e.str st).train ≠ .up) : probe st c = e := by
  subst far settled
  exact (onRx_arrived h).trans (if_pos up)

theorem probe_of_up (up : (e.str st).train = .up) : probe st c =
    if (c.str st).train = .identify ∧ (e.checkFar st f r.txn.bytes).ring.member = true ∧ (e.checkFar st f r.txn.bytes).ring.form = .formed then
      (e.checkFar st f r.txn.bytes).isolate st 0xF
    else (e.checkFar st f r.txn.bytes).discoverCheck := by
  subst far settled
  exact (onRx_arrived h).trans (if_neg (not_not.2 up))

end

/-! ### CREDIT (R383, R408) -/

section
variable (h : Arrived c st 3 5 (fun _ => true) r)
include h

theorem credit_of_align (align : ((c.popRx st 3).str st).train = .align) {b : V4 Nat} (buffers : b =
      ⟨fld (wordAt r.txn.bytes 8) 56 48, fld (wordAt r.txn.bytes 8) 39 32, fld (wordAt r.txn.bytes 8) 21 16, fld (wordAt r.txn.bytes 8) 5 0⟩) :
    credit st c = (c.popRx st 3).updStr st (fun x => ({ x with farBuf := b, credit := b } : Str).noteCredits c.up) := by
  subst buffers
  exact (onRx_arrived h).trans (if_pos align)

theorem credit_of_other (other : ((c.popRx st 3).str st).train ≠ .align) : credit st c = (c.popRx st 3).freezeBy st 0x02 r.txn.bytes 0 :=
  (onRx_arrived h).trans (if_neg other)

end

/-! ### SLACK (R82) -/

section
variable {d : Chip} (popped : c.popRx st 3 = d)
include popped

section
variable (h : Arrived c st 3 8 (fun x => decide (x % 4 = 0)) r)
include h

theorem slackRequest_of_cross (cross : straitMain st = false) : slackRequest st c = d.freezeBy st 0x07 r.txn.bytes 0 := by
  subst popped
  exact (onRx_arrived h).trans (if_pos (by simp [cross]))

theorem slackRequest_of_master (main : straitMain st = true) (master : d.tide.master = true) : slackRequest st c =
    d.masterTakes (wordAt r.txn.bytes 16) (BitVec.ofNat 6 (fld (wordAt r.txn.bytes 24) 63 58)) (causeOf (fld (wordAt r.txn.bytes 24) 57 56)) := by
  subst popped
  exact (onRx_arrived h).trans ((if_neg (by simp [main])).trans (if_pos master))

theorem slackRequest_of_member (main : straitMain st = true) (member : d.tide.master = false) : slackRequest st c =
    match d.towardMaster with
    | some t => d.sendSlack t 0 (wordAt r.txn.bytes 8) (wordAt r.txn.bytes 16) (BitVec.ofNat 6 (fld (wordAt r.txn.bytes 24) 63 58))
        (fld (wordAt r.txn.bytes 24) 57 56)
    | none => d := by
  subst popped
  exact (onRx_arrived h).trans ((if_neg (by simp [main])).trans (if_neg (ne_true_of_eq_false member)))

end

section
variable (h : Arrived c st 3 8 (fun x => decide (x % 4 = 1)) r)
include h

theorem slackCut_of_cross (cross : straitMain st = false) : slackCut st c = d.freezeBy st 0x07 r.txn.bytes 0 := by
  subst popped
  exact (onRx_arrived h).trans (if_pos (by simp [cross]))

theorem slackCut_of_seen (main : straitMain st = true) (seen : d.slack.seen.contains (wordAt r.txn.bytes 8) = true) : slackCut st c = d := by
  subst popped
  exact (onRx_arrived h).trans ((if_neg (by simp [main])).trans (if_pos seen))

theorem slackCut_of_new (main : straitMain st = true) (new : d.slack.seen.contains (wordAt r.txn.bytes 8) = false) {k : SlackCause} {o : BitVec 6}
    (cause : causeOf (fld (wordAt r.txn.bytes 24) 57 56) = k) (origin : BitVec.ofNat 6 (fld (wordAt r.txn.bytes 24) 63 58) = o) : slackCut st c =
    ((d.noteReq (wordAt r.txn.bytes 16) k).applyCut (wordAt r.txn.bytes 8) o (k == .forced)).sendSlack (if st = Strait.e then .w else .e) 1
      (wordAt r.txn.bytes 8) (wordAt r.txn.bytes 16) o (fld (wordAt r.txn.bytes 24) 57 56) := by
  subst popped cause origin
  exact (onRx_arrived h).trans ((if_neg (by simp [main])).trans (if_neg (ne_true_of_eq_false new)))

end

end

end

end Sys2Proof.Machine

namespace Sys2Proof
open Sys2Proof.Machine

/-- Settles O46: each row on the transaction at the head of its buffer is its one case. Choices of the model are in it: a read that every master
is kept from is answered with zeros (log 87), an ACK whose command has ended changes nothing (log 116), and the far end is compared over the
whole PROBE record (log 62), all DEDUCED. -/
theorem readsSignalsProbesAndSlacksAreTaken : Obligations.ReadsSignalsProbesAndSlacksAreTaken := by
  unfold Obligations.ReadsSignalsProbesAndSlacksAreTaken
  rintro s _ st hl rfl
  refine ⟨?_, ?_, fun empty => ?_, fun q rest hq => ⟨fun few => ?_, fun held barred d sent => ?_, ?_⟩⟩
  · rintro i vc ty k (⟨rfl, rfl, rfl, rfl⟩ | ⟨rfl, rfl, rfl, rfl⟩ | ⟨rfl, rfl, rfl, rfl⟩ | ⟨rfl, rfl, rfl, rfl⟩ | ⟨rfl, rfl, rfl, rfl⟩ |
      ⟨rfl, rfl, rfl, rfl⟩ | ⟨rfl, rfl, rfl, rfl⟩ | ⟨rfl, rfl, rfl, rfl⟩ | ⟨rfl, rfl, rfl, rfl⟩)
    · exact exec_onRx_frame (exec_rread hl)
    · exact exec_onRx_frame (exec_rreadResponse hl)
    · exact exec_onRx_frame (exec_straitSignalAdd hl)
    · exact exec_onRx_frame (exec_straitSignalSet hl)
    · exact exec_onRx_frame (exec_straitSignalAck hl)
    · exact exec_onRx_frame (exec_probe hl)
    · exact exec_onRx_frame (exec_credit hl)
    · exact exec_onRx_frame (exec_slackRequest hl)
    · exact exec_onRx_frame (exec_slackCut hl)
  · rintro r _ body rfl
    refine ⟨fun head => ⟨fun foreign => ?_, fun keepers full => ?_, fun keepers room => ?_⟩, fun head => ?_, ?_, ?_,
      fun head f d e far recorded => ⟨?_, ?_, ?_⟩, ?_, fun head d popped => ⟨fun cross => ?_, fun main master => ?_,
      fun main member => ⟨fun none_ => ?_, fun t toward => ?_⟩⟩, fun head d popped => ⟨fun cross => ?_, fun main seen => ?_,
      fun main new k o cause origin => ?_⟩⟩
    · rw [exec_rread hl, rread_of_foreign ⟨head, body⟩ foreign]
    · rw [exec_rread hl, rread_of_full ⟨head, body⟩ keepers full]
    · rw [exec_rread hl, rread_of_room ⟨head, body⟩ keepers room]
    · rw [exec_rreadResponse hl, rreadResponse_of_arrived ⟨head, body⟩]
    · rintro i m u t o (⟨rfl, rfl, rfl⟩ | ⟨rfl, rfl, rfl⟩) head tile object
      · exact exec_straitSignal (exec_straitSignalAdd hl) ⟨head, body⟩ tile object
      · exact exec_straitSignal (exec_straitSignalSet hl) ⟨head, body⟩ tile object
    · intro t id d head tile ident came
      rw [exec_straitSignalAck hl]
      refine ⟨fun old => ?_, fun current f found => ?_⟩
      · rw [straitSignalAck_of_stale ⟨head, body⟩ tile ident came old, Chip.countStale]
      · have stream : d.ackedStream st t id = f := found
        rw [straitSignalAck_of_current ⟨head, body⟩ tile ident came current, stream]
        exact ⟨fun none_ => by rw [none_], fun p some_ => by rw [some_]⟩
    · rintro train version rfl down
      subst recorded
      rw [exec_probe hl, probe_of_notUp ⟨head, body⟩ far (settled_of_noVersion train version) down, Chip.noVersion, Chip.probed]
    · rintro train down
      subst recorded
      rw [exec_probe hl, probe_of_notUp ⟨head, body⟩ far (settled_of_identified train f) down, Chip.probed]
    · intro outcome up g admitted
      have settled : s.chip.settled st f = e := by
        subst recorded
        rcases outcome with ⟨train, v, version, rfl⟩ | ⟨train, rfl⟩
        · exact settled_of_version train version
        · exact settled_of_identified train f
      have checkFar : e.checkFar st f r.txn.bytes = g := admitted
      rw [exec_probe hl, probe_of_up ⟨head, body⟩ far settled up, checkFar]
      exact ⟨fun formed => by rw [if_pos formed], fun other => by rw [if_neg other]⟩
    · rintro head _ rfl
      refine ⟨?_, fun other => ?_⟩
      · rintro align _ b rfl buffers
        rw [exec_credit hl, credit_of_align ⟨head, body⟩ align buffers]
      · rw [exec_credit hl, credit_of_other ⟨head, body⟩ other]
    · rw [exec_slackRequest hl, slackRequest_of_cross popped ⟨head, body⟩ cross]
    · rw [exec_slackRequest hl, slackRequest_of_master popped ⟨head, body⟩ main master]
    · rw [exec_slackRequest hl, slackRequest_of_member popped ⟨head, body⟩ main member, none_]
    · rw [exec_slackRequest hl, slackRequest_of_member popped ⟨head, body⟩ main member, toward]
    · rw [exec_slackCut hl, slackCut_of_cross popped ⟨head, body⟩ cross]
    · rw [exec_slackCut hl, slackCut_of_seen popped ⟨head, body⟩ main seen]
    · rw [exec_slackCut hl, slackCut_of_new popped ⟨head, body⟩ main new cause origin]
  · rw [exec_rreadQueueServe hl, rreadQueueServe_of_empty s.jtag empty, after_chip]
  · rw [exec_rreadQueueServe hl, rreadQueueServe_of_noCredit s.jtag hq few, after_chip]
  · rw [exec_rreadQueueServe hl, rreadQueueServe_of_barred s.jtag hq held barred sent]
  · rintro held open_ _ rfl
    rw [exec_rreadQueueServe hl, rreadQueueServe_of_open s.jtag hq held open_, Chip.readAnswer]

end Sys2Proof
end
